-- ==== Sys2Proof/Word.lean ====
section
/-! DEFINITION. The word types of the SX9 (R4, R73): 64-bit scalars, bytes, 32-bit instruction words, and the widest
vector register and mask. -/

namespace Sys2Proof

/-- A 64-bit scalar (R73). -/
abbrev Word := BitVec 64

/-- One byte of memory (R4). -/
abbrev Byte := BitVec 8

/-- A 32-bit instruction word (R36). -/
abbrev IWord := BitVec 32

/-- The content of a vector register, at the width of a long register (R128); a short register is its low 256 bits. -/
abbrev VReg := BitVec 8192

/-- The content of a mask, at the width of a long mask (R128); a short mask is its low 32 bits. -/
abbrev MReg := BitVec 1024

/-- A shape register (R276). -/
abbrev ShapeReg := BitVec 512

end Sys2Proof
end

