-- ==== Sys2Proof/Syntax.lean ====
section
/-! DEFINITION. The instructions: one constructor per row of spec/opcode_table.json. The first 277 are the instruction
words of Yopel 1.2 with their raw fields (R39, R49 to R56); the remaining 93 are the part's own steps (spec/95), which
the step function takes when their conditions hold or which the outside world delivers. -/

namespace Sys2Proof

/-- A register that a write without behaviour of its own reaches (REGISTER_WRITE, R71): a CSR by number, or an MMIO
register by fabric address. -/
inductive RegName where
  | csr (c : BitVec 12)
  | mmio (fpa : Nat)
  deriving DecidableEq, Repr

/-- What a router does with the packet at the head of an input (R309 to R311, R313): it sends it over the Viaduct to a
die of the package (4 is the I/O die), out on a UALink plane to another package, whose I/O die it reaches with `arrive`, or
the output is blocked. -/
inductive Hop where
  | viaduct (die : Nat)
  | plane (plane node : Nat)
  | arrive
  | blocked
  deriving DecidableEq, Repr

/-- What the sensors of a Pier read (R403): its voltage in mV and its temperature in °C. -/
structure PierReading where
  voltage : Nat
  temp : Nat
  deriving DecidableEq, Repr

/-- A key for a key slot (R402). -/
structure SlotKey where
  slot : Nat
  key : BitVec 512
  deriving DecidableEq, Repr

/-- A firmware image (R400): the fields of its header, the bytes of its body, and whether its signature checks against
Amauza's firmware key over the header's bytes 0 to 79: that key is not given, so the outcome comes with the image (log 12). -/
structure FwImage where
  magic : BitVec 64
  length : BitVec 32
  version : BitVec 8
  zero : BitVec 24
  digest : BitVec 512
  signature : BitVec 912
  signed : Bool
  body : List Byte
  deriving DecidableEq, Repr

/-- The rows of the opcode table. Register fields keep the value the word holds; what a value names is R41 to R46. -/
inductive Instr where
  /-- `ADD` (R115). Writes the 64-bit sum of two scalar registers. -/
  | add (rd ra rb : BitVec 7)
  /-- `SUB` (R115). Writes the 64-bit difference of two scalar registers. -/
  | sub (rd ra rb : BitVec 7)
  /-- `AND` (R115). Writes the bitwise AND of two scalar registers. -/
  | and (rd ra rb : BitVec 7)
  /-- `OR` (R115). Writes the bitwise OR of two scalar registers. -/
  | or (rd ra rb : BitVec 7)
  /-- `XOR` (R115). Writes the bitwise exclusive OR of two scalar registers. -/
  | xor (rd ra rb : BitVec 7)
  /-- `ANDN` (R115). Writes a AND NOT b. -/
  | andn (rd ra rb : BitVec 7)
  /-- `ORN` (R115). Writes a OR NOT b. -/
  | orn (rd ra rb : BitVec 7)
  /-- `SLL` (R115). Shifts left by b[5:0]. -/
  | sll (rd ra rb : BitVec 7)
  /-- `SRL` (R115). Shifts right logically by b[5:0]. -/
  | srl (rd ra rb : BitVec 7)
  /-- `SRA` (R115). Shifts right arithmetically by b[5:0]. -/
  | sra (rd ra rb : BitVec 7)
  /-- `ROL` (R115). Rotates left by b[5:0]. -/
  | rol (rd ra rb : BitVec 7)
  /-- `ROR` (R115). Rotates right by b[5:0]. -/
  | ror (rd ra rb : BitVec 7)
  /-- `SLT` (R115). Writes 1 if a is less than b, signed. -/
  | slt (rd ra rb : BitVec 7)
  /-- `SLTU` (R115). Writes 1 if a is less than b, unsigned. -/
  | sltu (rd ra rb : BitVec 7)
  /-- `MIN` (R115). Writes the signed minimum. -/
  | min (rd ra rb : BitVec 7)
  /-- `MAX` (R115). Writes the signed maximum. -/
  | max (rd ra rb : BitVec 7)
  /-- `MINU` (R115). Writes the unsigned minimum. -/
  | minu (rd ra rb : BitVec 7)
  /-- `MAXU` (R115). Writes the unsigned maximum. -/
  | maxu (rd ra rb : BitVec 7)
  /-- `MUL` (R115). Writes the low 64 bits of the product. -/
  | mul (rd ra rb : BitVec 7)
  /-- `MULH` (R115). Writes the high 64 bits of the signed product. -/
  | mulh (rd ra rb : BitVec 7)
  /-- `MULHU` (R115). Writes the high 64 bits of the unsigned product. -/
  | mulhu (rd ra rb : BitVec 7)
  /-- `DIV` (R116). Signed division truncating towards zero, with no trap. -/
  | div (rd ra rb : BitVec 7)
  /-- `DIVU` (R116). Unsigned division, with no trap. -/
  | divu (rd ra rb : BitVec 7)
  /-- `REM` (R116). Signed remainder with the sign of the dividend. -/
  | rem (rd ra rb : BitVec 7)
  /-- `REMU` (R116). Unsigned remainder. -/
  | remu (rd ra rb : BitVec 7)
  /-- `CLZ` (R115). Counts leading zeros. -/
  | clz (rd ra : BitVec 7)
  /-- `CTZ` (R115). Counts trailing zeros. -/
  | ctz (rd ra : BitVec 7)
  /-- `POPC` (R115). Counts one bits. -/
  | popc (rd ra : BitVec 7)
  /-- `SEXTB` (R115). Sign-extends from 8 bits. -/
  | sextb (rd ra : BitVec 7)
  /-- `SEXTH` (R115). Sign-extends from 16 bits. -/
  | sexth (rd ra : BitVec 7)
  /-- `SEXTW` (R115). Sign-extends from 32 bits. -/
  | sextw (rd ra : BitVec 7)
  /-- `ZEXTW` (R115). Zero-extends from 32 bits. -/
  | zextw (rd ra : BitVec 7)
  /-- `ADDW` (R117). 32-bit add, with the result sign-extended. -/
  | addw (rd ra rb : BitVec 7)
  /-- `SUBW` (R117). 32-bit subtract, with the result sign-extended. -/
  | subw (rd ra rb : BitVec 7)
  /-- `SLLW` (R117). 32-bit left shift, with the result sign-extended. -/
  | sllw (rd ra rb : BitVec 7)
  /-- `SRLW` (R117). 32-bit logical right shift, with the result sign-extended. -/
  | srlw (rd ra rb : BitVec 7)
  /-- `SRAW` (R117). 32-bit arithmetic right shift. -/
  | sraw (rd ra rb : BitVec 7)
  /-- `MULW` (R117). 32-bit multiply, with the result sign-extended. -/
  | mulw (rd ra rb : BitVec 7)
  /-- `DIVW` (R117). 32-bit signed divide. -/
  | divw (rd ra rb : BitVec 7)
  /-- `DIVUW` (R117). 32-bit unsigned divide. -/
  | divuw (rd ra rb : BitVec 7)
  /-- `REMW` (R117). 32-bit signed remainder. -/
  | remw (rd ra rb : BitVec 7)
  /-- `REMUW` (R117). 32-bit unsigned remainder. -/
  | remuw (rd ra rb : BitVec 7)
  /-- `ADDI` (R118). Adds a sign-extended 12-bit immediate. -/
  | addi (rd ra : BitVec 7) (imm : BitVec 12)
  /-- `ANDI` (R118). ANDs with a sign-extended immediate. -/
  | andi (rd ra : BitVec 7) (imm : BitVec 12)
  /-- `ORI` (R118). ORs with a sign-extended immediate. -/
  | ori (rd ra : BitVec 7) (imm : BitVec 12)
  /-- `XORI` (R118). Exclusive-ORs with a sign-extended immediate. -/
  | xori (rd ra : BitVec 7) (imm : BitVec 12)
  /-- `SLLI` (R119). Shifts left by an immediate amount. -/
  | slli (rd ra : BitVec 7) (n : BitVec 6)
  /-- `SRLI` (R119). Shifts right logically by an immediate amount. -/
  | srli (rd ra : BitVec 7) (n : BitVec 6)
  /-- `SRAI` (R119). Shifts right arithmetically by an immediate amount. -/
  | srai (rd ra : BitVec 7) (n : BitVec 6)
  /-- `RORI` (R119). Rotates right by an immediate amount. -/
  | rori (rd ra : BitVec 7) (n : BitVec 6)
  /-- `SLTI` (R118). Writes 1 if the register is less than the immediate, signed. -/
  | slti (rd ra : BitVec 7) (imm : BitVec 12)
  /-- `LUI` (R120). Writes SignExt(imm19 << 13, 32). -/
  | lui (rd : BitVec 7) (imm : BitVec 19)
  /-- `AUIPC` (R120). Writes PC + SignExt(imm19 << 12, 31). -/
  | auipc (rd : BitVec 7) (imm : BitVec 19)
  /-- `BEQ` (R121). Branches if the operands are equal. -/
  | beq (ra rb : BitVec 7) (off : BitVec 12)
  /-- `BNE` (R121). Branches if the operands are not equal. -/
  | bne (ra rb : BitVec 7) (off : BitVec 12)
  /-- `BLT` (R121). Branches if a is less than b, signed. -/
  | blt (ra rb : BitVec 7) (off : BitVec 12)
  /-- `BGE` (R121). Branches if a is at least b, signed. -/
  | bge (ra rb : BitVec 7) (off : BitVec 12)
  /-- `BLTU` (R121). Branches if a is less than b, unsigned. -/
  | bltu (ra rb : BitVec 7) (off : BitVec 12)
  /-- `BGEU` (R121). Branches if a is at least b, unsigned. -/
  | bgeu (ra rb : BitVec 7) (off : BitVec 12)
  /-- `JAL` (R122). Links PC+4 and jumps PC-relative. -/
  | jal (rd : BitVec 7) (off : BitVec 19)
  /-- `JALR` (R122). Links PC+4 and jumps to the register plus the immediate; a misaligned target traps. -/
  | jalr (rd ra : BitVec 7) (imm : BitVec 12)
  /-- `LB` (R123). Loads a byte, sign-extended. -/
  | lb (rd ra : BitVec 7) (imm : BitVec 9)
  /-- `LBU` (R123). Loads a byte, zero-extended. -/
  | lbu (rd ra : BitVec 7) (imm : BitVec 9)
  /-- `LH` (R123). Loads a half, sign-extended. -/
  | lh (rd ra : BitVec 7) (imm : BitVec 9)
  /-- `LHU` (R123). Loads a half, zero-extended. -/
  | lhu (rd ra : BitVec 7) (imm : BitVec 9)
  /-- `LW` (R123). Loads a word, sign-extended. -/
  | lw (rd ra : BitVec 7) (imm : BitVec 9)
  /-- `LWU` (R123). Loads a word, zero-extended. -/
  | lwu (rd ra : BitVec 7) (imm : BitVec 9)
  /-- `LD` (R123). Loads a doubleword. -/
  | ld (rd ra : BitVec 7) (imm : BitVec 9)
  /-- `LDB` (R123). Loads a doubleword, bypassing the L1. -/
  | ldb (rd ra : BitVec 7) (imm : BitVec 9)
  /-- `SB` (R124). Stores a byte. -/
  | sb (rd ra : BitVec 7) (imm : BitVec 9)
  /-- `SH` (R124). Stores a half. -/
  | sh (rd ra : BitVec 7) (imm : BitVec 9)
  /-- `SW` (R124). Stores a word. -/
  | sw (rd ra : BitVec 7) (imm : BitVec 9)
  /-- `SD` (R124). Stores a doubleword. -/
  | sd (rd ra : BitVec 7) (imm : BitVec 9)
  /-- `LDA_S` (R204). Acquire load at Span scope. -/
  | ldaS (rd ra : BitVec 7)
  /-- `LDA_D` (R204). Acquire load at die scope; removes the Span's L1 lines. -/
  | ldaD (rd ra : BitVec 7)
  /-- `LDA_P` (R204). Acquire load at pod scope; removes the L1 lines and the die's window lines. -/
  | ldaP (rd ra : BitVec 7)
  /-- `STR_S` (R204). Release store at Span scope. -/
  | strS (ra rb : BitVec 7)
  /-- `STR_D` (R204). Release store at die scope. -/
  | strD (ra rb : BitVec 7)
  /-- `STR_P` (R204). Waits for remote acknowledgements, then performs a release store at pod scope. -/
  | strP (ra rb : BitVec 7)
  /-- `AADD` (R203). 64-bit atomic add with no return. -/
  | aadd (ra rb : BitVec 7)
  /-- `AAND` (R203). 64-bit atomic AND with no return. -/
  | aand (ra rb : BitVec 7)
  /-- `AOR` (R203). 64-bit atomic OR with no return. -/
  | aor (ra rb : BitVec 7)
  /-- `AXOR` (R203). 64-bit atomic XOR with no return. -/
  | axor (ra rb : BitVec 7)
  /-- `AMIN` (R203). Atomic signed minimum. -/
  | amin (ra rb : BitVec 7)
  /-- `AMAX` (R203). Atomic signed maximum. -/
  | amax (ra rb : BitVec 7)
  /-- `AMINU` (R203). Atomic unsigned minimum. -/
  | aminu (ra rb : BitVec 7)
  /-- `AMAXU` (R203). Atomic unsigned maximum. -/
  | amaxu (ra rb : BitVec 7)
  /-- `AFADD` (R203). Adds an FP64 value into a sum word exactly. -/
  | afadd (ra rb : BitVec 7)
  /-- `AFADDS` (R203). Adds an FP32 value into a sum word exactly. -/
  | afadds (ra rb : BitVec 7)
  /-- `AFETCH` (R203). Fetch and add on a sync page, returning the old value. -/
  | afetch (rd ra rb : BitVec 7)
  /-- `ACAS` (R203). Compare and swap on a sync page, with a register pair. -/
  | acas (rd ra rb : BitVec 7)
  /-- `ASWAP` (R203). Swap on a sync page, returning the old value. -/
  | aswap (rd ra rb : BitVec 7)
  /-- `SUMRD` (R203). Reads a sum word rounded to FP64. -/
  | sumrd (rd ra : BitVec 7)
  /-- `SUMRDS` (R203). Reads a sum word rounded to FP32. -/
  | sumrds (rd ra : BitVec 7)
  /-- `FENCE_SV` (R231). Orders covered scalar-side accesses before younger vector-stream accesses, as a queue marker. -/
  | fenceSv (sc : BitVec 2)
  /-- `FENCE_VS` (R231). Holds younger scalar accesses until covered vector accesses have performed. -/
  | fenceVs (sc : BitVec 2)
  /-- `FENCE_VV` (R231). Vector-to-vector ordering marker. -/
  | fenceVv (sc : BitVec 2)
  /-- `FENCE_ALL` (R231). Full fence with the cache action of an acquire. -/
  | fenceAll (sc : BitVec 2)
  /-- `FENCE_ACQ` (R231). Acquire fence that removes copies for its scope. -/
  | fenceAcq (sc : BitVec 2)
  /-- `FENCE_REL` (R231). Release fence before younger writes. -/
  | fenceRel (sc : BitVec 2)
  /-- `FENCE_REM` (R231). Waits until every remote access is acknowledged. -/
  | fenceRem (sc : BitVec 2)
  /-- `CSRRW` (R71). Reads a CSR and writes a register into it. -/
  | csrrw (rd ra : BitVec 7) (c : BitVec 12)
  /-- `CSRRS` (R71). Reads a CSR and sets its bits from a register. -/
  | csrrs (rd ra : BitVec 7) (c : BitVec 12)
  /-- `WINADJ` (R111). Adjusts the window base by a multiple of 16. -/
  | winadj (n : BitVec 7)
  /-- `WINSET` (R111). Sets the window base from a register. -/
  | winset (ra : BitVec 7)
  /-- `TRAP` (R127). Raises trap 0x10 with the immediate in kval. -/
  | trap (imm : BitVec 12)
  /-- `ERET` (R373). Returns from kernel mode and replays the saved vector entries. -/
  | eret
  /-- `BRK` (R388). Raises breakpoint 0x0F. -/
  | brk
  /-- `L1INV` (R388). Removes every line of the Span's L1 data and instruction caches. -/
  | l1inv
  /-- `WINV` (R388). Removes every window line of the die's L2. -/
  | winv
  /-- `CTXSAVE` (R384). Saves the thread's context to a save area. -/
  | ctxsave (ra : BitVec 7)
  /-- `CTXREST` (R385). Restores a context from a save area. -/
  | ctxrest (ra : BitVec 7)
  /-- `HALT` (R387). Ends the slot's occupancy: saved thread or terminated. -/
  | halt
  /-- `XFMQ` (R340). Reads a 64-byte fabric command record and posts it to the I/O die's management queue. -/
  | xfmq (ra : BitVec 7)
  /-- `VMODE_S` (R131). Returns to short mode, releasing lane groups and context. -/
  | vmodeS
  /-- `VMODE_L` (R131). Requests long mode with 1, 2, 4 or 8 lane groups. -/
  | vmodeL (ra : BitVec 7)
  /-- `SETVL` (R139). Sets vl to min(request, VLMAX). -/
  | setvl (rd ra : BitVec 7)
  /-- `SETVL_D` (R139). Sets vl also bounded by a dependence distance. -/
  | setvlD (rd ra rb : BitVec 7)
  /-- `SETVT` (R139). Sets vtype[8:0] with validation. -/
  | setvt (ra : BitVec 7)
  /-- `REP` (R54). Repeats the next vector word count times with stepped fields. -/
  | rep (cnt : BitVec 6) (fd fa fb : Bool) (st : BitVec 2)
  /-- `LOOP` (R281). Replays a body of up to 16 words over a shape nest. -/
  | loop (t len : BitVec 4) (nm : BitVec 13)
  /-- `VADD` (R154). Element-wise integer add. -/
  | vadd (rd ra rb : BitVec 7) (m : BitVec 4)
  /-- `VSUB` (R154). Element-wise integer subtract. -/
  | vsub (rd ra rb : BitVec 7) (m : BitVec 4)
  /-- `VMUL` (R154). Element-wise low product. -/
  | vmul (rd ra rb : BitVec 7) (m : BitVec 4)
  /-- `VMULH` (R154). Element-wise signed high product. -/
  | vmulh (rd ra rb : BitVec 7) (m : BitVec 4)
  /-- `VMULHU` (R154). Element-wise unsigned high product. -/
  | vmulhu (rd ra rb : BitVec 7) (m : BitVec 4)
  /-- `VDIV` (R154). Element-wise signed divide. -/
  | vdiv (rd ra rb : BitVec 7) (m : BitVec 4)
  /-- `VDIVU` (R154). Element-wise unsigned divide. -/
  | vdivu (rd ra rb : BitVec 7) (m : BitVec 4)
  /-- `VREM` (R154). Element-wise signed remainder. -/
  | vrem (rd ra rb : BitVec 7) (m : BitVec 4)
  /-- `VREMU` (R154). Element-wise unsigned remainder. -/
  | vremu (rd ra rb : BitVec 7) (m : BitVec 4)
  /-- `VAND` (R154). Element-wise AND. -/
  | vand (rd ra rb : BitVec 7) (m : BitVec 4)
  /-- `VOR` (R154). Element-wise OR. -/
  | vor (rd ra rb : BitVec 7) (m : BitVec 4)
  /-- `VXOR` (R154). Element-wise XOR. -/
  | vxor (rd ra rb : BitVec 7) (m : BitVec 4)
  /-- `VSLL` (R154). Element-wise left shift. -/
  | vsll (rd ra rb : BitVec 7) (m : BitVec 4)
  /-- `VSRL` (R154). Element-wise logical right shift. -/
  | vsrl (rd ra rb : BitVec 7) (m : BitVec 4)
  /-- `VSRA` (R154). Element-wise arithmetic right shift. -/
  | vsra (rd ra rb : BitVec 7) (m : BitVec 4)
  /-- `VMIN` (R154). Element-wise signed minimum. -/
  | vmin (rd ra rb : BitVec 7) (m : BitVec 4)
  /-- `VMINU` (R154). Element-wise unsigned minimum. -/
  | vminu (rd ra rb : BitVec 7) (m : BitVec 4)
  /-- `VMAX` (R154). Element-wise signed maximum. -/
  | vmax (rd ra rb : BitVec 7) (m : BitVec 4)
  /-- `VMAXU` (R154). Element-wise unsigned maximum. -/
  | vmaxu (rd ra rb : BitVec 7) (m : BitVec 4)
  /-- `VFADD` (R155). Element-wise FP add, rounded once. -/
  | vfadd (rd ra rb : BitVec 7) (m : BitVec 4)
  /-- `VFSUB` (R155). Element-wise FP subtract. -/
  | vfsub (rd ra rb : BitVec 7) (m : BitVec 4)
  /-- `VFMUL` (R155). Element-wise FP multiply. -/
  | vfmul (rd ra rb : BitVec 7) (m : BitVec 4)
  /-- `VFDIV` (R155). Element-wise FP divide. -/
  | vfdiv (rd ra rb : BitVec 7) (m : BitVec 4)
  /-- `VFMA` (R156). Fused a·b + vd. -/
  | vfma (rd ra rb : BitVec 7) (m : BitVec 4)
  /-- `VFMS` (R156). Fused a·b − vd. -/
  | vfms (rd ra rb : BitVec 7) (m : BitVec 4)
  /-- `VFNMA` (R156). Fused −(a·b) − vd. -/
  | vfnma (rd ra rb : BitVec 7) (m : BitVec 4)
  /-- `VFNMS` (R156). Fused −(a·b) + vd. -/
  | vfnms (rd ra rb : BitVec 7) (m : BitVec 4)
  /-- `VFMIN` (R157). Element-wise minimumNumber. -/
  | vfmin (rd ra rb : BitVec 7) (m : BitVec 4)
  /-- `VFMAX` (R157). Element-wise maximumNumber. -/
  | vfmax (rd ra rb : BitVec 7) (m : BitVec 4)
  /-- `VFSIGN` (R158). Takes a with the sign of b. -/
  | vfsign (rd ra rb : BitVec 7) (m : BitVec 4)
  /-- `VFSIGNN` (R158). Takes a with the complement of b's sign. -/
  | vfsignn (rd ra rb : BitVec 7) (m : BitVec 4)
  /-- `VFSIGNX` (R158). Takes a with its sign XOR b's sign. -/
  | vfsignx (rd ra rb : BitVec 7) (m : BitVec 4)
  /-- `VCMP_EQ` (R160). Integer equal compare into a mask. -/
  | vcmpEq (md : BitVec 4) (ra rb : BitVec 7) (m : BitVec 4)
  /-- `VCMP_NE` (R160). Integer not-equal compare. -/
  | vcmpNe (md : BitVec 4) (ra rb : BitVec 7) (m : BitVec 4)
  /-- `VCMP_LT` (R160). Signed less-than compare. -/
  | vcmpLt (md : BitVec 4) (ra rb : BitVec 7) (m : BitVec 4)
  /-- `VCMP_LTU` (R160). Unsigned less-than compare. -/
  | vcmpLtu (md : BitVec 4) (ra rb : BitVec 7) (m : BitVec 4)
  /-- `VCMP_LE` (R160). Signed less-or-equal compare. -/
  | vcmpLe (md : BitVec 4) (ra rb : BitVec 7) (m : BitVec 4)
  /-- `VCMP_LEU` (R160). Unsigned less-or-equal compare. -/
  | vcmpLeu (md : BitVec 4) (ra rb : BitVec 7) (m : BitVec 4)
  /-- `VCMP_GT` (R160). Signed greater-than compare. -/
  | vcmpGt (md : BitVec 4) (ra rb : BitVec 7) (m : BitVec 4)
  /-- `VCMP_GTU` (R160). Unsigned greater-than compare. -/
  | vcmpGtu (md : BitVec 4) (ra rb : BitVec 7) (m : BitVec 4)
  /-- `VCMP_FEQ` (R160). FP equal compare. -/
  | vcmpFeq (md : BitVec 4) (ra rb : BitVec 7) (m : BitVec 4)
  /-- `VCMP_FNE` (R160). FP not-equal or unordered compare. -/
  | vcmpFne (md : BitVec 4) (ra rb : BitVec 7) (m : BitVec 4)
  /-- `VCMP_FLT` (R160). FP less-than compare. -/
  | vcmpFlt (md : BitVec 4) (ra rb : BitVec 7) (m : BitVec 4)
  /-- `VCMP_FLE` (R160). FP less-or-equal compare. -/
  | vcmpFle (md : BitVec 4) (ra rb : BitVec 7) (m : BitVec 4)
  /-- `VCMP_FGT` (R160). FP greater-than compare. -/
  | vcmpFgt (md : BitVec 4) (ra rb : BitVec 7) (m : BitVec 4)
  /-- `VCMP_FGE` (R160). FP greater-or-equal compare. -/
  | vcmpFge (md : BitVec 4) (ra rb : BitVec 7) (m : BitVec 4)
  /-- `VCMP_FUNORD` (R160). FP unordered test. -/
  | vcmpFunord (md : BitVec 4) (ra rb : BitVec 7) (m : BitVec 4)
  /-- `VCMP_FORD` (R160). FP ordered test. -/
  | vcmpFord (md : BitVec 4) (ra rb : BitVec 7) (m : BitVec 4)
  /-- `MAND` (R168). Mask AND. -/
  | mand (rd ra rb : BitVec 7)
  /-- `MOR` (R168). Mask OR. -/
  | mor (rd ra rb : BitVec 7)
  /-- `MXOR` (R168). Mask XOR. -/
  | mxor (rd ra rb : BitVec 7)
  /-- `MANDN` (R168). Mask AND NOT. -/
  | mandn (rd ra rb : BitVec 7)
  /-- `MNOT` (R168). Mask NOT. -/
  | mnot (rd ra : BitVec 7)
  /-- `MSET` (R168). Sets the mask bits in range. -/
  | mset (rd : BitVec 7)
  /-- `MCLR` (R168). Clears the mask bits in range. -/
  | mclr (rd : BitVec 7)
  /-- `MPOPC` (R168). Pushes the mask's population count into q0–q3. -/
  | mpopc (rd ra : BitVec 7)
  /-- `MFIRST` (R168). Pushes the index of the first set bit. -/
  | mfirst (rd ra : BitVec 7)
  /-- `MFROMV` (R168). Mask from bit 0 of the elements. -/
  | mfromv (rd ra : BitVec 7)
  /-- `MTOV` (R168). Vector of 0 or 1 from a mask. -/
  | mtov (rd ra : BitVec 7)
  /-- `MSBF` (R168). Sets the bits before the first set bit. -/
  | msbf (rd ra : BitVec 7)
  /-- `MIOTA` (R168). Prefix count of the mask bits. -/
  | miota (rd ra : BitVec 7)
  /-- `VSLIDEUP` (R170). Slides elements up by n. -/
  | vslideup (rd ra rb : BitVec 7)
  /-- `VSLIDEDN` (R170). Slides elements down by n. -/
  | vslidedn (rd ra rb : BitVec 7)
  /-- `VBFLY` (R170). Exchanges element i with element i XOR d. -/
  | vbfly (rd ra rb : BitVec 7)
  /-- `VPERM` (R170). Permutes by an index vector. -/
  | vperm (rd ra rb : BitVec 7)
  /-- `VCOMPRESS` (R170). Compresses the selected elements. -/
  | vcompress (rd ra rb : BitVec 7)
  /-- `VEXPAND` (R170). Expands elements into the selected positions. -/
  | vexpand (rd ra rb : BitVec 7)
  /-- `VID` (R170). Writes each element's index. -/
  | vid (rd : BitVec 7)
  /-- `VBCAST` (R170). Broadcasts element n. -/
  | vbcast (rd ra rb : BitVec 7)
  /-- `VEXTR` (R170). Pushes element n into q0–q3. -/
  | vextr (rd ra rb : BitVec 7)
  /-- `VINSR` (R170). Inserts a scalar at element n. -/
  | vinsr (rd ra rb : BitVec 7)
  /-- `VMERGE` (R170). Selects between two vectors by mask mK. -/
  | vmerge (rd ra rb : BitVec 7) (k : BitVec 4)
  /-- `VFSQRT` (R173). FP square root. -/
  | vfsqrt (rd ra : BitVec 7) (m : BitVec 4)
  /-- `VNEG` (R172). Integer negate. -/
  | vneg (rd ra : BitVec 7) (m : BitVec 4)
  /-- `VNOT` (R172). Bitwise NOT. -/
  | vnot (rd ra : BitVec 7) (m : BitVec 4)
  /-- `VCLZ` (R172). Leading-zero count. -/
  | vclz (rd ra : BitVec 7) (m : BitVec 4)
  /-- `VCTZ` (R172). Trailing-zero count. -/
  | vctz (rd ra : BitVec 7) (m : BitVec 4)
  /-- `VPOPC` (R172). Population count per element. -/
  | vpopc (rd ra : BitVec 7) (m : BitVec 4)
  /-- `VFCLASS` (R173). Writes an FP class code. -/
  | vfclass (rd ra : BitVec 7) (m : BitVec 4)
  /-- `VFRINT` (R173). Rounds to an integral FP value. -/
  | vfrint (rd ra : BitVec 7) (m : BitVec 4)
  /-- `VCVT_F_I` (R174). Signed integer to FP. -/
  | vcvtFI (rd ra : BitVec 7) (m : BitVec 4)
  /-- `VCVT_F_IU` (R174). Unsigned integer to FP. -/
  | vcvtFIu (rd ra : BitVec 7) (m : BitVec 4)
  /-- `VCVT_I_F` (R174). FP to signed integer, saturating. -/
  | vcvtIF (rd ra : BitVec 7) (m : BitVec 4)
  /-- `VCVT_IU_F` (R174). FP to unsigned integer, saturating. -/
  | vcvtIuF (rd ra : BitVec 7) (m : BitVec 4)
  /-- `VWIDEN_I` (R176). Sign-extends to 2·SEW. -/
  | vwidenI (rd ra : BitVec 7) (m : BitVec 4)
  /-- `VWIDEN_IU` (R176). Zero-extends to 2·SEW. -/
  | vwidenIu (rd ra : BitVec 7) (m : BitVec 4)
  /-- `VNARROW_I` (R176). Truncates from 2·SEW. -/
  | vnarrowI (rd ra : BitVec 7) (m : BitVec 4)
  /-- `VNARROW_IS` (R176). Narrows with signed clamping. -/
  | vnarrowIs (rd ra : BitVec 7) (m : BitVec 4)
  /-- `VFWIDEN` (R176). Widens to the next FP format exactly. -/
  | vfwiden (rd ra : BitVec 7) (m : BitVec 4)
  /-- `VFNARROW` (R176). Narrows to the next FP format by RoundFP. -/
  | vfnarrow (rd ra : BitVec 7) (m : BitVec 4)
  /-- `VRSUM` (R178). Integer sum reduction. -/
  | vrsum (rd ra : BitVec 7) (m : BitVec 4)
  /-- `VRMAX` (R178). Signed maximum reduction. -/
  | vrmax (rd ra : BitVec 7) (m : BitVec 4)
  /-- `VRMIN` (R178). Signed minimum reduction. -/
  | vrmin (rd ra : BitVec 7) (m : BitVec 4)
  /-- `VRMAXU` (R178). Unsigned maximum reduction. -/
  | vrmaxu (rd ra : BitVec 7) (m : BitVec 4)
  /-- `VRMINU` (R178). Unsigned minimum reduction. -/
  | vrminu (rd ra : BitVec 7) (m : BitVec 4)
  /-- `VREDAND` (R178). AND reduction. -/
  | vredand (rd ra : BitVec 7) (m : BitVec 4)
  /-- `VREDOR` (R178). OR reduction. -/
  | vredor (rd ra : BitVec 7) (m : BitVec 4)
  /-- `VREDXOR` (R178). XOR reduction. -/
  | vredxor (rd ra : BitVec 7) (m : BitVec 4)
  /-- `VFRSUM` (R179). FP sum over a fixed pairwise tree. -/
  | vfrsum (rd ra : BitVec 7) (m : BitVec 4)
  /-- `VFRMAX` (R179). FP maximumNumber reduction. -/
  | vfrmax (rd ra : BitVec 7) (m : BitVec 4)
  /-- `VFRMIN` (R179). FP minimumNumber reduction. -/
  | vfrmin (rd ra : BitVec 7) (m : BitVec 4)
  /-- `VSCAN` (R180). Inclusive integer prefix sum. -/
  | vscan (rd ra : BitVec 7) (m : BitVec 4)
  /-- `VFSCAN` (R180). Left-to-right FP prefix sum. -/
  | vfscan (rd ra : BitVec 7) (m : BitVec 4)
  /-- `VSCANX` (R180). Exclusive integer prefix sum. -/
  | vscanx (rd ra : BitVec 7) (m : BitVec 4)
  /-- `VRAND` (R182). Counter-based random bits. -/
  | vrand (rd ra rb : BitVec 7)
  /-- `VRANDF` (R182). Uniform values in [0, 1). -/
  | vrandf (rd ra rb : BitVec 7)
  /-- `VRANDM` (R182). Random mask below rthr. -/
  | vrandm (rd ra rb : BitVec 7)
  /-- `VLD` (R208). Blocking strided vector load. -/
  | vld (rd ra rb : BitVec 7) (m : BitVec 4)
  /-- `VLD_NB` (R211). Non-blocking strided vector load. -/
  | vldNb (rd ra rb : BitVec 7) (m : BitVec 4)
  /-- `VST` (R208). Blocking strided vector store. -/
  | vst (rd ra rb : BitVec 7) (m : BitVec 4)
  /-- `VST_NB` (R211). Non-blocking strided vector store. -/
  | vstNb (rd ra rb : BitVec 7) (m : BitVec 4)
  /-- `VLDX` (R208). Blocking gather. -/
  | vldx (rd ra rb : BitVec 7) (m : BitVec 4)
  /-- `VLDX_NB` (R211). Non-blocking gather. -/
  | vldxNb (rd ra rb : BitVec 7) (m : BitVec 4)
  /-- `VSTX` (R209). Blocking scatter; collisions keep the highest index. -/
  | vstx (rd ra rb : BitVec 7) (m : BitVec 4)
  /-- `VSTX_NB` (R211). Non-blocking scatter. -/
  | vstxNb (rd ra rb : BitVec 7) (m : BitVec 4)
  /-- `VAADD` (R214). Non-blocking integer atomic add per element. -/
  | vaadd (rd ra rb : BitVec 7) (m : BitVec 4)
  /-- `VAFADD` (R214). Non-blocking FP add into sum words per element. -/
  | vafadd (rd ra rb : BitVec 7) (m : BitVec 4)
  /-- `TLD` (R219). Blocking tensor load through a shape, with dequantisation. -/
  | tld (rd : BitVec 7) (t : BitVec 4) (rs : BitVec 7) (m : BitVec 4)
  /-- `TST` (R220). Blocking tensor store, quantising whole sectors. -/
  | tst (rd : BitVec 7) (t : BitVec 4) (rs : BitVec 7) (m : BitVec 4)
  /-- `TLD_NB` (R219). Non-blocking tensor load. -/
  | tldNb (rd : BitVec 7) (t : BitVec 4) (rs : BitVec 7) (m : BitVec 4)
  /-- `TST_NB` (R220). Non-blocking tensor store. -/
  | tstNb (rd : BitVec 7) (t : BitVec 4) (rs : BitVec 7) (m : BitVec 4)
  /-- `MMAV` (R269). Posts a matrix multiply with A from vector registers into a tile. -/
  | mmav (az tB : BitVec 4) (va sn : BitVec 7) (m : BitVec 4)
  /-- `MMAT` (R269). Posts a matrix multiply with A from a shape view. -/
  | mmat (az tB tA : BitVec 4) (sn : BitVec 7) (m : BitVec 4)
  /-- `MMAT_G` (R262). Grouped mmat that may run with its operands swapped. -/
  | mmatG (az tB tA : BitVec 4) (sn : BitVec 7) (m : BitVec 4)
  /-- `MZ` (R270). Sets a tile's tag to Z. -/
  | mz (rd : BitVec 7)
  /-- `MST` (R271). Stores part of a tile through a view. -/
  | mst (rd ra rb : BitVec 7)
  /-- `MRD` (R270). Reads four tile rows into a vector register. -/
  | mrd (rd ra rb : BitVec 7)
  /-- `MSYNC` (R270). Waits until every older Truss entry of the thread has completed. -/
  | msync
  /-- `MWR` (R270). Writes four tile rows from a vector register. -/
  | mwr (rd ra rb : BitVec 7)
  /-- `CERESUME` (R298). Restarts a stopped transfer. -/
  | ceresume (ra : BitVec 7)
  /-- `CECANCEL` (R298). Cancels a transfer. -/
  | cecancel (ra : BitVec 7)
  /-- `CESTAT` (R299). Returns a transfer's status. -/
  | cestat (rd ra : BitVec 7)
  /-- `WAITGE` (R302). Sleeps until a counter reaches a value; completes as an acquire. -/
  | waitge (ra rb : BitVec 7)
  /-- `WAITT` (R302). Sleeps until a tick. -/
  | waitt (ra : BitVec 7)
  /-- `WAITP` (R302). Sleeps until a transfer completes or its promise passes. -/
  | waitp (ra : BitVec 7)
  /-- `CLAIM` (R359). Atomically claims work from a claim word and sets vl. -/
  | claim (rd ra rb : BitVec 7)
  /-- `CLAIMT` (R360). Claims the next non-empty tile record as a held sequence. -/
  | claimt (rd ra rb : BitVec 7)
  /-- `LAUNCH` (R344). Submits a launch record and returns a handle. -/
  | launch (rd ra : BitVec 7)
  /-- `CANCEL` (R356). Cancels the named launch. -/
  | cancel (ra : BitVec 7)
  /-- `EXIT` (R357). Waits for outstanding work, leaves sets and ends the thread. -/
  | exit
  /-- `YIELD` (R358). Yields the issue turn, and for STREAM launches may give up the Span. -/
  | yield
  /-- `GJOIN` (R363). Joins a membership set. -/
  | gjoin (ra : BitVec 7)
  /-- `GLEAVE` (R363). Leaves a membership set. -/
  | gleave (ra : BitVec 7)
  /-- `GBAR` (R363). Arrives at the set's barrier and waits. -/
  | gbar (ra : BitVec 7)
  /-- `CRS` (R331). Posts a reduce-scatter collective. -/
  | crs (rd ra rb : BitVec 7)
  /-- `CAR` (R331). Posts an all-reduce collective. -/
  | car (rd ra rb : BitVec 7)
  /-- `CBC` (R331). Posts a broadcast collective. -/
  | cbc (rd ra rb : BitVec 7)
  /-- `CAG` (R331). Posts an all-gather collective. -/
  | cag (rd ra rb : BitVec 7)
  /-- `CBAR` (R331). Posts a collective barrier. -/
  | cbar (ra rb : BitVec 7)
  /-- `CBAR_RT` (R339). Posts a barrier that switches route tables. -/
  | cbarRt (ra rb : BitVec 7)
  /-- `TLDR` (R279). Loads a shape register from a 64-byte record. -/
  | tldr (rd ra : BitVec 7)
  /-- `TSTR` (R279). Stores a shape register to memory. -/
  | tstr (rd ra : BitVec 7)
  /-- `TSET` (R279). Sets one field of a shape register. -/
  | tset (rd ra rb : BitVec 7)
  /-- `TGET` (R279). Reads one field of a shape register. -/
  | tget (rd ra rb : BitVec 7)
  /-- `VSHP` (R280). Converts an old-format shape record held in vector elements. -/
  | vshp (rd ra : BitVec 7)
  /-- `CEPROM` (R298). Returns a transfer's full promised tick. -/
  | ceprom (rd ra : BitVec 7)
  /-- `CE_LAUNCH` (R287). A read of ce.launch snapshots the shadow set, checks it and launches a transfer with a promise. -/
  | ceLaunch
  /-- `VTYPE_WRITE` (R77). A CSR write of vtype is validated and clamps vl. -/
  | vtypeWrite (v : Word)
  /-- `VL_WRITE` (R136). A CSR write of vl is validated against VLMAX. -/
  | vlWrite (v : Word)
  /-- `VSTART_WRITE` (R137). A CSR write of vstart is validated against VLMAX. -/
  | vstartWrite (v : Word)
  /-- `WB_WRITE` (R112). A CSR write of wb is checked as a window change. -/
  | wbWrite (v : Word)
  /-- `NBCTR_WRITE` (R212). A write of nbctr with low bits set raises misaligned address. -/
  | nbctrWrite (v : Word)
  /-- `MSTAT_WRITE` (R266). A W1C write of mstat; clearing ERR also clears ECODE and ESEQ. -/
  | mstatWrite (v : Word)
  /-- `KSTATUS_WRITE` (R368). A kernel write of kstatus, with VQN clamped to 64. -/
  | kstatusWrite (v : Word)
  /-- `PTBR_WRITE` (R369). A write of ptbr, ctxid or keysel waits for older work, then governs later accesses. -/
  | ptbrWrite (c : BitVec 12) (v : Word)
  /-- `KBGRANT_WRITE` (R390). Sets the budget grant of the selected entry, with privilege and capacity checks. -/
  | kbgrantWrite (v : Word)
  /-- `REGISTER_WRITE` (R71). A write to a CSR or MMIO register that has no behaviour of its own. -/
  | registerWrite (r : RegName) (v : Word)
  /-- `TLBINV` (R380). An sd to TLBINV starts invalidation of the matching TLB entries on the die. -/
  | tlbinv (peer : Nat) (v : Word)
  /-- `INVALIDATION_COMPLETE` (R381). The invalidation completes once earlier translated accesses have performed, and the TLBINV write performs. -/
  | invalidationComplete (peer : Nat)
  /-- `HMSG_WRITE` (R397). A host write sets DATA and PEND, or OVR, raising interrupt 0x83. -/
  | hmsgWrite (peer span slot : Nat) (v : Word)
  /-- `HMSG_READ` (R397). A load returns DATA and clears PEND and OVR. -/
  | hmsgRead (peer span slot : Nat)
  /-- `DEVMSG` (R396). An sd appends an entry to the host event queue, waiting while it is full. -/
  | devmsg (v : Word)
  /-- `HEVQD` (R395). A load returns and removes the oldest host event entry. -/
  | hevqd (node : Nat)
  /-- `DETECT_WRITE` (R314). Sets T_d, with values below 250 written as 250. -/
  | detectWrite (peer : Nat) (v : Word)
  /-- `TIMEOUT_WRITE` (R323). Sets the lost-response limit, clamped to its range. -/
  | timeoutWrite (peer : Nat) (v : Word)
  /-- `COMMUNICATOR_WORD0_WRITE` (R325). Writes word 0 of a communicator entry: validation with a reservation check, ERR W1C, or invalidation. -/
  | communicatorWord0Write (peer comm : Nat) (v : Word)
  /-- `DRAIN` (R341). Fabric command that moves a LIVE port to DRAINING. -/
  | drain (node : Nat)
  /-- `RETRAIN` (R341). Fabric command that starts link training on a DARK port. -/
  | retrain (node : Nat)
  /-- `LOADRT` (R340). Fabric command that loads the inactive route table of a die once no collective uses it. -/
  | loadrt (node : Nat)
  /-- `QUERY` (R340). Fabric command that reports the port state. -/
  | query (node : Nat)
  /-- `PORT_DRAINED` (R341). All unacknowledged frames are acknowledged; the port goes DARK with result 0. -/
  | portDrained (node port : Nat)
  /-- `DRAIN_TIMEOUT` (R341). After 100 µs in DRAINING the port goes DARK with result 2. -/
  | drainTimeout (node port : Nat)
  /-- `TRAINING_SUCCESS` (R341). Link training succeeds and the port enters VERIFY. -/
  | trainingSuccess (node port : Nat)
  /-- `TRAINING_TIMEOUT` (R341). After 50 ms in TRAINING the port goes DARK with result 3. -/
  | trainingTimeout (node port : Nat)
  /-- `VERIFY_RESULT` (R341). The identity exchange ends: LIVE on a match, DARK with result 4 otherwise. -/
  | verifyResult (node port : Nat) (far : BitVec 29)
  /-- `PRE_EMPT` (R375). Interrupt 0x80 is taken at an element-group or instruction boundary. -/
  | preEmpt
  /-- `TIMER` (R375). Interrupt 0x81 is taken when time reaches the thread's compare register. -/
  | timer
  /-- `TRANSFER_MEMORY_ERROR` (R375). Interrupt 0x82 is taken for a transfer that met a memory error. -/
  | transferMemoryError
  /-- `HOST_MESSAGE` (R375). Interrupt 0x83 is taken for a pending host message. -/
  | hostMessage
  /-- `QUEUE_DEADLOCK` (R108). Within 64 sc of a deadlock condition the thread takes trap 0x0E. -/
  | queueDeadlock
  /-- `ELEMENT_GROUP_START` (R141). A pipe starts the oldest ready element group. -/
  | elementGroupStart
  /-- `ELEMENT_GROUP_WRITE` (R142). A buffered result is written in order when its entry is oldest, setting landed bits and flags. -/
  | elementGroupWrite
  /-- `LOAD_DATA_ARRIVAL` (R210). Load data arrives and writes element groups, setting landed bits. -/
  | loadDataArrival
  /-- `NB_COUNTER_INCREMENT` (R212). After every element has performed, the entry adds 1 to its nbctr counter as a release. -/
  | nbCounterIncrement
  /-- `LINK_ENTRY_STAGING` (R251). An available register or mask is copied to the Truss staging buffer. -/
  | linkEntryStaging
  /-- `TRUSS_ENTRY_START` (R259). The Truss starts the next ready entry in round-robin by thread. -/
  | trussEntryStart
  /-- `TRUSS_ENTRY_COMPLETE` (R269). A Truss entry completes, ORs its flags into mstat and removes its ARIT entries. -/
  | trussEntryComplete
  /-- `DEFERRED_QUEUE_PUSH` (R107). A waiting q6 or q7 entry is pushed when the queue has room. -/
  | deferredQueuePush (q : Nat)
  /-- `COPY_UNIT` (R285). The copy engine serves one 256-byte unit of a transfer. -/
  | copyUnit (id : BitVec 16)
  /-- `TRANSFER_COMPLETION` (R293). A transfer completes: flags, counter add, ARIT removal and completion entry. -/
  | transferCompletion (id : BitVec 16)
  /-- `WAITGE_WAKE` (R303). A waitge thread resumes after its counter reaches the target. -/
  | waitgeWake
  /-- `WAITT_WAKE` (R303). A waitt thread resumes at its tick. -/
  | waittWake
  /-- `WAITP_WAKE` (R303). A waitp thread resumes at the transfer's completion. -/
  | waitpWake
  /-- `MISSED_PROMISE` (R304). The promised tick passes with the transfer unfinished, raising trap 0x0C. -/
  | missedPromise
  /-- `GENERATION_COMPLETE` (R363). A set's barrier generation completes, increments the set word and releases the members. -/
  | generationComplete (peer setAddr : Nat)
  /-- `LONG_MODE_GRANT` (R132). The head waiter is granted lane groups and a context. -/
  | longModeGrant (peer span : Nat)
  /-- `DEPENDENCE_MET` (R347). The watcher sees the dependence counter reach the target, and the entry becomes READY. -/
  | dependenceMet (peer entry : Nat)
  /-- `PLACEMENT` (R348). The coordinator places saved and undispatched threads, with reservation. -/
  | placement (peer : Nat)
  /-- `SPAN_START` (R351). The staggered-start controller starts a chosen free Span. -/
  | spanStart (peer span : Nat)
  /-- `DISPATCH` (R350). A thread is dispatched with its initial state. -/
  | dispatch (peer entry : Nat)
  /-- `THREAD_RESTORE` (R386). A saved thread is dispatched in kernel mode with kcause 0x80 and kval 1. -/
  | threadRestore (peer entry : Nat)
  /-- `VICTIM_TERMINATION` (R387). A victim that has not halted 20 µs after the request is terminated. -/
  | victimTermination (peer span : Nat)
  /-- `LAUNCH_COMPLETION` (R354). A launch completes; its status is ORed and DONEINC added as a release. -/
  | launchCompletion (peer entry : Nat)
  /-- `PACKET_HOP` (R311). A router forwards a packet to a permitted next hop. -/
  | packetHop (id : Nat) (hop : Hop)
  /-- `REQUEST_AT_HOME` (R224). A request reaches its home and performs. -/
  | requestAtHome (id : Nat)
  /-- `ACKNOWLEDGEMENT` (R224). A response reaches the issuer and the access leaves the ARIT. -/
  | acknowledgement (id : Nat)
  /-- `FAULT_RESPONSE` (R322). A fault response reaches the source, causing a fatal context error. -/
  | faultResponse (id : Nat)
  /-- `LOST_RESPONSE` (R323). A remote request not acknowledged by TIMEOUT is a fatal context error. -/
  | lostResponse (id : Nat)
  /-- `DETECT_TIMEOUT` (R313). A blocked head reaches T_d and its input becomes FLAGGED. -/
  | detectTimeout (id : Nat)
  /-- `PACKAGE_TOKEN_VISIT` (R316). The package Keystone token arrives and is forwarded or captured. -/
  | packageTokenVisit (node : Nat)
  /-- `POD_TOKEN_VISIT` (R316). The pod Keystone token arrives and is forwarded or captured. -/
  | podTokenVisit
  /-- `PACKAGE_TOKEN_REISSUE` (R315). Die 0 issues a new package token after 1 µs without a visit. -/
  | packageTokenReissue (node : Nat)
  /-- `POD_TOKEN_REISSUE` (R315). The lowest node issues a new pod token after 20 ms without a visit. -/
  | podTokenReissue
  /-- `SUSPECT_SUNK` (R317). A drained packet is sunk at its reserve; the token is released and the drain logged. -/
  | suspectSunk (id : Nat)
  /-- `L1_FILL_ARRIVAL` (R188). An L1 fill returns and is installed unless removed meanwhile. -/
  | l1FillArrival (peer span : Nat)
  /-- `WINDOW_FILL_ARRIVAL` (R189). A window fill returns and is installed unless removed meanwhile. -/
  | windowFillArrival (peer : Nat)
  /-- `CHUNK_SEND` (R335). At a chunk boundary the engine sends the highest-priority ready chunk. -/
  | chunkSend (peer : Nat)
  /-- `CONTRIBUTION_ARRIVAL` (R332). A contribution chunk is added exactly at the owner's Abutment. -/
  | contributionArrival (id : Nat)
  /-- `BARRIER_MESSAGE` (R331). A barrier arrival or release message is received. -/
  | barrierMessage (id : Nat)
  /-- `COLLECTIVE_COMPLETION` (R333). A collective completes on a rank: flags, counter release and CSEQ. -/
  | collectiveCompletion (peer comm : Nat)
  /-- `FRAME_RESEND` (R338). A frame not acknowledged within 20 µs is resent; the eighth loss fails the collective. -/
  | frameResend (id : Nat)
  /-- `FRAME_ACK` (R338). The far die acknowledges a scale-out frame. -/
  | frameAck (id : Nat)
  /-- `BUDGET_PERIOD` (R391). A 1 µs budget period begins and lent bytes return. -/
  | budgetPeriod
  /-- `PACKAGE_RESET` (R34). The package starts in boot order. -/
  | packageReset (node : Nat)
  /-- `WAVELENGTH_LOCK_TIMEOUT` (R398). A die that has not locked within 50 ms is excluded. -/
  | wavelengthLockTimeout (peer : Nat)
  /-- `SENSOR_SAMPLE` (R403). Every 10 µs the sensors are read and the cap acts. -/
  | sensorSample (peer : Nat) (rails : List Nat) (piers : List PierReading)
  /-- `KEY_SLOT_LOAD` (R402). A host command loads a key slot at every memory controller. -/
  | keySlotLoad (node : Nat) (load : SlotKey)
  /-- `KEY_SLOT_ERASE` (R402). A host command erases a key slot. -/
  | keySlotErase (node slot : Nat)
  /-- `FUSE_BLOW` (R400). A confirming host command blows anti-rollback fuses. -/
  | fuseBlow (node : Nat)
  /-- `FIRMWARE_UPDATE` (R400). An update writes the slot that did not boot. -/
  | firmwareUpdate (node : Nat) (image : FwImage)
  /-- `ATTESTATION_REQUEST` (R401). A request with a nonce yields a signed attestation report. -/
  | attestationRequest (node : Nat) (nonce : BitVec 256)
  /-- `ILLEGAL_INSTRUCTION` (R47). A fetched word with a reserved major, unassigned function or nonzero must-be-zero field raises illegal instruction at decode. -/
  | illegalInstruction (w : IWord)
  /-- `WAVELENGTH_LOCK` (R34). A die's Viaduct wavelengths lock, after which staggered Span start and dispatch may proceed. -/
  | wavelengthLock (peer : Nat)
  /-- `PLANE_STOPS_DELIVERING` (R324). A UALink plane or station stops delivering, so nodes may become unreachable and in-flight requests are never acknowledged. -/
  | planeStopsDelivering (node plane : Nat) (lost : List Nat)
  /-- `STATION_BROUGHT_BACK` (R324). System software brings a station that failed link training back into routing. -/
  | stationBroughtBack (node plane : Nat)
  /-- `CANCEL_ARRIVAL` (R356). The cancel reaches the coordinator and asynchronously removes or terminates the named launch. -/
  | cancelArrival (handle : Word) (ctx : BitVec 16)
  /-- `RESULT_DATA_ARRIVAL` (R331). Broadcast, all-gather or all-reduce result data arrives at a rank and is written byte for byte into its buffer. -/
  | resultDataArrival (id : Nat)
  /-- `CREDIT_GRANT` (R326). An owner grants a credit from its reservation, making a sender's chunk ready. -/
  | creditGrant (id : Nat)
  /-- `COLLECTIVE_FAILURE_MESSAGE` (R336). A collective failure reaches another member, which sets ERR and abandons the collective. -/
  | collectiveFailureMessage (id : Nat)
  deriving DecidableEq, Repr

end Sys2Proof
end

