-- ==== Sys2Proof/WellFormed.lean ====
section
/-! DEFINITION. Well-formed instruction words: those that the encoding tables give a word (R39, R44, R48, R53). What the
operand fields may name (R41 to R46) is checked when the instruction executes, by a trap of its own (Machine/Operands).
The part's own steps have no word and are not well-formed words. -/

namespace Sys2Proof

/-- A 4-bit msel means unmasked or m0 to m11 (R44). -/
def mselOk (m : BitVec 4) : Bool := decide (m.toNat ≤ 12)

/-- The instruction has a word: its msel is 0 to 12, a `vmerge` names m0 to m11, and a `rep` that steps no field has
step size code 0 (R53). -/
def Instr.wellFormed : Instr → Bool
  | .add _ _ _ => true
  | .sub _ _ _ => true
  | .and _ _ _ => true
  | .or _ _ _ => true
  | .xor _ _ _ => true
  | .andn _ _ _ => true
  | .orn _ _ _ => true
  | .sll _ _ _ => true
  | .srl _ _ _ => true
  | .sra _ _ _ => true
  | .rol _ _ _ => true
  | .ror _ _ _ => true
  | .slt _ _ _ => true
  | .sltu _ _ _ => true
  | .min _ _ _ => true
  | .max _ _ _ => true
  | .minu _ _ _ => true
  | .maxu _ _ _ => true
  | .mul _ _ _ => true
  | .mulh _ _ _ => true
  | .mulhu _ _ _ => true
  | .div _ _ _ => true
  | .divu _ _ _ => true
  | .rem _ _ _ => true
  | .remu _ _ _ => true
  | .clz _ _ => true
  | .ctz _ _ => true
  | .popc _ _ => true
  | .sextb _ _ => true
  | .sexth _ _ => true
  | .sextw _ _ => true
  | .zextw _ _ => true
  | .addw _ _ _ => true
  | .subw _ _ _ => true
  | .sllw _ _ _ => true
  | .srlw _ _ _ => true
  | .sraw _ _ _ => true
  | .mulw _ _ _ => true
  | .divw _ _ _ => true
  | .divuw _ _ _ => true
  | .remw _ _ _ => true
  | .remuw _ _ _ => true
  | .addi _ _ _ => true
  | .andi _ _ _ => true
  | .ori _ _ _ => true
  | .xori _ _ _ => true
  | .slli _ _ _ => true
  | .srli _ _ _ => true
  | .srai _ _ _ => true
  | .rori _ _ _ => true
  | .slti _ _ _ => true
  | .lui _ _ => true
  | .auipc _ _ => true
  | .beq _ _ _ => true
  | .bne _ _ _ => true
  | .blt _ _ _ => true
  | .bge _ _ _ => true
  | .bltu _ _ _ => true
  | .bgeu _ _ _ => true
  | .jal _ _ => true
  | .jalr _ _ _ => true
  | .lb _ _ _ => true
  | .lbu _ _ _ => true
  | .lh _ _ _ => true
  | .lhu _ _ _ => true
  | .lw _ _ _ => true
  | .lwu _ _ _ => true
  | .ld _ _ _ => true
  | .ldb _ _ _ => true
  | .sb _ _ _ => true
  | .sh _ _ _ => true
  | .sw _ _ _ => true
  | .sd _ _ _ => true
  | .ldaS _ _ => true
  | .ldaD _ _ => true
  | .ldaP _ _ => true
  | .strS _ _ => true
  | .strD _ _ => true
  | .strP _ _ => true
  | .aadd _ _ => true
  | .aand _ _ => true
  | .aor _ _ => true
  | .axor _ _ => true
  | .amin _ _ => true
  | .amax _ _ => true
  | .aminu _ _ => true
  | .amaxu _ _ => true
  | .afadd _ _ => true
  | .afadds _ _ => true
  | .afetch _ _ _ => true
  | .acas _ _ _ => true
  | .aswap _ _ _ => true
  | .sumrd _ _ => true
  | .sumrds _ _ => true
  | .fenceSv _ => true
  | .fenceVs _ => true
  | .fenceVv _ => true
  | .fenceAll _ => true
  | .fenceAcq _ => true
  | .fenceRel _ => true
  | .fenceRem _ => true
  | .csrrw _ _ _ => true
  | .csrrs _ _ _ => true
  | .winadj _ => true
  | .winset _ => true
  | .trap _ => true
  | .eret => true
  | .brk => true
  | .l1inv => true
  | .winv => true
  | .ctxsave _ => true
  | .ctxrest _ => true
  | .halt => true
  | .xfmq _ => true
  | .vmodeS => true
  | .vmodeL _ => true
  | .setvl _ _ => true
  | .setvlD _ _ _ => true
  | .setvt _ => true
  | .rep _ fd fa fb st => fd || fa || fb || st == 0#2
  | .loop _ _ _ => true
  | .vadd _ _ _ m => mselOk m
  | .vsub _ _ _ m => mselOk m
  | .vmul _ _ _ m => mselOk m
  | .vmulh _ _ _ m => mselOk m
  | .vmulhu _ _ _ m => mselOk m
  | .vdiv _ _ _ m => mselOk m
  | .vdivu _ _ _ m => mselOk m
  | .vrem _ _ _ m => mselOk m
  | .vremu _ _ _ m => mselOk m
  | .vand _ _ _ m => mselOk m
  | .vor _ _ _ m => mselOk m
  | .vxor _ _ _ m => mselOk m
  | .vsll _ _ _ m => mselOk m
  | .vsrl _ _ _ m => mselOk m
  | .vsra _ _ _ m => mselOk m
  | .vmin _ _ _ m => mselOk m
  | .vminu _ _ _ m => mselOk m
  | .vmax _ _ _ m => mselOk m
  | .vmaxu _ _ _ m => mselOk m
  | .vfadd _ _ _ m => mselOk m
  | .vfsub _ _ _ m => mselOk m
  | .vfmul _ _ _ m => mselOk m
  | .vfdiv _ _ _ m => mselOk m
  | .vfma _ _ _ m => mselOk m
  | .vfms _ _ _ m => mselOk m
  | .vfnma _ _ _ m => mselOk m
  | .vfnms _ _ _ m => mselOk m
  | .vfmin _ _ _ m => mselOk m
  | .vfmax _ _ _ m => mselOk m
  | .vfsign _ _ _ m => mselOk m
  | .vfsignn _ _ _ m => mselOk m
  | .vfsignx _ _ _ m => mselOk m
  | .vcmpEq _ _ _ m => mselOk m
  | .vcmpNe _ _ _ m => mselOk m
  | .vcmpLt _ _ _ m => mselOk m
  | .vcmpLtu _ _ _ m => mselOk m
  | .vcmpLe _ _ _ m => mselOk m
  | .vcmpLeu _ _ _ m => mselOk m
  | .vcmpGt _ _ _ m => mselOk m
  | .vcmpGtu _ _ _ m => mselOk m
  | .vcmpFeq _ _ _ m => mselOk m
  | .vcmpFne _ _ _ m => mselOk m
  | .vcmpFlt _ _ _ m => mselOk m
  | .vcmpFle _ _ _ m => mselOk m
  | .vcmpFgt _ _ _ m => mselOk m
  | .vcmpFge _ _ _ m => mselOk m
  | .vcmpFunord _ _ _ m => mselOk m
  | .vcmpFord _ _ _ m => mselOk m
  | .mand _ _ _ => true
  | .mor _ _ _ => true
  | .mxor _ _ _ => true
  | .mandn _ _ _ => true
  | .mnot _ _ => true
  | .mset _ => true
  | .mclr _ => true
  | .mpopc _ _ => true
  | .mfirst _ _ => true
  | .mfromv _ _ => true
  | .mtov _ _ => true
  | .msbf _ _ => true
  | .miota _ _ => true
  | .vslideup _ _ _ => true
  | .vslidedn _ _ _ => true
  | .vbfly _ _ _ => true
  | .vperm _ _ _ => true
  | .vcompress _ _ _ => true
  | .vexpand _ _ _ => true
  | .vid _ => true
  | .vbcast _ _ _ => true
  | .vextr _ _ _ => true
  | .vinsr _ _ _ => true
  | .vmerge _ _ _ k => decide (k.toNat ≤ 11)
  | .vfsqrt _ _ m => mselOk m
  | .vneg _ _ m => mselOk m
  | .vnot _ _ m => mselOk m
  | .vclz _ _ m => mselOk m
  | .vctz _ _ m => mselOk m
  | .vpopc _ _ m => mselOk m
  | .vfclass _ _ m => mselOk m
  | .vfrint _ _ m => mselOk m
  | .vcvtFI _ _ m => mselOk m
  | .vcvtFIu _ _ m => mselOk m
  | .vcvtIF _ _ m => mselOk m
  | .vcvtIuF _ _ m => mselOk m
  | .vwidenI _ _ m => mselOk m
  | .vwidenIu _ _ m => mselOk m
  | .vnarrowI _ _ m => mselOk m
  | .vnarrowIs _ _ m => mselOk m
  | .vfwiden _ _ m => mselOk m
  | .vfnarrow _ _ m => mselOk m
  | .vrsum _ _ m => mselOk m
  | .vrmax _ _ m => mselOk m
  | .vrmin _ _ m => mselOk m
  | .vrmaxu _ _ m => mselOk m
  | .vrminu _ _ m => mselOk m
  | .vredand _ _ m => mselOk m
  | .vredor _ _ m => mselOk m
  | .vredxor _ _ m => mselOk m
  | .vfrsum _ _ m => mselOk m
  | .vfrmax _ _ m => mselOk m
  | .vfrmin _ _ m => mselOk m
  | .vscan _ _ m => mselOk m
  | .vfscan _ _ m => mselOk m
  | .vscanx _ _ m => mselOk m
  | .vrand _ _ _ => true
  | .vrandf _ _ _ => true
  | .vrandm _ _ _ => true
  | .vld _ _ _ m => mselOk m
  | .vldNb _ _ _ m => mselOk m
  | .vst _ _ _ m => mselOk m
  | .vstNb _ _ _ m => mselOk m
  | .vldx _ _ _ m => mselOk m
  | .vldxNb _ _ _ m => mselOk m
  | .vstx _ _ _ m => mselOk m
  | .vstxNb _ _ _ m => mselOk m
  | .vaadd _ _ _ m => mselOk m
  | .vafadd _ _ _ m => mselOk m
  | .tld _ _ _ m => mselOk m
  | .tst _ _ _ m => mselOk m
  | .tldNb _ _ _ m => mselOk m
  | .tstNb _ _ _ m => mselOk m
  | .mmav _ _ _ _ m => mselOk m
  | .mmat _ _ _ _ m => mselOk m
  | .mmatG _ _ _ _ m => mselOk m
  | .mz _ => true
  | .mst _ _ _ => true
  | .mrd _ _ _ => true
  | .msync => true
  | .mwr _ _ _ => true
  | .ceresume _ => true
  | .cecancel _ => true
  | .cestat _ _ => true
  | .waitge _ _ => true
  | .waitt _ => true
  | .waitp _ => true
  | .claim _ _ _ => true
  | .claimt _ _ _ => true
  | .launch _ _ => true
  | .cancel _ => true
  | .exit => true
  | .yield => true
  | .gjoin _ => true
  | .gleave _ => true
  | .gbar _ => true
  | .crs _ _ _ => true
  | .car _ _ _ => true
  | .cbc _ _ _ => true
  | .cag _ _ _ => true
  | .cbar _ _ => true
  | .cbarRt _ _ => true
  | .tldr _ _ => true
  | .tstr _ _ => true
  | .tset _ _ _ => true
  | .tget _ _ _ => true
  | .vshp _ _ => true
  | .ceprom _ _ => true
  | .ceLaunch => false
  | .vtypeWrite _ => false
  | .vlWrite _ => false
  | .vstartWrite _ => false
  | .wbWrite _ => false
  | .nbctrWrite _ => false
  | .mstatWrite _ => false
  | .kstatusWrite _ => false
  | .ptbrWrite _ _ => false
  | .kbgrantWrite _ => false
  | .registerWrite _ _ => false
  | .tlbinv _ _ => false
  | .invalidationComplete _ => false
  | .hmsgWrite _ _ _ _ => false
  | .hmsgRead _ _ _ => false
  | .devmsg _ => false
  | .hevqd _ => false
  | .detectWrite _ _ => false
  | .timeoutWrite _ _ => false
  | .communicatorWord0Write _ _ _ => false
  | .drain _ => false
  | .retrain _ => false
  | .loadrt _ => false
  | .query _ => false
  | .portDrained _ _ => false
  | .drainTimeout _ _ => false
  | .trainingSuccess _ _ => false
  | .trainingTimeout _ _ => false
  | .verifyResult _ _ _ => false
  | .preEmpt => false
  | .timer => false
  | .transferMemoryError => false
  | .hostMessage => false
  | .queueDeadlock => false
  | .elementGroupStart => false
  | .elementGroupWrite => false
  | .loadDataArrival => false
  | .nbCounterIncrement => false
  | .linkEntryStaging => false
  | .trussEntryStart => false
  | .trussEntryComplete => false
  | .deferredQueuePush _ => false
  | .copyUnit _ => false
  | .transferCompletion _ => false
  | .waitgeWake => false
  | .waittWake => false
  | .waitpWake => false
  | .missedPromise => false
  | .generationComplete _ _ => false
  | .longModeGrant _ _ => false
  | .dependenceMet _ _ => false
  | .placement _ => false
  | .spanStart _ _ => false
  | .dispatch _ _ => false
  | .threadRestore _ _ => false
  | .victimTermination _ _ => false
  | .launchCompletion _ _ => false
  | .packetHop _ _ => false
  | .requestAtHome _ => false
  | .acknowledgement _ => false
  | .faultResponse _ => false
  | .lostResponse _ => false
  | .detectTimeout _ => false
  | .packageTokenVisit _ => false
  | .podTokenVisit => false
  | .packageTokenReissue _ => false
  | .podTokenReissue => false
  | .suspectSunk _ => false
  | .l1FillArrival _ _ => false
  | .windowFillArrival _ => false
  | .chunkSend _ => false
  | .contributionArrival _ => false
  | .barrierMessage _ => false
  | .collectiveCompletion _ _ => false
  | .frameResend _ => false
  | .frameAck _ => false
  | .budgetPeriod => false
  | .packageReset _ => false
  | .wavelengthLockTimeout _ => false
  | .sensorSample _ _ _ => false
  | .keySlotLoad _ _ => false
  | .keySlotErase _ _ => false
  | .fuseBlow _ => false
  | .firmwareUpdate _ _ => false
  | .attestationRequest _ _ => false
  | .illegalInstruction _ => false
  | .wavelengthLock _ => false
  | .planeStopsDelivering _ _ _ => false
  | .stationBroughtBack _ _ => false
  | .cancelArrival _ _ => false
  | .resultDataArrival _ => false
  | .creditGrant _ => false
  | .collectiveFailureMessage _ => false

end Sys2Proof
end

