-- ==== Sys2Proof/Decode.lean ====
section
/-! DEFINITION. Decoding (R36, R39, R40, R47, R48, R49 to R56): total on every word, rejecting by name; and the encoder,
written from the same tables, after it. -/

namespace Sys2Proof

/-- Why a word is no instruction (R47 step 1, R48). Every one of them is the trap *illegal instruction*. -/
inductive Reject where
  /-- Majors 0x00, 0x09 and 0x1A. -/
  | reservedMajor
  /-- A function, condition or width value that no table assigns. -/
  | unassignedFunction
  /-- A nonzero field that must be zero. -/
  | mustBeZero
  /-- msel 13 to 15. -/
  | maskSelector
  deriving DecidableEq, Repr

/-! Fields (R39). -/

def fldMajor (w : IWord) : BitVec 6 := w.extractLsb' 26 6
def fldRd (w : IWord) : BitVec 7 := w.extractLsb' 19 7
def fldRa (w : IWord) : BitVec 7 := w.extractLsb' 12 7
def fldRb (w : IWord) : BitVec 7 := w.extractLsb' 5 7
def fldFn (w : IWord) : BitVec 5 := w.extractLsb' 0 5
def fldImm12 (w : IWord) : BitVec 12 := w.extractLsb' 0 12
def fldImm9 (w : IWord) : BitVec 9 := w.extractLsb' 3 9
def fldImm19 (w : IWord) : BitVec 19 := w.extractLsb' 0 19
def fldMsel (w : IWord) : BitVec 4 := w.extractLsb' 1 4

/-- Fields that no table assigns must be zero (R48). -/
def mustZero (p : Prop) [Decidable p] (k : Except Reject Instr) : Except Reject Instr :=
  if p then k else .error .mustBeZero

/-- msel 13 to 15 are illegal (R44). -/
def maskSel (m : BitVec 4) (k : Except Reject Instr) : Except Reject Instr :=
  if m.toNat ≤ 12 then k else .error .maskSelector

/-- The msel field of format V. -/
def masked (w : IWord) (k : Except Reject Instr) : Except Reject Instr := maskSel (fldMsel w) k

/-- Major 0x01 (R49, R50, R115). -/
def decodeAlu (w : IWord) : Except Reject Instr :=
  match (fldFn w).toNat with
  | 0 => .ok (.add (fldRd w) (fldRa w) (fldRb w))
  | 1 => .ok (.sub (fldRd w) (fldRa w) (fldRb w))
  | 2 => .ok (.and (fldRd w) (fldRa w) (fldRb w))
  | 3 => .ok (.or (fldRd w) (fldRa w) (fldRb w))
  | 4 => .ok (.xor (fldRd w) (fldRa w) (fldRb w))
  | 5 => .ok (.andn (fldRd w) (fldRa w) (fldRb w))
  | 6 => .ok (.orn (fldRd w) (fldRa w) (fldRb w))
  | 7 => .ok (.sll (fldRd w) (fldRa w) (fldRb w))
  | 8 => .ok (.srl (fldRd w) (fldRa w) (fldRb w))
  | 9 => .ok (.sra (fldRd w) (fldRa w) (fldRb w))
  | 10 => .ok (.rol (fldRd w) (fldRa w) (fldRb w))
  | 11 => .ok (.ror (fldRd w) (fldRa w) (fldRb w))
  | 12 => .ok (.slt (fldRd w) (fldRa w) (fldRb w))
  | 13 => .ok (.sltu (fldRd w) (fldRa w) (fldRb w))
  | 14 => .ok (.min (fldRd w) (fldRa w) (fldRb w))
  | 15 => .ok (.max (fldRd w) (fldRa w) (fldRb w))
  | 16 => .ok (.minu (fldRd w) (fldRa w) (fldRb w))
  | 17 => .ok (.maxu (fldRd w) (fldRa w) (fldRb w))
  | 18 => .ok (.mul (fldRd w) (fldRa w) (fldRb w))
  | 19 => .ok (.mulh (fldRd w) (fldRa w) (fldRb w))
  | 20 => .ok (.mulhu (fldRd w) (fldRa w) (fldRb w))
  | 21 => .ok (.div (fldRd w) (fldRa w) (fldRb w))
  | 22 => .ok (.divu (fldRd w) (fldRa w) (fldRb w))
  | 23 => .ok (.rem (fldRd w) (fldRa w) (fldRb w))
  | 24 => .ok (.remu (fldRd w) (fldRa w) (fldRb w))
  | 25 => mustZero (fldRb w = 0) (.ok (.clz (fldRd w) (fldRa w)))
  | 26 => mustZero (fldRb w = 0) (.ok (.ctz (fldRd w) (fldRa w)))
  | 27 => mustZero (fldRb w = 0) (.ok (.popc (fldRd w) (fldRa w)))
  | 28 => mustZero (fldRb w = 0) (.ok (.sextb (fldRd w) (fldRa w)))
  | 29 => mustZero (fldRb w = 0) (.ok (.sexth (fldRd w) (fldRa w)))
  | 30 => mustZero (fldRb w = 0) (.ok (.sextw (fldRd w) (fldRa w)))
  | 31 => mustZero (fldRb w = 0) (.ok (.zextw (fldRd w) (fldRa w)))
  | _ => .error .unassignedFunction

/-- Major 0x02 (R49, R117). -/
def decodeAlu32 (w : IWord) : Except Reject Instr :=
  match (fldFn w).toNat with
  | 0 => .ok (.addw (fldRd w) (fldRa w) (fldRb w))
  | 1 => .ok (.subw (fldRd w) (fldRa w) (fldRb w))
  | 2 => .ok (.sllw (fldRd w) (fldRa w) (fldRb w))
  | 3 => .ok (.srlw (fldRd w) (fldRa w) (fldRb w))
  | 4 => .ok (.sraw (fldRd w) (fldRa w) (fldRb w))
  | 5 => .ok (.mulw (fldRd w) (fldRa w) (fldRb w))
  | 6 => .ok (.divw (fldRd w) (fldRa w) (fldRb w))
  | 7 => .ok (.divuw (fldRd w) (fldRa w) (fldRb w))
  | 8 => .ok (.remw (fldRd w) (fldRa w) (fldRb w))
  | 9 => .ok (.remuw (fldRd w) (fldRa w) (fldRb w))
  | _ => .error .unassignedFunction

/-- Major 0x07 (R40, R119): kind in imm[11:10], amount in imm[5:0], imm[9:6] zero. -/
def decodeShift (w : IWord) : Except Reject Instr :=
  mustZero (w.extractLsb' 6 4 = 0)
    (match (w.extractLsb' 10 2).toNat with
    | 0 => .ok (.slli (fldRd w) (fldRa w) (w.extractLsb' 0 6))
    | 1 => .ok (.srli (fldRd w) (fldRa w) (w.extractLsb' 0 6))
    | 2 => .ok (.srai (fldRd w) (fldRa w) (w.extractLsb' 0 6))
    | _ => .ok (.rori (fldRd w) (fldRa w) (w.extractLsb' 0 6)))

/-- Major 0x14 (R39, R123). -/
def decodeLoad (w : IWord) : Except Reject Instr :=
  match (w.extractLsb' 0 3).toNat with
  | 0 => .ok (.lb (fldRd w) (fldRa w) (fldImm9 w))
  | 1 => .ok (.lbu (fldRd w) (fldRa w) (fldImm9 w))
  | 2 => .ok (.lh (fldRd w) (fldRa w) (fldImm9 w))
  | 3 => .ok (.lhu (fldRd w) (fldRa w) (fldImm9 w))
  | 4 => .ok (.lw (fldRd w) (fldRa w) (fldImm9 w))
  | 5 => .ok (.lwu (fldRd w) (fldRa w) (fldImm9 w))
  | 6 => .ok (.ld (fldRd w) (fldRa w) (fldImm9 w))
  | _ => .ok (.ldb (fldRd w) (fldRa w) (fldImm9 w))

/-- Major 0x15 (R39, R124): the data register stands in [25:19], the base in [18:12]; w 4 to 7 are unassigned. -/
def decodeStore (w : IWord) : Except Reject Instr :=
  match (w.extractLsb' 0 3).toNat with
  | 0 => .ok (.sb (fldRd w) (fldRa w) (fldImm9 w))
  | 1 => .ok (.sh (fldRd w) (fldRa w) (fldImm9 w))
  | 2 => .ok (.sw (fldRd w) (fldRa w) (fldImm9 w))
  | 3 => .ok (.sd (fldRd w) (fldRa w) (fldImm9 w))
  | _ => .error .unassignedFunction

/-- Major 0x16 (R50, R202). -/
def decodeSync (w : IWord) : Except Reject Instr :=
  match (fldFn w).toNat with
  | 0 => mustZero (fldRb w = 0) (.ok (.ldaS (fldRd w) (fldRa w)))
  | 1 => mustZero (fldRb w = 0) (.ok (.ldaD (fldRd w) (fldRa w)))
  | 2 => mustZero (fldRb w = 0) (.ok (.ldaP (fldRd w) (fldRa w)))
  | 3 => mustZero (fldRd w = 0) (.ok (.strS (fldRa w) (fldRb w)))
  | 4 => mustZero (fldRd w = 0) (.ok (.strD (fldRa w) (fldRb w)))
  | 5 => mustZero (fldRd w = 0) (.ok (.strP (fldRa w) (fldRb w)))
  | 6 => mustZero (fldRd w = 0) (.ok (.aadd (fldRa w) (fldRb w)))
  | 7 => mustZero (fldRd w = 0) (.ok (.aand (fldRa w) (fldRb w)))
  | 8 => mustZero (fldRd w = 0) (.ok (.aor (fldRa w) (fldRb w)))
  | 9 => mustZero (fldRd w = 0) (.ok (.axor (fldRa w) (fldRb w)))
  | 10 => mustZero (fldRd w = 0) (.ok (.amin (fldRa w) (fldRb w)))
  | 11 => mustZero (fldRd w = 0) (.ok (.amax (fldRa w) (fldRb w)))
  | 12 => mustZero (fldRd w = 0) (.ok (.aminu (fldRa w) (fldRb w)))
  | 13 => mustZero (fldRd w = 0) (.ok (.amaxu (fldRa w) (fldRb w)))
  | 14 => mustZero (fldRd w = 0) (.ok (.afadd (fldRa w) (fldRb w)))
  | 15 => mustZero (fldRd w = 0) (.ok (.afadds (fldRa w) (fldRb w)))
  | 16 => .ok (.afetch (fldRd w) (fldRa w) (fldRb w))
  | 17 => .ok (.acas (fldRd w) (fldRa w) (fldRb w))
  | 18 => .ok (.aswap (fldRd w) (fldRa w) (fldRb w))
  | 19 => mustZero (fldRb w = 0) (.ok (.sumrd (fldRd w) (fldRa w)))
  | 20 => mustZero (fldRb w = 0) (.ok (.sumrds (fldRd w) (fldRa w)))
  | _ => .error .unassignedFunction

/-- Major 0x17 (R49, R50): kind in imm[2:0], scope in imm[5:4]. -/
def decodeFence (w : IWord) : Except Reject Instr :=
  mustZero (fldRd w = 0 ∧ fldRa w = 0 ∧ w.extractLsb' 6 6 = 0 ∧ w.extractLsb' 3 1 = 0)
    (match (w.extractLsb' 0 3).toNat with
    | 0 => .ok (.fenceSv (w.extractLsb' 4 2))
    | 1 => .ok (.fenceVs (w.extractLsb' 4 2))
    | 2 => .ok (.fenceVv (w.extractLsb' 4 2))
    | 3 => .ok (.fenceAll (w.extractLsb' 4 2))
    | 4 => .ok (.fenceAcq (w.extractLsb' 4 2))
    | 5 => .ok (.fenceRel (w.extractLsb' 4 2))
    | 6 => .ok (.fenceRem (w.extractLsb' 4 2))
    | _ => .error .unassignedFunction)

/-- Major 0x1B (R49, R50, R111): imm[11] 0 is `winadj`, 1 is `winset`. -/
def decodeWindow (w : IWord) : Except Reject Instr :=
  if w.extractLsb' 11 1 = 0 then
    mustZero (fldRd w = 0 ∧ fldRa w = 0 ∧ w.extractLsb' 7 4 = 0) (.ok (.winadj (w.extractLsb' 0 7)))
  else mustZero (fldRd w = 0 ∧ w.extractLsb' 0 11 = 0) (.ok (.winset (fldRa w)))

/-- Major 0x1D (R50, R389). -/
def decodeSystem (w : IWord) : Except Reject Instr :=
  match (fldFn w).toNat with
  | 0 => mustZero (fldRd w = 0 ∧ fldRb w = 0 ∧ fldRa w = 0) (.ok .eret)
  | 1 => mustZero (fldRd w = 0 ∧ fldRb w = 0 ∧ fldRa w = 0) (.ok .brk)
  | 2 => mustZero (fldRd w = 0 ∧ fldRb w = 0 ∧ fldRa w = 0) (.ok .l1inv)
  | 3 => mustZero (fldRd w = 0 ∧ fldRb w = 0 ∧ fldRa w = 0) (.ok .winv)
  | 4 => mustZero (fldRd w = 0 ∧ fldRb w = 0) (.ok (.ctxsave (fldRa w)))
  | 5 => mustZero (fldRd w = 0 ∧ fldRb w = 0) (.ok (.ctxrest (fldRa w)))
  | 6 => mustZero (fldRd w = 0 ∧ fldRb w = 0 ∧ fldRa w = 0) (.ok .halt)
  | 7 => mustZero (fldRd w = 0 ∧ fldRb w = 0) (.ok (.xfmq (fldRa w)))
  | _ => .error .unassignedFunction

/-- Major 0x1E (R50). -/
def decodeVcontrol (w : IWord) : Except Reject Instr :=
  match (fldFn w).toNat with
  | 0 => mustZero (fldRd w = 0 ∧ fldRa w = 0 ∧ fldRb w = 0) (.ok .vmodeS)
  | 1 => mustZero (fldRd w = 0 ∧ fldRb w = 0) (.ok (.vmodeL (fldRa w)))
  | 2 => mustZero (fldRb w = 0) (.ok (.setvl (fldRd w) (fldRa w)))
  | 3 => .ok (.setvlD (fldRd w) (fldRa w) (fldRb w))
  | 4 => mustZero (fldRd w = 0 ∧ fldRb w = 0) (.ok (.setvt (fldRa w)))
  | _ => .error .unassignedFunction

/-- Major 0x1F (R53, R55): `rep` and `loop`. STEP is zero when no field is stepped. -/
def decodePrefix (w : IWord) : Except Reject Instr :=
  match (fldFn w).toNat with
  | 0 => mustZero (w.extractLsb' 5 10 = 0 ∧ (w.extractLsb' 17 3 = 0 → w.extractLsb' 15 2 = 0))
      (.ok (.rep (w.extractLsb' 20 6) (w.getLsbD 19) (w.getLsbD 18) (w.getLsbD 17) (w.extractLsb' 15 2)))
  | 1 => .ok (.loop (w.extractLsb' 22 4) (w.extractLsb' 18 4) (w.extractLsb' 5 13))
  | _ => .error .unassignedFunction

/-- Majors 0x20 to 0x2F (R49): x picks the first or the second of each pair. -/
def decodeVarith (w : IWord) : Except Reject Instr :=
  masked w (match (fldMajor w).toNat, w.getLsbD 0 with
    | 0x20, false => .ok (.vadd (fldRd w) (fldRa w) (fldRb w) (fldMsel w))
    | 0x20, true => .ok (.vsub (fldRd w) (fldRa w) (fldRb w) (fldMsel w))
    | 0x21, false => .ok (.vmul (fldRd w) (fldRa w) (fldRb w) (fldMsel w))
    | 0x21, true => .ok (.vmulh (fldRd w) (fldRa w) (fldRb w) (fldMsel w))
    | 0x22, false => .ok (.vmulhu (fldRd w) (fldRa w) (fldRb w) (fldMsel w))
    | 0x22, true => .ok (.vdiv (fldRd w) (fldRa w) (fldRb w) (fldMsel w))
    | 0x23, false => .ok (.vdivu (fldRd w) (fldRa w) (fldRb w) (fldMsel w))
    | 0x23, true => .ok (.vrem (fldRd w) (fldRa w) (fldRb w) (fldMsel w))
    | 0x24, false => .ok (.vremu (fldRd w) (fldRa w) (fldRb w) (fldMsel w))
    | 0x24, true => .ok (.vand (fldRd w) (fldRa w) (fldRb w) (fldMsel w))
    | 0x25, false => .ok (.vor (fldRd w) (fldRa w) (fldRb w) (fldMsel w))
    | 0x25, true => .ok (.vxor (fldRd w) (fldRa w) (fldRb w) (fldMsel w))
    | 0x26, false => .ok (.vsll (fldRd w) (fldRa w) (fldRb w) (fldMsel w))
    | 0x26, true => .ok (.vsrl (fldRd w) (fldRa w) (fldRb w) (fldMsel w))
    | 0x27, false => .ok (.vsra (fldRd w) (fldRa w) (fldRb w) (fldMsel w))
    | 0x27, true => .ok (.vmin (fldRd w) (fldRa w) (fldRb w) (fldMsel w))
    | 0x28, false => .ok (.vminu (fldRd w) (fldRa w) (fldRb w) (fldMsel w))
    | 0x28, true => .ok (.vmax (fldRd w) (fldRa w) (fldRb w) (fldMsel w))
    | 0x29, false => .ok (.vmaxu (fldRd w) (fldRa w) (fldRb w) (fldMsel w))
    | 0x29, true => .ok (.vfadd (fldRd w) (fldRa w) (fldRb w) (fldMsel w))
    | 0x2A, false => .ok (.vfsub (fldRd w) (fldRa w) (fldRb w) (fldMsel w))
    | 0x2A, true => .ok (.vfmul (fldRd w) (fldRa w) (fldRb w) (fldMsel w))
    | 0x2B, false => .ok (.vfdiv (fldRd w) (fldRa w) (fldRb w) (fldMsel w))
    | 0x2B, true => .ok (.vfma (fldRd w) (fldRa w) (fldRb w) (fldMsel w))
    | 0x2C, false => .ok (.vfms (fldRd w) (fldRa w) (fldRb w) (fldMsel w))
    | 0x2C, true => .ok (.vfnma (fldRd w) (fldRa w) (fldRb w) (fldMsel w))
    | 0x2D, false => .ok (.vfnms (fldRd w) (fldRa w) (fldRb w) (fldMsel w))
    | 0x2D, true => .ok (.vfmin (fldRd w) (fldRa w) (fldRb w) (fldMsel w))
    | 0x2E, false => .ok (.vfmax (fldRd w) (fldRa w) (fldRb w) (fldMsel w))
    | 0x2E, true => .ok (.vfsign (fldRd w) (fldRa w) (fldRb w) (fldMsel w))
    | 0x2F, false => .ok (.vfsignn (fldRd w) (fldRa w) (fldRb w) (fldMsel w))
    | 0x2F, true => .ok (.vfsignx (fldRd w) (fldRa w) (fldRb w) (fldMsel w))
    | _, _ => .error .reservedMajor)

/-- Major 0x30 (R49): vd[6:4] is the condition, vd[3:0] the mask destination. -/
def decodeVcmp (w : IWord) : Except Reject Instr :=
  masked w (match w.getLsbD 0, (w.extractLsb' 23 3).toNat with
    | false, 0 => .ok (.vcmpEq (w.extractLsb' 19 4) (fldRa w) (fldRb w) (fldMsel w))
    | false, 1 => .ok (.vcmpNe (w.extractLsb' 19 4) (fldRa w) (fldRb w) (fldMsel w))
    | false, 2 => .ok (.vcmpLt (w.extractLsb' 19 4) (fldRa w) (fldRb w) (fldMsel w))
    | false, 3 => .ok (.vcmpLtu (w.extractLsb' 19 4) (fldRa w) (fldRb w) (fldMsel w))
    | false, 4 => .ok (.vcmpLe (w.extractLsb' 19 4) (fldRa w) (fldRb w) (fldMsel w))
    | false, 5 => .ok (.vcmpLeu (w.extractLsb' 19 4) (fldRa w) (fldRb w) (fldMsel w))
    | false, 6 => .ok (.vcmpGt (w.extractLsb' 19 4) (fldRa w) (fldRb w) (fldMsel w))
    | false, _ => .ok (.vcmpGtu (w.extractLsb' 19 4) (fldRa w) (fldRb w) (fldMsel w))
    | true, 0 => .ok (.vcmpFeq (w.extractLsb' 19 4) (fldRa w) (fldRb w) (fldMsel w))
    | true, 1 => .ok (.vcmpFne (w.extractLsb' 19 4) (fldRa w) (fldRb w) (fldMsel w))
    | true, 2 => .ok (.vcmpFlt (w.extractLsb' 19 4) (fldRa w) (fldRb w) (fldMsel w))
    | true, 3 => .ok (.vcmpFle (w.extractLsb' 19 4) (fldRa w) (fldRb w) (fldMsel w))
    | true, 4 => .ok (.vcmpFgt (w.extractLsb' 19 4) (fldRa w) (fldRb w) (fldMsel w))
    | true, 5 => .ok (.vcmpFge (w.extractLsb' 19 4) (fldRa w) (fldRb w) (fldMsel w))
    | true, 6 => .ok (.vcmpFunord (w.extractLsb' 19 4) (fldRa w) (fldRb w) (fldMsel w))
    | true, _ => .ok (.vcmpFord (w.extractLsb' 19 4) (fldRa w) (fldRb w) (fldMsel w)))

/-- Major 0x31 (R49, R51, R168). -/
def decodeMask (w : IWord) : Except Reject Instr :=
  match (fldFn w).toNat with
  | 0 => .ok (.mand (fldRd w) (fldRa w) (fldRb w))
  | 1 => .ok (.mor (fldRd w) (fldRa w) (fldRb w))
  | 2 => .ok (.mxor (fldRd w) (fldRa w) (fldRb w))
  | 3 => .ok (.mandn (fldRd w) (fldRa w) (fldRb w))
  | 4 => mustZero (fldRb w = 0) (.ok (.mnot (fldRd w) (fldRa w)))
  | 5 => mustZero (fldRa w = 0 ∧ fldRb w = 0) (.ok (.mset (fldRd w)))
  | 6 => mustZero (fldRa w = 0 ∧ fldRb w = 0) (.ok (.mclr (fldRd w)))
  | 7 => mustZero (fldRb w = 0) (.ok (.mpopc (fldRd w) (fldRa w)))
  | 8 => mustZero (fldRb w = 0) (.ok (.mfirst (fldRd w) (fldRa w)))
  | 9 => mustZero (fldRb w = 0) (.ok (.mfromv (fldRd w) (fldRa w)))
  | 10 => mustZero (fldRb w = 0) (.ok (.mtov (fldRd w) (fldRa w)))
  | 11 => mustZero (fldRb w = 0) (.ok (.msbf (fldRd w) (fldRa w)))
  | 12 => mustZero (fldRb w = 0) (.ok (.miota (fldRd w) (fldRa w)))
  | _ => .error .unassignedFunction

/-- Major 0x32 (R49, R51): fn 16 to 27 are `vmerge` with m0 to m11. -/
def decodeCross (w : IWord) : Except Reject Instr :=
  if 16 ≤ (fldFn w).toNat ∧ (fldFn w).toNat ≤ 27 then
    .ok (.vmerge (fldRd w) (fldRa w) (fldRb w) (w.extractLsb' 0 4))
  else match (fldFn w).toNat with
  | 0 => .ok (.vslideup (fldRd w) (fldRa w) (fldRb w))
  | 1 => .ok (.vslidedn (fldRd w) (fldRa w) (fldRb w))
  | 2 => .ok (.vbfly (fldRd w) (fldRa w) (fldRb w))
  | 4 => .ok (.vperm (fldRd w) (fldRa w) (fldRb w))
  | 5 => .ok (.vcompress (fldRd w) (fldRa w) (fldRb w))
  | 6 => .ok (.vexpand (fldRd w) (fldRa w) (fldRb w))
  | 7 => mustZero (fldRa w = 0 ∧ fldRb w = 0) (.ok (.vid (fldRd w)))
  | 8 => .ok (.vbcast (fldRd w) (fldRa w) (fldRb w))
  | 9 => .ok (.vextr (fldRd w) (fldRa w) (fldRb w))
  | 10 => .ok (.vinsr (fldRd w) (fldRa w) (fldRb w))
  | _ => .error .unassignedFunction

/-- Major 0x33 (R49, R51): the vb field is the function code; x is zero. -/
def decodeVunary (w : IWord) : Except Reject Instr :=
  masked w (mustZero (w.getLsbD 0 = false) (match (fldRb w).toNat with
    | 0 => .ok (.vfsqrt (fldRd w) (fldRa w) (fldMsel w))
    | 1 => .ok (.vneg (fldRd w) (fldRa w) (fldMsel w))
    | 2 => .ok (.vnot (fldRd w) (fldRa w) (fldMsel w))
    | 3 => .ok (.vclz (fldRd w) (fldRa w) (fldMsel w))
    | 4 => .ok (.vctz (fldRd w) (fldRa w) (fldMsel w))
    | 5 => .ok (.vpopc (fldRd w) (fldRa w) (fldMsel w))
    | 6 => .ok (.vfclass (fldRd w) (fldRa w) (fldMsel w))
    | 7 => .ok (.vfrint (fldRd w) (fldRa w) (fldMsel w))
    | 8 => .ok (.vcvtFI (fldRd w) (fldRa w) (fldMsel w))
    | 9 => .ok (.vcvtFIu (fldRd w) (fldRa w) (fldMsel w))
    | 10 => .ok (.vcvtIF (fldRd w) (fldRa w) (fldMsel w))
    | 11 => .ok (.vcvtIuF (fldRd w) (fldRa w) (fldMsel w))
    | 12 => .ok (.vwidenI (fldRd w) (fldRa w) (fldMsel w))
    | 13 => .ok (.vwidenIu (fldRd w) (fldRa w) (fldMsel w))
    | 14 => .ok (.vnarrowI (fldRd w) (fldRa w) (fldMsel w))
    | 15 => .ok (.vnarrowIs (fldRd w) (fldRa w) (fldMsel w))
    | 16 => .ok (.vfwiden (fldRd w) (fldRa w) (fldMsel w))
    | 17 => .ok (.vfnarrow (fldRd w) (fldRa w) (fldMsel w))
    | _ => .error .unassignedFunction))

/-- Major 0x34 (R49, R51): the vb field is the function code; x is zero. -/
def decodeVreduce (w : IWord) : Except Reject Instr :=
  masked w (mustZero (w.getLsbD 0 = false) (match (fldRb w).toNat with
    | 0 => .ok (.vrsum (fldRd w) (fldRa w) (fldMsel w))
    | 1 => .ok (.vrmax (fldRd w) (fldRa w) (fldMsel w))
    | 2 => .ok (.vrmin (fldRd w) (fldRa w) (fldMsel w))
    | 3 => .ok (.vrmaxu (fldRd w) (fldRa w) (fldMsel w))
    | 4 => .ok (.vrminu (fldRd w) (fldRa w) (fldMsel w))
    | 5 => .ok (.vredand (fldRd w) (fldRa w) (fldMsel w))
    | 6 => .ok (.vredor (fldRd w) (fldRa w) (fldMsel w))
    | 7 => .ok (.vredxor (fldRd w) (fldRa w) (fldMsel w))
    | 8 => .ok (.vfrsum (fldRd w) (fldRa w) (fldMsel w))
    | 9 => .ok (.vfrmax (fldRd w) (fldRa w) (fldMsel w))
    | 10 => .ok (.vfrmin (fldRd w) (fldRa w) (fldMsel w))
    | 16 => .ok (.vscan (fldRd w) (fldRa w) (fldMsel w))
    | 17 => .ok (.vfscan (fldRd w) (fldRa w) (fldMsel w))
    | 18 => .ok (.vscanx (fldRd w) (fldRa w) (fldMsel w))
    | _ => .error .unassignedFunction))

/-- Major 0x35 (R49, R51). -/
def decodeRandom (w : IWord) : Except Reject Instr :=
  match (fldFn w).toNat with
  | 0 => .ok (.vrand (fldRd w) (fldRa w) (fldRb w))
  | 1 => .ok (.vrandf (fldRd w) (fldRa w) (fldRb w))
  | 2 => .ok (.vrandm (fldRd w) (fldRa w) (fldRb w))
  | _ => .error .unassignedFunction

/-- Majors 0x36 to 0x3A (R49, R51): x is the non-blocking form, or the FP form of the vector atomics. -/
def decodeVmem (w : IWord) : Except Reject Instr :=
  masked w (match (fldMajor w).toNat, w.getLsbD 0 with
    | 0x36, false => .ok (.vld (fldRd w) (fldRa w) (fldRb w) (fldMsel w))
    | 0x36, true => .ok (.vldNb (fldRd w) (fldRa w) (fldRb w) (fldMsel w))
    | 0x37, false => .ok (.vst (fldRd w) (fldRa w) (fldRb w) (fldMsel w))
    | 0x37, true => .ok (.vstNb (fldRd w) (fldRa w) (fldRb w) (fldMsel w))
    | 0x38, false => .ok (.vldx (fldRd w) (fldRa w) (fldRb w) (fldMsel w))
    | 0x38, true => .ok (.vldxNb (fldRd w) (fldRa w) (fldRb w) (fldMsel w))
    | 0x39, false => .ok (.vstx (fldRd w) (fldRa w) (fldRb w) (fldMsel w))
    | 0x39, true => .ok (.vstxNb (fldRd w) (fldRa w) (fldRb w) (fldMsel w))
    | 0x3A, false => .ok (.vaadd (fldRd w) (fldRa w) (fldRb w) (fldMsel w))
    | 0x3A, true => .ok (.vafadd (fldRd w) (fldRa w) (fldRb w) (fldMsel w))
    | _, _ => .error .reservedMajor)

/-- Major 0x3B (R51, R215). -/
def decodeTensor (w : IWord) : Except Reject Instr :=
  match (w.extractLsb' 0 4).toNat with
  | 0 => maskSel (w.extractLsb' 4 4) (.ok (.tld (fldRd w) (w.extractLsb' 15 4) (w.extractLsb' 8 7) (w.extractLsb' 4 4)))
  | 1 => maskSel (w.extractLsb' 4 4) (.ok (.tst (fldRd w) (w.extractLsb' 15 4) (w.extractLsb' 8 7) (w.extractLsb' 4 4)))
  | 2 => maskSel (w.extractLsb' 4 4) (.ok (.tldNb (fldRd w) (w.extractLsb' 15 4) (w.extractLsb' 8 7) (w.extractLsb' 4 4)))
  | 3 => maskSel (w.extractLsb' 4 4) (.ok (.tstNb (fldRd w) (w.extractLsb' 15 4) (w.extractLsb' 8 7) (w.extractLsb' 4 4)))
  | _ => .error .unassignedFunction

/-- Majors 0x3C and 0x3D (R39, R52): flag bit 13 is the grouped form, flags [12:11] are zero. -/
noncomputable def decodeMatrix (w : IWord) : Except Reject Instr :=
  maskSel (w.extractLsb' 0 4)
    (if fldMajor w = 0x3C#6 then
      .ok (.mmav (w.extractLsb' 22 4) (w.extractLsb' 18 4) (w.extractLsb' 11 7) (w.extractLsb' 4 7) (w.extractLsb' 0 4))
    else mustZero (w.extractLsb' 11 2 = 0)
      (if w.getLsbD 13 then
        .ok (.mmatG (w.extractLsb' 22 4) (w.extractLsb' 18 4) (w.extractLsb' 14 4) (w.extractLsb' 4 7) (w.extractLsb' 0 4))
      else
        .ok (.mmat (w.extractLsb' 22 4) (w.extractLsb' 18 4) (w.extractLsb' 14 4) (w.extractLsb' 4 7) (w.extractLsb' 0 4))))

/-- Major 0x3E (R52, R270). -/
noncomputable def decodeMatrixControl (w : IWord) : Except Reject Instr :=
  match (fldFn w).toNat with
  | 0 => mustZero (fldRa w = 0 ∧ fldRb w = 0) (.ok (.mz (fldRd w)))
  | 1 => .ok (.mst (fldRd w) (fldRa w) (fldRb w))
  | 2 => .ok (.mrd (fldRd w) (fldRa w) (fldRb w))
  | 3 => mustZero (fldRd w = 0 ∧ fldRa w = 0 ∧ fldRb w = 0) (.ok .msync)
  | 4 => .ok (.mwr (fldRd w) (fldRa w) (fldRb w))
  | _ => .error .unassignedFunction

/-- Major 0x3F (R49, R52). -/
noncomputable def decodeEngine (w : IWord) : Except Reject Instr :=
  match (fldFn w).toNat with
  | 0 => mustZero (fldRd w = 0 ∧ fldRb w = 0) (.ok (.ceresume (fldRa w)))
  | 1 => mustZero (fldRd w = 0 ∧ fldRb w = 0) (.ok (.cecancel (fldRa w)))
  | 2 => mustZero (fldRb w = 0) (.ok (.cestat (fldRd w) (fldRa w)))
  | 3 => mustZero (fldRd w = 0) (.ok (.waitge (fldRa w) (fldRb w)))
  | 4 => mustZero (fldRd w = 0 ∧ fldRb w = 0) (.ok (.waitt (fldRa w)))
  | 5 => mustZero (fldRd w = 0 ∧ fldRb w = 0) (.ok (.waitp (fldRa w)))
  | 6 => .ok (.claim (fldRd w) (fldRa w) (fldRb w))
  | 7 => .ok (.claimt (fldRd w) (fldRa w) (fldRb w))
  | 8 => mustZero (fldRb w = 0) (.ok (.launch (fldRd w) (fldRa w)))
  | 9 => mustZero (fldRd w = 0 ∧ fldRb w = 0) (.ok (.cancel (fldRa w)))
  | 10 => mustZero (fldRd w = 0 ∧ fldRa w = 0 ∧ fldRb w = 0) (.ok .exit)
  | 11 => mustZero (fldRd w = 0 ∧ fldRa w = 0 ∧ fldRb w = 0) (.ok .yield)
  | 12 => mustZero (fldRd w = 0 ∧ fldRb w = 0) (.ok (.gjoin (fldRa w)))
  | 13 => mustZero (fldRd w = 0 ∧ fldRb w = 0) (.ok (.gleave (fldRa w)))
  | 14 => mustZero (fldRd w = 0 ∧ fldRb w = 0) (.ok (.gbar (fldRa w)))
  | 15 => .ok (.crs (fldRd w) (fldRa w) (fldRb w))
  | 16 => .ok (.car (fldRd w) (fldRa w) (fldRb w))
  | 17 => .ok (.cbc (fldRd w) (fldRa w) (fldRb w))
  | 18 => .ok (.cag (fldRd w) (fldRa w) (fldRb w))
  | 19 => mustZero (fldRd w = 0) (.ok (.cbar (fldRa w) (fldRb w)))
  | 20 => mustZero (fldRd w = 0) (.ok (.cbarRt (fldRa w) (fldRb w)))
  | 21 => mustZero (fldRb w = 0) (.ok (.tldr (fldRd w) (fldRa w)))
  | 22 => mustZero (fldRb w = 0) (.ok (.tstr (fldRd w) (fldRa w)))
  | 23 => .ok (.tset (fldRd w) (fldRa w) (fldRb w))
  | 24 => .ok (.tget (fldRd w) (fldRa w) (fldRb w))
  | 25 => mustZero (fldRb w = 0) (.ok (.vshp (fldRd w) (fldRa w)))
  | 26 => mustZero (fldRb w = 0) (.ok (.ceprom (fldRd w) (fldRa w)))
  | _ => .error .unassignedFunction

/-- The instruction a word stands for (R47 step 1, R49). -/
noncomputable def decode (w : IWord) : Except Reject Instr :=
  match (fldMajor w).toNat with
  | 0x01 => decodeAlu w
  | 0x02 => decodeAlu32 w
  | 0x03 => .ok (.addi (fldRd w) (fldRa w) (fldImm12 w))
  | 0x04 => .ok (.andi (fldRd w) (fldRa w) (fldImm12 w))
  | 0x05 => .ok (.ori (fldRd w) (fldRa w) (fldImm12 w))
  | 0x06 => .ok (.xori (fldRd w) (fldRa w) (fldImm12 w))
  | 0x07 => decodeShift w
  | 0x08 => .ok (.slti (fldRd w) (fldRa w) (fldImm12 w))
  | 0x0A => .ok (.lui (fldRd w) (fldImm19 w))
  | 0x0B => .ok (.auipc (fldRd w) (fldImm19 w))
  | 0x0C => .ok (.beq (fldRd w) (fldRa w) (fldImm12 w))
  | 0x0D => .ok (.bne (fldRd w) (fldRa w) (fldImm12 w))
  | 0x0E => .ok (.blt (fldRd w) (fldRa w) (fldImm12 w))
  | 0x0F => .ok (.bge (fldRd w) (fldRa w) (fldImm12 w))
  | 0x10 => .ok (.bltu (fldRd w) (fldRa w) (fldImm12 w))
  | 0x11 => .ok (.bgeu (fldRd w) (fldRa w) (fldImm12 w))
  | 0x12 => .ok (.jal (fldRd w) (fldImm19 w))
  | 0x13 => .ok (.jalr (fldRd w) (fldRa w) (fldImm12 w))
  | 0x14 => decodeLoad w
  | 0x15 => decodeStore w
  | 0x16 => decodeSync w
  | 0x17 => decodeFence w
  | 0x18 => .ok (.csrrw (fldRd w) (fldRa w) (fldImm12 w))
  | 0x19 => .ok (.csrrs (fldRd w) (fldRa w) (fldImm12 w))
  | 0x1B => decodeWindow w
  | 0x1C => mustZero (fldRd w = 0 ∧ fldRa w = 0) (.ok (.trap (fldImm12 w)))
  | 0x1D => decodeSystem w
  | 0x1E => decodeVcontrol w
  | 0x1F => decodePrefix w
  | 0x30 => decodeVcmp w
  | 0x31 => decodeMask w
  | 0x32 => decodeCross w
  | 0x33 => decodeVunary w
  | 0x34 => decodeVreduce w
  | 0x35 => decodeRandom w
  | 0x36 | 0x37 | 0x38 | 0x39 | 0x3A => decodeVmem w
  | 0x3B => decodeTensor w
  | 0x3C | 0x3D => decodeMatrix w
  | 0x3E => decodeMatrixControl w
  | 0x3F => decodeEngine w
  | 0x20 | 0x21 | 0x22 | 0x23 | 0x24 | 0x25 | 0x26 | 0x27
  | 0x28 | 0x29 | 0x2A | 0x2B | 0x2C | 0x2D | 0x2E | 0x2F => decodeVarith w
  | _ => .error .reservedMajor

/-- The word of four bytes, the first at the lowest address (R4, R36). -/
def wordOfBytes (b0 b1 b2 b3 : Byte) : IWord := b3 ++ b2 ++ b1 ++ b0

/-- Decoding on bytes: the instruction in the first four bytes and the bytes after it; none where fewer than four stand
or the word is no instruction. -/
noncomputable def decodeBytes : List Byte → Option (Instr × List Byte)
  | b0 :: b1 :: b2 :: b3 :: rest =>
    match decode (wordOfBytes b0 b1 b2 b3) with
    | .ok i => some (i, rest)
    | .error _ => none
  | _ => none

/-- Byte n of a number, byte 0 the least significant. -/
def byteOf (w n : Nat) : Byte := BitVec.ofNat 8 (w / 2 ^ (8 * n))

/-- The decoder on the opcode table's numbering: bits above nbits are zero, the word is laid out little-endian. -/
noncomputable def decodeTableWord (nbits w : Nat) : Option Instr :=
  let v := w % 2 ^ nbits
  (decodeBytes [byteOf v 0, byteOf v 1, byteOf v 2, byteOf v 3]).map Prod.fst

/-! The encoder: the formats of R39, then the words of R49 to R56. -/

def fmtR (maj : BitVec 6) (rd ra rb : BitVec 7) (fn : BitVec 5) : IWord := maj ++ rd ++ ra ++ rb ++ fn
def fmtI (maj : BitVec 6) (rd ra : BitVec 7) (imm : BitVec 12) : IWord := maj ++ rd ++ ra ++ imm
def fmtLS (maj : BitVec 6) (rd ra : BitVec 7) (imm : BitVec 9) (w : BitVec 3) : IWord := maj ++ rd ++ ra ++ imm ++ w
def fmtB (maj : BitVec 6) (ra rb : BitVec 7) (off : BitVec 12) : IWord := maj ++ ra ++ rb ++ off
def fmtU (maj : BitVec 6) (rd : BitVec 7) (imm : BitVec 19) : IWord := maj ++ rd ++ imm
def fmtV (maj : BitVec 6) (vd va vb : BitVec 7) (m : BitVec 4) (x : BitVec 1) : IWord := maj ++ vd ++ va ++ vb ++ m ++ x
def fmtT (maj : BitVec 6) (vd : BitVec 7) (t : BitVec 4) (s : BitVec 7) (m : BitVec 4) (fn : BitVec 4) : IWord :=
  maj ++ vd ++ t ++ s ++ m ++ fn
def fmtRep (cnt : BitVec 6) (fd fa fb : Bool) (st : BitVec 2) : IWord :=
  0x1F#6 ++ cnt ++ BitVec.ofBool fd ++ BitVec.ofBool fa ++ BitVec.ofBool fb ++ st ++ 0#10 ++ 0#5

/-- The word of an instruction (R39, R49 to R56); the part's own steps have no word and encode as the all-zero word,
which no instruction has (R48). -/
def encode : Instr → IWord
  | .add rd ra rb => fmtR 0x01#6 rd ra rb 0#5
  | .sub rd ra rb => fmtR 0x01#6 rd ra rb 1#5
  | .and rd ra rb => fmtR 0x01#6 rd ra rb 2#5
  | .or rd ra rb => fmtR 0x01#6 rd ra rb 3#5
  | .xor rd ra rb => fmtR 0x01#6 rd ra rb 4#5
  | .andn rd ra rb => fmtR 0x01#6 rd ra rb 5#5
  | .orn rd ra rb => fmtR 0x01#6 rd ra rb 6#5
  | .sll rd ra rb => fmtR 0x01#6 rd ra rb 7#5
  | .srl rd ra rb => fmtR 0x01#6 rd ra rb 8#5
  | .sra rd ra rb => fmtR 0x01#6 rd ra rb 9#5
  | .rol rd ra rb => fmtR 0x01#6 rd ra rb 10#5
  | .ror rd ra rb => fmtR 0x01#6 rd ra rb 11#5
  | .slt rd ra rb => fmtR 0x01#6 rd ra rb 12#5
  | .sltu rd ra rb => fmtR 0x01#6 rd ra rb 13#5
  | .min rd ra rb => fmtR 0x01#6 rd ra rb 14#5
  | .max rd ra rb => fmtR 0x01#6 rd ra rb 15#5
  | .minu rd ra rb => fmtR 0x01#6 rd ra rb 16#5
  | .maxu rd ra rb => fmtR 0x01#6 rd ra rb 17#5
  | .mul rd ra rb => fmtR 0x01#6 rd ra rb 18#5
  | .mulh rd ra rb => fmtR 0x01#6 rd ra rb 19#5
  | .mulhu rd ra rb => fmtR 0x01#6 rd ra rb 20#5
  | .div rd ra rb => fmtR 0x01#6 rd ra rb 21#5
  | .divu rd ra rb => fmtR 0x01#6 rd ra rb 22#5
  | .rem rd ra rb => fmtR 0x01#6 rd ra rb 23#5
  | .remu rd ra rb => fmtR 0x01#6 rd ra rb 24#5
  | .clz rd ra => fmtR 0x01#6 rd ra 0#7 25#5
  | .ctz rd ra => fmtR 0x01#6 rd ra 0#7 26#5
  | .popc rd ra => fmtR 0x01#6 rd ra 0#7 27#5
  | .sextb rd ra => fmtR 0x01#6 rd ra 0#7 28#5
  | .sexth rd ra => fmtR 0x01#6 rd ra 0#7 29#5
  | .sextw rd ra => fmtR 0x01#6 rd ra 0#7 30#5
  | .zextw rd ra => fmtR 0x01#6 rd ra 0#7 31#5
  | .addw rd ra rb => fmtR 0x02#6 rd ra rb 0#5
  | .subw rd ra rb => fmtR 0x02#6 rd ra rb 1#5
  | .sllw rd ra rb => fmtR 0x02#6 rd ra rb 2#5
  | .srlw rd ra rb => fmtR 0x02#6 rd ra rb 3#5
  | .sraw rd ra rb => fmtR 0x02#6 rd ra rb 4#5
  | .mulw rd ra rb => fmtR 0x02#6 rd ra rb 5#5
  | .divw rd ra rb => fmtR 0x02#6 rd ra rb 6#5
  | .divuw rd ra rb => fmtR 0x02#6 rd ra rb 7#5
  | .remw rd ra rb => fmtR 0x02#6 rd ra rb 8#5
  | .remuw rd ra rb => fmtR 0x02#6 rd ra rb 9#5
  | .addi rd ra imm => fmtI 0x03#6 rd ra imm
  | .andi rd ra imm => fmtI 0x04#6 rd ra imm
  | .ori rd ra imm => fmtI 0x05#6 rd ra imm
  | .xori rd ra imm => fmtI 0x06#6 rd ra imm
  | .slli rd ra n => fmtI 0x07#6 rd ra (0#2 ++ 0#4 ++ n)
  | .srli rd ra n => fmtI 0x07#6 rd ra (1#2 ++ 0#4 ++ n)
  | .srai rd ra n => fmtI 0x07#6 rd ra (2#2 ++ 0#4 ++ n)
  | .rori rd ra n => fmtI 0x07#6 rd ra (3#2 ++ 0#4 ++ n)
  | .slti rd ra imm => fmtI 0x08#6 rd ra imm
  | .lui rd imm => fmtU 0x0A#6 rd imm
  | .auipc rd imm => fmtU 0x0B#6 rd imm
  | .beq ra rb off => fmtB 0x0C#6 ra rb off
  | .bne ra rb off => fmtB 0x0D#6 ra rb off
  | .blt ra rb off => fmtB 0x0E#6 ra rb off
  | .bge ra rb off => fmtB 0x0F#6 ra rb off
  | .bltu ra rb off => fmtB 0x10#6 ra rb off
  | .bgeu ra rb off => fmtB 0x11#6 ra rb off
  | .jal rd off => fmtU 0x12#6 rd off
  | .jalr rd ra imm => fmtI 0x13#6 rd ra imm
  | .lb rd ra imm => fmtLS 0x14#6 rd ra imm 0#3
  | .lbu rd ra imm => fmtLS 0x14#6 rd ra imm 1#3
  | .lh rd ra imm => fmtLS 0x14#6 rd ra imm 2#3
  | .lhu rd ra imm => fmtLS 0x14#6 rd ra imm 3#3
  | .lw rd ra imm => fmtLS 0x14#6 rd ra imm 4#3
  | .lwu rd ra imm => fmtLS 0x14#6 rd ra imm 5#3
  | .ld rd ra imm => fmtLS 0x14#6 rd ra imm 6#3
  | .ldb rd ra imm => fmtLS 0x14#6 rd ra imm 7#3
  | .sb rd ra imm => fmtLS 0x15#6 rd ra imm 0#3
  | .sh rd ra imm => fmtLS 0x15#6 rd ra imm 1#3
  | .sw rd ra imm => fmtLS 0x15#6 rd ra imm 2#3
  | .sd rd ra imm => fmtLS 0x15#6 rd ra imm 3#3
  | .ldaS rd ra => fmtR 0x16#6 rd ra 0#7 0#5
  | .ldaD rd ra => fmtR 0x16#6 rd ra 0#7 1#5
  | .ldaP rd ra => fmtR 0x16#6 rd ra 0#7 2#5
  | .strS ra rb => fmtR 0x16#6 0#7 ra rb 3#5
  | .strD ra rb => fmtR 0x16#6 0#7 ra rb 4#5
  | .strP ra rb => fmtR 0x16#6 0#7 ra rb 5#5
  | .aadd ra rb => fmtR 0x16#6 0#7 ra rb 6#5
  | .aand ra rb => fmtR 0x16#6 0#7 ra rb 7#5
  | .aor ra rb => fmtR 0x16#6 0#7 ra rb 8#5
  | .axor ra rb => fmtR 0x16#6 0#7 ra rb 9#5
  | .amin ra rb => fmtR 0x16#6 0#7 ra rb 10#5
  | .amax ra rb => fmtR 0x16#6 0#7 ra rb 11#5
  | .aminu ra rb => fmtR 0x16#6 0#7 ra rb 12#5
  | .amaxu ra rb => fmtR 0x16#6 0#7 ra rb 13#5
  | .afadd ra rb => fmtR 0x16#6 0#7 ra rb 14#5
  | .afadds ra rb => fmtR 0x16#6 0#7 ra rb 15#5
  | .afetch rd ra rb => fmtR 0x16#6 rd ra rb 16#5
  | .acas rd ra rb => fmtR 0x16#6 rd ra rb 17#5
  | .aswap rd ra rb => fmtR 0x16#6 rd ra rb 18#5
  | .sumrd rd ra => fmtR 0x16#6 rd ra 0#7 19#5
  | .sumrds rd ra => fmtR 0x16#6 rd ra 0#7 20#5
  | .fenceSv sc => fmtI 0x17#6 0#7 0#7 (0#6 ++ sc ++ 0#1 ++ 0#3)
  | .fenceVs sc => fmtI 0x17#6 0#7 0#7 (0#6 ++ sc ++ 0#1 ++ 1#3)
  | .fenceVv sc => fmtI 0x17#6 0#7 0#7 (0#6 ++ sc ++ 0#1 ++ 2#3)
  | .fenceAll sc => fmtI 0x17#6 0#7 0#7 (0#6 ++ sc ++ 0#1 ++ 3#3)
  | .fenceAcq sc => fmtI 0x17#6 0#7 0#7 (0#6 ++ sc ++ 0#1 ++ 4#3)
  | .fenceRel sc => fmtI 0x17#6 0#7 0#7 (0#6 ++ sc ++ 0#1 ++ 5#3)
  | .fenceRem sc => fmtI 0x17#6 0#7 0#7 (0#6 ++ sc ++ 0#1 ++ 6#3)
  | .csrrw rd ra c => fmtI 0x18#6 rd ra c
  | .csrrs rd ra c => fmtI 0x19#6 rd ra c
  | .winadj n => fmtI 0x1B#6 0#7 0#7 (0#5 ++ n)
  | .winset ra => fmtI 0x1B#6 0#7 ra 0x800#12
  | .trap imm => fmtI 0x1C#6 0#7 0#7 imm
  | .eret => fmtR 0x1D#6 0#7 0#7 0#7 0#5
  | .brk => fmtR 0x1D#6 0#7 0#7 0#7 1#5
  | .l1inv => fmtR 0x1D#6 0#7 0#7 0#7 2#5
  | .winv => fmtR 0x1D#6 0#7 0#7 0#7 3#5
  | .ctxsave ra => fmtR 0x1D#6 0#7 ra 0#7 4#5
  | .ctxrest ra => fmtR 0x1D#6 0#7 ra 0#7 5#5
  | .halt => fmtR 0x1D#6 0#7 0#7 0#7 6#5
  | .xfmq ra => fmtR 0x1D#6 0#7 ra 0#7 7#5
  | .vmodeS => fmtR 0x1E#6 0#7 0#7 0#7 0#5
  | .vmodeL ra => fmtR 0x1E#6 0#7 ra 0#7 1#5
  | .setvl rd ra => fmtR 0x1E#6 rd ra 0#7 2#5
  | .setvlD rd ra rb => fmtR 0x1E#6 rd ra rb 3#5
  | .setvt ra => fmtR 0x1E#6 0#7 ra 0#7 4#5
  | .rep cnt fd fa fb st => fmtRep cnt fd fa fb st
  | .loop t len nm => (0x1F#6 ++ t ++ len ++ nm ++ 1#5 : BitVec 32)
  | .vadd rd ra rb m => fmtV 0x20#6 rd ra rb m 0#1
  | .vsub rd ra rb m => fmtV 0x20#6 rd ra rb m 1#1
  | .vmul rd ra rb m => fmtV 0x21#6 rd ra rb m 0#1
  | .vmulh rd ra rb m => fmtV 0x21#6 rd ra rb m 1#1
  | .vmulhu rd ra rb m => fmtV 0x22#6 rd ra rb m 0#1
  | .vdiv rd ra rb m => fmtV 0x22#6 rd ra rb m 1#1
  | .vdivu rd ra rb m => fmtV 0x23#6 rd ra rb m 0#1
  | .vrem rd ra rb m => fmtV 0x23#6 rd ra rb m 1#1
  | .vremu rd ra rb m => fmtV 0x24#6 rd ra rb m 0#1
  | .vand rd ra rb m => fmtV 0x24#6 rd ra rb m 1#1
  | .vor rd ra rb m => fmtV 0x25#6 rd ra rb m 0#1
  | .vxor rd ra rb m => fmtV 0x25#6 rd ra rb m 1#1
  | .vsll rd ra rb m => fmtV 0x26#6 rd ra rb m 0#1
  | .vsrl rd ra rb m => fmtV 0x26#6 rd ra rb m 1#1
  | .vsra rd ra rb m => fmtV 0x27#6 rd ra rb m 0#1
  | .vmin rd ra rb m => fmtV 0x27#6 rd ra rb m 1#1
  | .vminu rd ra rb m => fmtV 0x28#6 rd ra rb m 0#1
  | .vmax rd ra rb m => fmtV 0x28#6 rd ra rb m 1#1
  | .vmaxu rd ra rb m => fmtV 0x29#6 rd ra rb m 0#1
  | .vfadd rd ra rb m => fmtV 0x29#6 rd ra rb m 1#1
  | .vfsub rd ra rb m => fmtV 0x2A#6 rd ra rb m 0#1
  | .vfmul rd ra rb m => fmtV 0x2A#6 rd ra rb m 1#1
  | .vfdiv rd ra rb m => fmtV 0x2B#6 rd ra rb m 0#1
  | .vfma rd ra rb m => fmtV 0x2B#6 rd ra rb m 1#1
  | .vfms rd ra rb m => fmtV 0x2C#6 rd ra rb m 0#1
  | .vfnma rd ra rb m => fmtV 0x2C#6 rd ra rb m 1#1
  | .vfnms rd ra rb m => fmtV 0x2D#6 rd ra rb m 0#1
  | .vfmin rd ra rb m => fmtV 0x2D#6 rd ra rb m 1#1
  | .vfmax rd ra rb m => fmtV 0x2E#6 rd ra rb m 0#1
  | .vfsign rd ra rb m => fmtV 0x2E#6 rd ra rb m 1#1
  | .vfsignn rd ra rb m => fmtV 0x2F#6 rd ra rb m 0#1
  | .vfsignx rd ra rb m => fmtV 0x2F#6 rd ra rb m 1#1
  | .vcmpEq md ra rb m => fmtV 0x30#6 (0#3 ++ md) ra rb m 0#1
  | .vcmpNe md ra rb m => fmtV 0x30#6 (1#3 ++ md) ra rb m 0#1
  | .vcmpLt md ra rb m => fmtV 0x30#6 (2#3 ++ md) ra rb m 0#1
  | .vcmpLtu md ra rb m => fmtV 0x30#6 (3#3 ++ md) ra rb m 0#1
  | .vcmpLe md ra rb m => fmtV 0x30#6 (4#3 ++ md) ra rb m 0#1
  | .vcmpLeu md ra rb m => fmtV 0x30#6 (5#3 ++ md) ra rb m 0#1
  | .vcmpGt md ra rb m => fmtV 0x30#6 (6#3 ++ md) ra rb m 0#1
  | .vcmpGtu md ra rb m => fmtV 0x30#6 (7#3 ++ md) ra rb m 0#1
  | .vcmpFeq md ra rb m => fmtV 0x30#6 (0#3 ++ md) ra rb m 1#1
  | .vcmpFne md ra rb m => fmtV 0x30#6 (1#3 ++ md) ra rb m 1#1
  | .vcmpFlt md ra rb m => fmtV 0x30#6 (2#3 ++ md) ra rb m 1#1
  | .vcmpFle md ra rb m => fmtV 0x30#6 (3#3 ++ md) ra rb m 1#1
  | .vcmpFgt md ra rb m => fmtV 0x30#6 (4#3 ++ md) ra rb m 1#1
  | .vcmpFge md ra rb m => fmtV 0x30#6 (5#3 ++ md) ra rb m 1#1
  | .vcmpFunord md ra rb m => fmtV 0x30#6 (6#3 ++ md) ra rb m 1#1
  | .vcmpFord md ra rb m => fmtV 0x30#6 (7#3 ++ md) ra rb m 1#1
  | .mand rd ra rb => fmtR 0x31#6 rd ra rb 0#5
  | .mor rd ra rb => fmtR 0x31#6 rd ra rb 1#5
  | .mxor rd ra rb => fmtR 0x31#6 rd ra rb 2#5
  | .mandn rd ra rb => fmtR 0x31#6 rd ra rb 3#5
  | .mnot rd ra => fmtR 0x31#6 rd ra 0#7 4#5
  | .mset rd => fmtR 0x31#6 rd 0#7 0#7 5#5
  | .mclr rd => fmtR 0x31#6 rd 0#7 0#7 6#5
  | .mpopc rd ra => fmtR 0x31#6 rd ra 0#7 7#5
  | .mfirst rd ra => fmtR 0x31#6 rd ra 0#7 8#5
  | .mfromv rd ra => fmtR 0x31#6 rd ra 0#7 9#5
  | .mtov rd ra => fmtR 0x31#6 rd ra 0#7 10#5
  | .msbf rd ra => fmtR 0x31#6 rd ra 0#7 11#5
  | .miota rd ra => fmtR 0x31#6 rd ra 0#7 12#5
  | .vslideup rd ra rb => fmtR 0x32#6 rd ra rb 0#5
  | .vslidedn rd ra rb => fmtR 0x32#6 rd ra rb 1#5
  | .vbfly rd ra rb => fmtR 0x32#6 rd ra rb 2#5
  | .vperm rd ra rb => fmtR 0x32#6 rd ra rb 4#5
  | .vcompress rd ra rb => fmtR 0x32#6 rd ra rb 5#5
  | .vexpand rd ra rb => fmtR 0x32#6 rd ra rb 6#5
  | .vid rd => fmtR 0x32#6 rd 0#7 0#7 7#5
  | .vbcast rd ra rb => fmtR 0x32#6 rd ra rb 8#5
  | .vextr rd ra rb => fmtR 0x32#6 rd ra rb 9#5
  | .vinsr rd ra rb => fmtR 0x32#6 rd ra rb 10#5
  | .vmerge rd ra rb k => fmtR 0x32#6 rd ra rb (1#1 ++ k)
  | .vfsqrt rd ra m => fmtV 0x33#6 rd ra 0#7 m 0#1
  | .vneg rd ra m => fmtV 0x33#6 rd ra 1#7 m 0#1
  | .vnot rd ra m => fmtV 0x33#6 rd ra 2#7 m 0#1
  | .vclz rd ra m => fmtV 0x33#6 rd ra 3#7 m 0#1
  | .vctz rd ra m => fmtV 0x33#6 rd ra 4#7 m 0#1
  | .vpopc rd ra m => fmtV 0x33#6 rd ra 5#7 m 0#1
  | .vfclass rd ra m => fmtV 0x33#6 rd ra 6#7 m 0#1
  | .vfrint rd ra m => fmtV 0x33#6 rd ra 7#7 m 0#1
  | .vcvtFI rd ra m => fmtV 0x33#6 rd ra 8#7 m 0#1
  | .vcvtFIu rd ra m => fmtV 0x33#6 rd ra 9#7 m 0#1
  | .vcvtIF rd ra m => fmtV 0x33#6 rd ra 10#7 m 0#1
  | .vcvtIuF rd ra m => fmtV 0x33#6 rd ra 11#7 m 0#1
  | .vwidenI rd ra m => fmtV 0x33#6 rd ra 12#7 m 0#1
  | .vwidenIu rd ra m => fmtV 0x33#6 rd ra 13#7 m 0#1
  | .vnarrowI rd ra m => fmtV 0x33#6 rd ra 14#7 m 0#1
  | .vnarrowIs rd ra m => fmtV 0x33#6 rd ra 15#7 m 0#1
  | .vfwiden rd ra m => fmtV 0x33#6 rd ra 16#7 m 0#1
  | .vfnarrow rd ra m => fmtV 0x33#6 rd ra 17#7 m 0#1
  | .vrsum rd ra m => fmtV 0x34#6 rd ra 0#7 m 0#1
  | .vrmax rd ra m => fmtV 0x34#6 rd ra 1#7 m 0#1
  | .vrmin rd ra m => fmtV 0x34#6 rd ra 2#7 m 0#1
  | .vrmaxu rd ra m => fmtV 0x34#6 rd ra 3#7 m 0#1
  | .vrminu rd ra m => fmtV 0x34#6 rd ra 4#7 m 0#1
  | .vredand rd ra m => fmtV 0x34#6 rd ra 5#7 m 0#1
  | .vredor rd ra m => fmtV 0x34#6 rd ra 6#7 m 0#1
  | .vredxor rd ra m => fmtV 0x34#6 rd ra 7#7 m 0#1
  | .vfrsum rd ra m => fmtV 0x34#6 rd ra 8#7 m 0#1
  | .vfrmax rd ra m => fmtV 0x34#6 rd ra 9#7 m 0#1
  | .vfrmin rd ra m => fmtV 0x34#6 rd ra 10#7 m 0#1
  | .vscan rd ra m => fmtV 0x34#6 rd ra 16#7 m 0#1
  | .vfscan rd ra m => fmtV 0x34#6 rd ra 17#7 m 0#1
  | .vscanx rd ra m => fmtV 0x34#6 rd ra 18#7 m 0#1
  | .vrand rd ra rb => fmtR 0x35#6 rd ra rb 0#5
  | .vrandf rd ra rb => fmtR 0x35#6 rd ra rb 1#5
  | .vrandm rd ra rb => fmtR 0x35#6 rd ra rb 2#5
  | .vld rd ra rb m => fmtV 0x36#6 rd ra rb m 0#1
  | .vldNb rd ra rb m => fmtV 0x36#6 rd ra rb m 1#1
  | .vst rd ra rb m => fmtV 0x37#6 rd ra rb m 0#1
  | .vstNb rd ra rb m => fmtV 0x37#6 rd ra rb m 1#1
  | .vldx rd ra rb m => fmtV 0x38#6 rd ra rb m 0#1
  | .vldxNb rd ra rb m => fmtV 0x38#6 rd ra rb m 1#1
  | .vstx rd ra rb m => fmtV 0x39#6 rd ra rb m 0#1
  | .vstxNb rd ra rb m => fmtV 0x39#6 rd ra rb m 1#1
  | .vaadd rd ra rb m => fmtV 0x3A#6 rd ra rb m 0#1
  | .vafadd rd ra rb m => fmtV 0x3A#6 rd ra rb m 1#1
  | .tld rd t rs m => fmtT 0x3B#6 rd t rs m 0#4
  | .tst rd t rs m => fmtT 0x3B#6 rd t rs m 1#4
  | .tldNb rd t rs m => fmtT 0x3B#6 rd t rs m 2#4
  | .tstNb rd t rs m => fmtT 0x3B#6 rd t rs m 3#4
  | .mmav az tB va sn m => (0x3C#6 ++ az ++ tB ++ va ++ sn ++ m : BitVec 32)
  | .mmat az tB tA sn m => (0x3D#6 ++ az ++ tB ++ tA ++ 0#3 ++ sn ++ m : BitVec 32)
  | .mmatG az tB tA sn m => (0x3D#6 ++ az ++ tB ++ tA ++ 4#3 ++ sn ++ m : BitVec 32)
  | .mz rd => fmtR 0x3E#6 rd 0#7 0#7 0#5
  | .mst rd ra rb => fmtR 0x3E#6 rd ra rb 1#5
  | .mrd rd ra rb => fmtR 0x3E#6 rd ra rb 2#5
  | .msync => fmtR 0x3E#6 0#7 0#7 0#7 3#5
  | .mwr rd ra rb => fmtR 0x3E#6 rd ra rb 4#5
  | .ceresume ra => fmtR 0x3F#6 0#7 ra 0#7 0#5
  | .cecancel ra => fmtR 0x3F#6 0#7 ra 0#7 1#5
  | .cestat rd ra => fmtR 0x3F#6 rd ra 0#7 2#5
  | .waitge ra rb => fmtR 0x3F#6 0#7 ra rb 3#5
  | .waitt ra => fmtR 0x3F#6 0#7 ra 0#7 4#5
  | .waitp ra => fmtR 0x3F#6 0#7 ra 0#7 5#5
  | .claim rd ra rb => fmtR 0x3F#6 rd ra rb 6#5
  | .claimt rd ra rb => fmtR 0x3F#6 rd ra rb 7#5
  | .launch rd ra => fmtR 0x3F#6 rd ra 0#7 8#5
  | .cancel ra => fmtR 0x3F#6 0#7 ra 0#7 9#5
  | .exit => fmtR 0x3F#6 0#7 0#7 0#7 10#5
  | .yield => fmtR 0x3F#6 0#7 0#7 0#7 11#5
  | .gjoin ra => fmtR 0x3F#6 0#7 ra 0#7 12#5
  | .gleave ra => fmtR 0x3F#6 0#7 ra 0#7 13#5
  | .gbar ra => fmtR 0x3F#6 0#7 ra 0#7 14#5
  | .crs rd ra rb => fmtR 0x3F#6 rd ra rb 15#5
  | .car rd ra rb => fmtR 0x3F#6 rd ra rb 16#5
  | .cbc rd ra rb => fmtR 0x3F#6 rd ra rb 17#5
  | .cag rd ra rb => fmtR 0x3F#6 rd ra rb 18#5
  | .cbar ra rb => fmtR 0x3F#6 0#7 ra rb 19#5
  | .cbarRt ra rb => fmtR 0x3F#6 0#7 ra rb 20#5
  | .tldr rd ra => fmtR 0x3F#6 rd ra 0#7 21#5
  | .tstr rd ra => fmtR 0x3F#6 rd ra 0#7 22#5
  | .tset rd ra rb => fmtR 0x3F#6 rd ra rb 23#5
  | .tget rd ra rb => fmtR 0x3F#6 rd ra rb 24#5
  | .vshp rd ra => fmtR 0x3F#6 rd ra 0#7 25#5
  | .ceprom rd ra => fmtR 0x3F#6 rd ra 0#7 26#5
  | .ceLaunch => 0#32
  | .vtypeWrite _ => 0#32
  | .vlWrite _ => 0#32
  | .vstartWrite _ => 0#32
  | .wbWrite _ => 0#32
  | .nbctrWrite _ => 0#32
  | .mstatWrite _ => 0#32
  | .kstatusWrite _ => 0#32
  | .ptbrWrite _ _ => 0#32
  | .kbgrantWrite _ => 0#32
  | .registerWrite _ _ => 0#32
  | .tlbinv _ _ => 0#32
  | .invalidationComplete _ => 0#32
  | .hmsgWrite _ _ _ _ => 0#32
  | .hmsgRead _ _ _ => 0#32
  | .devmsg _ => 0#32
  | .hevqd _ => 0#32
  | .detectWrite _ _ => 0#32
  | .timeoutWrite _ _ => 0#32
  | .communicatorWord0Write _ _ _ => 0#32
  | .drain _ => 0#32
  | .retrain _ => 0#32
  | .loadrt _ => 0#32
  | .query _ => 0#32
  | .portDrained _ _ => 0#32
  | .drainTimeout _ _ => 0#32
  | .trainingSuccess _ _ => 0#32
  | .trainingTimeout _ _ => 0#32
  | .verifyResult _ _ _ => 0#32
  | .preEmpt => 0#32
  | .timer => 0#32
  | .transferMemoryError => 0#32
  | .hostMessage => 0#32
  | .queueDeadlock => 0#32
  | .elementGroupStart => 0#32
  | .elementGroupWrite => 0#32
  | .loadDataArrival => 0#32
  | .nbCounterIncrement => 0#32
  | .linkEntryStaging => 0#32
  | .trussEntryStart => 0#32
  | .trussEntryComplete => 0#32
  | .deferredQueuePush _ => 0#32
  | .copyUnit _ => 0#32
  | .transferCompletion _ => 0#32
  | .waitgeWake => 0#32
  | .waittWake => 0#32
  | .waitpWake => 0#32
  | .missedPromise => 0#32
  | .generationComplete _ _ => 0#32
  | .longModeGrant _ _ => 0#32
  | .dependenceMet _ _ => 0#32
  | .placement _ => 0#32
  | .spanStart _ _ => 0#32
  | .dispatch _ _ => 0#32
  | .threadRestore _ _ => 0#32
  | .victimTermination _ _ => 0#32
  | .launchCompletion _ _ => 0#32
  | .packetHop _ _ => 0#32
  | .requestAtHome _ => 0#32
  | .acknowledgement _ => 0#32
  | .faultResponse _ => 0#32
  | .lostResponse _ => 0#32
  | .detectTimeout _ => 0#32
  | .packageTokenVisit _ => 0#32
  | .podTokenVisit => 0#32
  | .packageTokenReissue _ => 0#32
  | .podTokenReissue => 0#32
  | .suspectSunk _ => 0#32
  | .l1FillArrival _ _ => 0#32
  | .windowFillArrival _ => 0#32
  | .chunkSend _ => 0#32
  | .contributionArrival _ => 0#32
  | .barrierMessage _ => 0#32
  | .collectiveCompletion _ _ => 0#32
  | .frameResend _ => 0#32
  | .frameAck _ => 0#32
  | .budgetPeriod => 0#32
  | .packageReset _ => 0#32
  | .wavelengthLockTimeout _ => 0#32
  | .sensorSample _ _ _ => 0#32
  | .keySlotLoad _ _ => 0#32
  | .keySlotErase _ _ => 0#32
  | .fuseBlow _ => 0#32
  | .firmwareUpdate _ _ => 0#32
  | .attestationRequest _ _ => 0#32
  | .illegalInstruction _ => 0#32
  | .wavelengthLock _ => 0#32
  | .planeStopsDelivering _ _ _ => 0#32
  | .stationBroughtBack _ _ => 0#32
  | .cancelArrival _ _ => 0#32
  | .resultDataArrival _ => 0#32
  | .creditGrant _ => 0#32
  | .collectiveFailureMessage _ => 0#32

end Sys2Proof
end

