-- ==== Sys2Proof/Machine/Cipher.lean ====
section
/-! DEFINITION. The cipher and the digest that the spec names: AES-256-XTS (R379: IEEE 1619 over FIPS 197) and SHAKE256 (R400:
FIPS 202), over bytes as natural numbers. The two standards are the spec's references (log 7). -/

namespace Sys2Proof.Machine

/-! ## AES-256 (FIPS 197) -/

/-- The substitution box and its inverse, entry i at byte i. -/
def sboxTable : Nat := 0x16bb54b00f2d99416842e6bf0d89a18cdf2855cee9871e9b948ed9691198f8e19e1dc186b95735610ef6034866b53e708a8bbd4b1f74dde8c6b4a61c2e2578ba08ae7a65eaf4566ca94ed58d6d37c8e779e4959162acd3c25c2406490a3a32e0db0b5ede14b8ee4688902a22dc4f816073195d643d7ea7c41744975fec130ccdd2f3ff1021dab6bcf5389d928f40a351a89f3c507f02f94585334d43fbaaefd0cf584c4a39becb6a5bb1fc20ed00d153842fe329b3d63b52a05a6e1b1a2c830975b227ebe28012079a059618c323c7041531d871f1e5a534ccf73f362693fdb7c072a49cafa2d4adf04759fa7dc982ca76abd7fe2b670130c56f6bf27b777c63
def invSboxTable : Nat := 0x7d0c2155631469e126d677ba7e042b17619953833cbbebc8b0f52aae4d3be0a0ef9cc9939f7ae52d0d4ab519a97f51605fec8027591012b131c7078833a8dd1ff45acd78fec0db9a2079d2c64b3e56fc1bbe18aa0e62b76f89c5291d711af1476edf751ce837f9e28535ade72274ac9673e6b4f0cecff297eadc674f4111913a6b8a130103bdafc1020f3fca8f1e2cd00645b3b80558e4f70ad3bc8c00abd890849d8da75746155edab9edfd5048706c92b6655dcc5ca4d41698688664f6f87225d18b6d49a25b76b224d92866a12e084ec3fa420b954cee3d23c2a632947b54cbe9dec444438e3487ff2f9b8239e37cfbd7f3819ea340bf38a53630d56a0952

def sbox (b : Nat) : Nat := sboxTable / 256 ^ b % 256
def invSbox (b : Nat) : Nat := invSboxTable / 256 ^ b % 256

/-- Multiplication by x in the field of 256 elements, and by the constants of the inverse mix. -/
def xtime (b : Nat) : Nat := if b < 128 then 2 * b else (2 * b) ^^^ 0x11B
def gmul (n b : Nat) : Nat :=
  (if n % 2 = 1 then b else 0) ^^^ (if n / 2 % 2 = 1 then xtime b else 0) ^^^ (if n / 4 % 2 = 1 then xtime (xtime b) else 0)
    ^^^ (if n / 8 % 2 = 1 then xtime (xtime (xtime b)) else 0)

/-- Byte by byte exclusive or. -/
def xorBytes (a b : List Nat) : List Nat := (a.zip b).map fun x => x.1 ^^^ x.2

/-- Rows of the state move left by their number, or right. -/
def shiftRows (s : List Nat) : List Nat := (List.range 16).map fun i => s.getD (i % 4 + 4 * ((i / 4 + i % 4) % 4)) 0
def unshiftRows (s : List Nat) : List Nat := (List.range 16).map fun i => s.getD (i % 4 + 4 * ((i / 4 + 4 - i % 4) % 4)) 0

/-- Each column times the circulant of four constants. -/
def mixWith (c0 c1 c2 c3 : Nat) (s : List Nat) : List Nat :=
  (List.range 16).map fun i =>
    let b (k : Nat) : Nat := s.getD (i / 4 * 4 + (i + k) % 4) 0
    gmul c0 (b 0) ^^^ gmul c1 (b 1) ^^^ gmul c2 (b 2) ^^^ gmul c3 (b 3)

/-- The key schedule: the words still to make, the round constant, and the words so far, newest first. -/
def expandKey : Nat → Nat → List (List Nat) → List (List Nat)
  | 0, _, ws => ws
  | n + 1, rcon, ws =>
    let i := ws.length
    let t := ws.headD []
    let u := if i % 8 = 0 then xorBytes ((t.drop 1 ++ t.take 1).map sbox) [rcon, 0, 0, 0]
      else if i % 8 = 4 then t.map sbox else t
    expandKey n (if i % 8 = 0 then xtime rcon else rcon) (xorBytes (ws.getD 7 []) u :: ws)

/-- The fifteen round keys of a 32-byte key. -/
def roundKeys (key : List Nat) : List (List Nat) :=
  let ws := (expandKey 52 1 ((List.range 8).map fun i => (key.drop (4 * i)).take 4).reverse).reverse
  (List.range 15).map fun r => ((ws.drop (4 * r)).take 4).flatten

/-- Enciphers a block of 16 bytes. -/
def aesEncrypt (ks : List (List Nat)) (b : List Nat) : List Nat :=
  let s := (List.range 13).foldl (fun s r => xorBytes (mixWith 2 3 1 1 (shiftRows (s.map sbox))) (ks.getD (r + 1) []))
    (xorBytes b (ks.getD 0 []))
  xorBytes (shiftRows (s.map sbox)) (ks.getD 14 [])

/-- Deciphers a block of 16 bytes. -/
def aesDecrypt (ks : List (List Nat)) (b : List Nat) : List Nat :=
  let s := (List.range 13).foldl (fun s r => mixWith 14 11 13 9 (xorBytes ((unshiftRows s).map invSbox) (ks.getD (13 - r) [])))
    (xorBytes b (ks.getD 14 []))
  xorBytes ((unshiftRows s).map invSbox) (ks.getD 0 [])

/-! ## XTS over a sector of 64 bytes (IEEE 1619) -/

/-- n bytes of a number, least significant first, and back. -/
def bytesOf (n x : Nat) : List Nat := (List.range n).map fun i => x / 256 ^ i % 256
def numberOf (bs : List Nat) : Nat := bs.foldr (fun b n => b + 256 * n) 0

/-- The tweak of the next block. -/
def nextTweak (t : Nat) : Nat := if t < 2 ^ 127 then 2 * t else (2 * t - 2 ^ 128) ^^^ 0x87

/-- Applies a block cipher to the four blocks of a sector under the tweak of its number (R379: FPA[56:6]); the data key is the
low half of the key, the tweak key the high half. -/
def xtsSector (cipher : List (List Nat) → List Nat → List Nat) (key : BitVec 512) (sector : Nat) (data : BitVec 512) : BitVec 512 :=
  let k1 := roundKeys (bytesOf 32 key.toNat)
  let k2 := roundKeys (bytesOf 32 (key.toNat / 2 ^ 256))
  let t0 := numberOf (aesEncrypt k2 (bytesOf 16 sector))
  let ts := [t0, nextTweak t0, nextTweak (nextTweak t0), nextTweak (nextTweak (nextTweak t0))]
  BitVec.ofNat 512 (((List.range 4).map fun j =>
    let t := bytesOf 16 (ts.getD j 0)
    numberOf (xorBytes (cipher k1 (xorBytes (bytesOf 16 (data.toNat / 2 ^ (128 * j))) t)) t) * 2 ^ (128 * j)).sum)

def encipher (key : BitVec 512) (sector : Nat) (data : BitVec 512) : BitVec 512 := xtsSector aesEncrypt key sector data
def decipher (key : BitVec 512) (sector : Nat) (data : BitVec 512) : BitVec 512 := xtsSector aesDecrypt key sector data

/-! ## SHAKE256 (FIPS 202) -/

def roundConstants : List Nat :=
  [0x1, 0x8082, 0x800000000000808a, 0x8000000080008000, 0x808b, 0x80000001, 0x8000000080008081, 0x8000000000008009, 0x8a, 0x88, 0x80008009, 0x8000000a, 0x8000808b, 0x800000000000008b, 0x8000000000008089, 0x8000000000008003, 0x8000000000008002, 0x8000000000000080, 0x800a, 0x800000008000000a, 0x8000000080008081, 0x8000000000008080, 0x80000001, 0x8000000080008008]
def rotations : List Nat :=
  [0, 1, 62, 28, 27, 36, 44, 6, 55, 20, 3, 10, 43, 25, 39, 41, 45, 15, 21, 8, 18, 2, 61, 56, 14]

/-- Rotation of a 64-bit lane to the left. -/
def rotl (x n : Nat) : Nat := x * 2 ^ n % 2 ^ 64 + x * 2 ^ n / 2 ^ 64

/-- One round on 25 lanes, lane x + 5·y. -/
def keccakRound (s : List Nat) (rc : Nat) : List Nat :=
  let l (x y : Nat) : Nat := s.getD (x % 5 + 5 * (y % 5)) 0
  let cs := (List.range 5).map fun x => l x 0 ^^^ l x 1 ^^^ l x 2 ^^^ l x 3 ^^^ l x 4
  let ds := (List.range 5).map fun x => cs.getD ((x + 4) % 5) 0 ^^^ rotl (cs.getD ((x + 1) % 5) 0) 1
  let bs := (List.range 25).map fun i =>
    let x := i % 5
    let y := i / 5
    let x' := (x + 3 * y) % 5
    rotl (l x' x ^^^ ds.getD x' 0) (rotations.getD (x' + 5 * x) 0)
  (List.range 25).map fun i =>
    let b (k : Nat) : Nat := bs.getD (i / 5 * 5 + (i + k - i / 5 * 5) % 5) 0
    let v := b 0 ^^^ ((2 ^ 64 - 1 - b 1) &&& b 2)
    if i = 0 then v ^^^ rc else v

def keccak (s : List Nat) : List Nat := roundConstants.foldl keccakRound s

/-- Absorbs padded bytes, n blocks of 136. -/
def absorb : Nat → List Nat → List Nat → List Nat
  | 0, _, s => s
  | n + 1, bs, s =>
    let lanes := (List.range 25).map fun i => if i < 17 then numberOf ((bs.drop (8 * i)).take 8) else 0
    absorb n (bs.drop 136) (keccak (xorBytes s lanes))

/-- The 64-byte SHAKE256 digest of a message, byte 0 the least significant. -/
def shake256 (m : List Byte) : BitVec 512 :=
  let n := m.length / 136 + 1
  let bs := m.map BitVec.toNat ++ (List.range (136 * n - m.length)).map fun i =>
    (if i = 0 then 0x1F else 0) ^^^ (if i + 1 = 136 * n - m.length then 0x80 else 0)
  let s := absorb n bs (List.replicate 25 0)
  BitVec.ofNat 512 (((List.range 8).map fun i => s.getD i 0 * 2 ^ (64 * i)).sum)

end Sys2Proof.Machine
end

