-- ==== Sys2Proof/Config.lean ====
section
/-! DEFINITION. What an implementation fixes, and the free values: constants with no body, of which nothing can be
computed. Each names its log entry. -/

namespace Sys2Proof.Config

/-- The Span clock after reset, in MHz (R7). -/
def spanClockMHz : Nat := 2100

/-- Bytes of HBM stack 0 in the firmware region (R379, R395: the value the I/O die reports). -/
def fwSize : Nat := 0x10000000

/-- Usable pool units of a Span that repair has not touched (R23, log 3). -/
def poolUnits : Nat := 64

/-- Packages of the pod, numbered from 0 (R15, log 15). -/
def podNodes : Nat := 1024

/-- Host cores of a package (R12, R14). -/
def hostCores : Nat := 32

/-- The power cap of a compute die and the I/O die's draw, in W (R403, log 14). -/
def dieCap : Nat := 800
def ioDraw : Nat := 400

/-- The key of a key slot that was never loaded (R402, log 42). -/
opaque slotKey (node slot : Nat) : BitVec 512

/-- What system firmware leaves in a host core's registers as the host operating system starts: its pc and its device state, by
CSR number (R34, R392, R393, log 13). -/
opaque hostStart (node core csr : Nat) : Word

/-- What stands at an offset of a scratchpad after the first dispatch of a launch (R350, log 8). -/
opaque padByte (stamp offset : Nat) : Byte

/-- A byte of a record that is private to the device (R371, R383, log 9). -/
opaque recordByte (stamp offset : Nat) : Byte

/-- An element of a destination register at or above the faulting element of a vector load (R199, log 10). -/
opaque loadElem (n reg elem : Nat) : BitVec 64

/-- An entry of a tile after a matrix execution error (R264, log 11). -/
opaque tileEntry (n row col : Nat) : BitVec 128

/-- Register r of a restored thread before its `ctxrest` (R386, log 17). -/
opaque restored (n r : Nat) : Word

/-- The promise of a transfer whose first source or destination page does not translate (R300, log 23). -/
opaque blindPromise (n : Nat) : Word

/-- The part's serial number (R395, log 13). -/
opaque serial (node : Nat) : Word

/-- The host cores' own trap entry address (R392, log 13). -/
opaque hostEntry (node core : Nat) : Word

/-- The attestation signature over a report (R401, log 12). -/
opaque attestation (node : Nat) (report : BitVec 2448) : BitVec 912

/-- Bytes charged to an entry of the budgets in the current period, which depends on what the caches of the part hold (R390,
R391, log 35): die, entry, the period, ticks since it began. -/
opaque charged (peer entry period ticks : Nat) : BitVec 32

/-- Bytes charged at a port for a packet that moves so many bytes of data (R390, R391, log 95). -/
opaque charge (bytes : Nat) : Nat

/-- The event codes and the event data of the management event log (R399, log 28): the kind of the event, and what it
says. -/
opaque eventCode (kind : Nat) : BitVec 16
opaque eventData (kind : Nat) (fields : List Nat) : BitVec 128

end Sys2Proof.Config
end

