-- ==== Sys2Proof/Machine/State.lean ====
section
/-! DEFINITION. The state of a pod of SX9 packages as plain data: the current thread and the others, Spans, dies and
packages by number (a number that is not listed stands at its reset value), memory, and the packets in flight. -/

namespace Sys2Proof.Machine

/-- Records by number, rising; a number that is not listed stands at the record's reset value. -/
abbrev NMap (α : Type) := List (Nat × α)

/-! ## Threads -/

/-- Where a thread runs: peer number, Span index within the die, slot (R12, R17). A host core stands at Span 255. -/
structure Place where
  peer : Nat
  span : Nat
  slot : Nat
  deriving DecidableEq, Repr

/-- The names of a thread that placement does not change: its launch handle and thread index. -/
abbrev ThreadId := Word × Word

/-- The occupancy of a thread slot (R346, R357, R387). -/
inductive TStatus where
  | empty
  | running
  | ended
  deriving DecidableEq, Repr

/-- Why a thread's next instruction waits (R99, R106, R302). -/
inductive Wait where
  /-- An operand, a fence, a CSR read of R71, an ARIT entry of an engine. -/
  | other
  /-- A pop finds its queue empty, which held so many entries before the instruction. -/
  | popEmpty (q held : Nat)
  | pushFull (q : Nat)
  | vqFull
  /-- An ARIT conflict with an own vector entry. -/
  | arit
  /-- The ARIT is full (R226). -/
  | aritFull
  | waitge (addr target : Word)
  | waitt (tick : Word)
  | waitp (id : BitVec 16)
  | gbar (setAddr : Nat)
  | longMode
  /-- A TLBINV write whose invalidation is not complete (R380, R381). -/
  | inval
  deriving DecidableEq, Repr

/-- The scalar registers (R41, R105, R109): s1 to s7, the 448 windowed registers, the eight queues. -/
structure Scalars where
  globals : Vector Word 8
  win : Vector Word 448
  wb : Nat
  queues : Vector (List Word) 8
  deriving DecidableEq, Repr

/-- The user CSRs that hold state (R70). -/
structure UserCsrs where
  vl : BitVec 11
  vtype : BitVec 9
  vstart : BitVec 11
  rep : BitVec 6
  fflags : BitVec 5
  nbctr : Word
  rthr : BitVec 32
  mbth : BitVec 7
  mstat : Word
  li : Vector (BitVec 16) 6
  lctl : BitVec 26
  tid : Word
  nthr : Word
  lid : Word
  arg : Word
  part : BitVec 32
  deriving DecidableEq, Repr

/-- The copy engine's shadow set and the last launch (R286, R287). -/
structure CopyCsrs where
  src : Word
  dst : Word
  sh : BitVec 8
  ctr : Word
  inc : Word
  mode : BitVec 3
  last : Word
  nextId : BitVec 16
  deriving DecidableEq, Repr

/-- The kernel CSRs (R368, R369, R390); IP1 to IP3 of `kstatus` are computed. -/
structure KernelCsrs where
  km : Bool
  pkm : Bool
  ie : Bool
  pie : Bool
  ne : Bool
  vkm : Bool
  saved : Bool
  pvt : BitVec 9
  vqn : Nat
  ip0 : Bool
  kepc : Word
  kcause : BitVec 8
  kval : Word
  ktvec : Word
  kscratch : Word
  ksave : Word
  ptbr : Word
  ctxid : BitVec 16
  keysel : BitVec 3
  kvq : Word
  kprio : BitVec 2
  kplace : BitVec 48
  kvqbase : Word
  ktenant : BitVec 4
  kbsel : BitVec 14
  deriving DecidableEq, Repr

/-- A long register context (R128, R151). -/
structure LongCtx where
  regs : Vector VReg 48
  masks : Vector MReg 12
  dirty : Vector Bool 48
  hw : Vector (BitVec 5) 48
  hws : Vector (BitVec 6) 48
  deriving DecidableEq, Repr

/-- A physical location with the key id of its accesses (R16, R379). -/
structure Phys where
  fpa : Nat
  key : Nat
  deriving DecidableEq, Repr

/-- A TLB entry (R197, R378). -/
structure TlbEntry where
  vpn : Nat
  large : Bool
  ctx : BitVec 16
  pte : Word
  deriving DecidableEq, Repr

/-- A trap of the vector stream held during a handler (R104, R374). -/
structure HeldTrap where
  cause : BitVec 8
  val : Word
  deriving DecidableEq, Repr

/-- A part of a record that is private to the device (R371, R383): the record's number, which of its sectors it is, and what
part of the record that is: an entry's record, its scalars, or the state block (log 9). -/
structure RecordPart where
  stamp : Nat
  index : Nat
  deriving DecidableEq, Repr

/-- Which agent of a thread an access is of (R24): the scalar side, the vector stream, a transfer of the copy engine by its place
among all launches, the Truss. -/
inductive Agent where
  | scalar
  | stream
  | copy (order : Nat)
  | truss
  deriving DecidableEq, Repr

/-- What a response has brought an agent (R312): the location that its request named, a value, the descriptor of a sector and the
part of a device record that it held. -/
structure Reply where
  loc : Nat
  /-- It answers a fetch of instructions. -/
  code : Bool
  val : Nat
  fmt : BitVec 8
  scale : BitVec 8
  record : Option RecordPart
  deriving DecidableEq, Repr

/-- For whom the accesses of a step are made (log 46): the agent, its place in the thread's program order, the element that the
access is of, the replies that have come for it, and the pages that its instruction has translated (R197). -/
structure Acting where
  agent : Agent
  age : Nat
  elem : Nat
  replies : List Reply
  pages : List TlbEntry
  deriving DecidableEq, Repr

/-- A write that the vector stream holds in its result buffer (R142). -/
inductive VWrite where
  | elem (reg idx : Nat) (sew : Nat) (val : Word)
  | bit (mask idx : Nat) (val : Bool)
  | push (q : Nat) (val : Word)
  deriving DecidableEq, Repr

/-- A `rep` prefix governing an entry (R53, R54). -/
structure RepPrefix where
  count : Nat
  stepD : Bool
  stepA : Bool
  stepB : Bool
  step : Nat
  deriving DecidableEq, Repr

/-- A counter that a non-blocking entry has to increment (R212): where it lies and through which translation (R381), and the entry's
place in program order. -/
structure Counter where
  va : Word
  loc : Phys
  page : List TlbEntry
  age : Nat
  deriving DecidableEq, Repr

/-- A vector-queue entry with all it captured (R101, R182, R212, R215, R282, R374) and its progress. -/
structure VEntry where
  ins : Instr
  /-- The place of the entry in the thread's program order (the model's own count, log 6). -/
  age : Nat
  pc : Word
  rep : Option RepPrefix
  vl : Nat
  vtype : BitVec 9
  long : Bool
  vstart : Nat
  /-- The captured values of the fields at [18:12] and [11:5] of each repeat that name s0 to s119 (R101, R185), how many
  scalars that is (R371), and the nest offset that a `.n` body word adds to its address (R282). -/
  caps : List (Word × Word)
  nscal : Nat
  nest : Word
  shape : ShapeReg
  nbctr : Word
  rthr : BitVec 32
  kernel : Bool
  /-- The sequence number of the Truss entry of which this is the link entry (R251), and what the Truss delivered for
  an `mrd`: its data, or nothing where the entry was discarded (R264). -/
  link : Option (BitVec 16)
  delivered : Option (Option VReg)
  /-- The repeat and the element that it starts or resumes at (R137, R184, R186); the repeat in progress. -/
  first : Nat
  start : Nat
  j : Nat
  /-- The next element position to perform. -/
  pos : Nat
  /-- The first element position of the first unwritten group. -/
  wpos : Nat
  /-- Buffered results of started groups, oldest first, each with its flags. -/
  buf : List (List VWrite × BitVec 5)
  /-- The entry has passed the checks that precede its first element, and its first group has started. -/
  checked : Bool
  /-- Its group in progress is not complete: an element waits for a reply; and the replies for that element (log 46). -/
  opened : Bool
  replies : List Reply
  /-- The pages that it has translated, each once (R197), and the first element of an atomic whose check failed, with its trap (R199,
  R214). -/
  pages : List TlbEntry
  stop : Option (Nat × HeldTrap)
  /-- Its counter of `nbctr`, as its check found it (R212). -/
  ctr : Option Counter
  deriving DecidableEq, Repr

/-- A Truss entry (R251, R265, R269, R270, R271) with all it captured, its staged operands and its progress. -/
structure TEntry where
  ins : Instr
  age : Nat
  seq : BitVec 16
  notify : Bool
  sn : Word
  shA : ShapeReg
  shB : ShapeReg
  mbth : BitVec 7
  flush : BitVec 2
  kernel : Bool
  /-- The translations that passed at issue (R263). -/
  pages : List TlbEntry
  /-- The link entry has staged the registers and the mask, in order (R251). -/
  staged : Bool
  regs : List VReg
  mask : MReg
  started : Bool
  /-- The next K-step (R260). -/
  kstep : Nat
  flags : BitVec 5
  /-- The replies that its K-step or its access in progress has got (log 46). -/
  replies : List Reply
  /-- The entry has completed or was discarded, and this status entry waits for room in q6 (R107, R267). -/
  push : Option Word
  deriving DecidableEq, Repr

/-- The state of a transfer as `cestat` numbers it (R299). -/
inductive TransferState where
  | running
  | stoppedFault
  | stoppedMemory
  | complete
  | cancelled
  deriving DecidableEq, Repr

/-- A transfer of the copy engine (R287 to R300). The shapes hold the snapshot with the bases replaced. -/
structure Transfer where
  id : BitVec 16
  age : Nat
  /-- Its place among the launches of all threads (the model's own count, log 6). -/
  order : Nat
  src : ShapeReg
  dst : ShapeReg
  ctr : Word
  inc : Word
  converting : Bool
  notify : Bool
  kernel : Bool
  k : Nat
  state : TransferState
  cause : BitVec 8
  flags : BitVec 5
  /-- The flags have been ORed into `fflags` (R293 step 1). -/
  flagged : Bool
  /-- The replies for the unit in progress (log 46), and the counter's add is on its way (R293). -/
  replies : List Reply
  added : Bool
  /-- A request of its element in progress, or of its counter's add, met a memory error: it stops once its other requests are
  acknowledged (R296). -/
  failed : Bool
  promise : Word
  missed : Bool
  /-- The interrupt 0x82 of a memory error is pending (R296, R375). -/
  irq : Bool
  /-- Held at a unit boundary by `ctxsave` (R384). -/
  held : Bool
  /-- The completion entry waits for room in q7 (R107). -/
  push : Option Word
  deriving DecidableEq, Repr

/-- A vector entry that a trap has saved: accesses of the copy engine and the Truss that are younger than it, and older than what
the trap's handler launches, still wait for it (R226, R244). -/
structure Parked where
  entry : VEntry
  before : Nat
  deriving DecidableEq, Repr

/-- The vector state of a thread (R128 to R151). -/
structure VectorState where
  short : Vector (BitVec 256) 48
  smask : Vector (BitVec 32) 12
  long : Option LongCtx
  lg : Nat
  landed : Vector (BitVec 32) 48
  vq : List VEntry
  /-- Counters that committed non-blocking entries have still to increment, oldest first (R212). -/
  nbq : List Counter
  /-- Committed non-blocking entries that still have requests out (R226), and the entries that traps have saved. -/
  outs : List VEntry
  parked : List Parked
  held : Option HeldTrap
  deriving DecidableEq, Repr

/-- A running loop (R277, R281): the nest that the prefix captured and the body words that it fetched. -/
structure LoopRun where
  nest : ShapeReg
  words : List IWord
  deriving DecidableEq, Repr

/-- A control thread, or a host core's context (R24, R392). -/
structure Thread where
  place : Place
  host : Bool
  status : TStatus
  pc : Word
  sc : Scalars
  shp : Vector ShapeReg 16
  u : UserCsrs
  ce : CopyCsrs
  k : KernelCsrs
  v : VectorState
  /-- Truss entries, oldest first (R265), and the sequence number of the next is in `mstat` (R266). -/
  tq : List TEntry
  /-- Transfers, oldest first (R285). -/
  tr : List Transfer
  /-- Instructions issued so far that the program order of streams counts (the model's own count, log 6). -/
  issued : Nat
  wait : Option Wait
  loop : Option LoopRun
  /-- The tick at which its `yield` had it pre-empted (R358, R387). -/
  yielded : Option Nat
  /-- The replies that its instruction in execution has got (log 46), and the pages that it has translated (R197). -/
  replies : List Reply
  pages : List TlbEntry
  /-- Its `ctxsave` has made the stores of the record of this number, and waits for their acknowledgements (R384). -/
  saving : Option Nat
  /-- For whom accesses are made, other than the scalar side, while they are made. -/
  acting : Option Acting
  deriving DecidableEq, Repr

/-- A control thread image with every register at its value at dispatch where the spec gives one (R70, R110, R276,
R283, R286, R368, R369), and zero elsewhere (log 1). DESIGN CHOICE (log 2): the landed bits (R144), which the spec gives no value
here, are all set. -/
def Thread.reset (p : Place) : Thread where
  place := p
  host := false
  status := .empty
  pc := 0
  sc := { globals := .replicate 8 0, win := .replicate 448 0, wb := 0, queues := .replicate 8 [] }
  shp := .replicate 16 0
  u := { vl := 0, vtype := 0x003, vstart := 0, rep := 0, fflags := 0, nbctr := 0, rthr := 0, mbth := 48, mstat := 0,
         li := .replicate 6 0, lctl := 0, tid := 0, nthr := 0, lid := 0, arg := 0, part := 0 }
  ce := { src := 0, dst := 0, sh := 0, ctr := 0, inc := 0, mode := 0, last := 0, nextId := 0 }
  k := { km := false, pkm := false, ie := false, pie := false, ne := false, vkm := false, saved := false,
         pvt := 0x003, vqn := 0, ip0 := false, kepc := 0, kcause := 0, kval := 0, ktvec := 0, kscratch := 0,
         ksave := 0, ptbr := 0, ctxid := 0, keysel := 0, kvq := 0, kprio := 0, kplace := 0, kvqbase := 0,
         ktenant := 0, kbsel := 0 }
  v := { short := .replicate 48 0, smask := .replicate 12 0, long := none, lg := 0,
         landed := .replicate 48 0xFFFFFFFF, vq := [], nbq := [], outs := [], parked := [], held := none }
  tq := []
  tr := []
  issued := 0
  wait := none
  loop := none
  yielded := none
  replies := []
  pages := []
  saving := none
  acting := none

/-- The Span number under which a host core stands in its place (R392). -/
def hostSpan : Nat := 255

/-- A host core's context at package reset (R392, R393): it is not running, its device state and its own registers are those
of `Thread.reset` (log 1). -/
def hostCore (node core : Nat) : Thread :=
  { Thread.reset { peer := 4 * node, span := hostSpan, slot := core } with host := true }

/-! ## Launches and sets -/

/-- The context that a launch hands to its threads (R369, R390, R393). -/
structure LaunchCtx where
  ctxid : BitVec 16
  ktvec : Word
  ptbr : Word
  keysel : BitVec 3
  kprio : BitVec 2
  kplace : BitVec 48
  kvqbase : Word
  ktenant : BitVec 4
  deriving DecidableEq, Repr

/-- A host message slot (R397). -/
structure HostMsg where
  data : BitVec 63
  pend : Bool
  ovr : Bool
  irq : Bool
  deriving DecidableEq, Repr

/-- A slot with no message. -/
def HostMsg.empty : HostMsg := { data := 0, pend := false, ovr := false, irq := false }

/-- A saved thread (R353, R386, R387): its index, its save area, the Span it left with that Span's usable units, and the host
message that waits for it (R397). -/
structure SavedThread where
  tid : Word
  area : Word
  peer : Nat
  span : Nat
  slot : Nat
  poolcap : Nat
  bound : Bool
  /-- The thread's count of issued instructions (log 6). -/
  issued : Nat
  /-- Its save group (R382): the occupancy of a Span that it left. -/
  group : Nat
  msg : HostMsg
  deriving DecidableEq, Repr

/-- A Span chosen for a launch that it has not reached yet (R348, R349, R353): for new threads, or for a save group; and the
tick of the choice (R351). -/
structure Chosen where
  peer : Nat
  span : Nat
  group : Option Nat
  since : Nat
  deriving DecidableEq, Repr

/-- A scheduler entry (R342, R345, R346): the record's fields, the locations its addresses resolved to, the context it
hands on, and its progress. -/
structure Launch where
  gen : Nat
  /-- Its place among the acceptances of all coordinators (the model's own count, log 6). -/
  order : Nat
  prio : Nat
  entry : Word
  arg : Word
  threads : Nat
  part : BitVec 32
  place : BitVec 48
  gang : Bool
  tpsm : Nat
  dep : Option Phys
  depTarget : Nat
  doneInc : Nat
  done : Option Phys
  claim : Option Phys
  ctx : LaunchCtx
  held : Bool
  /-- The next thread index to dispatch. -/
  next : Nat
  /-- Threads dispatched that have not ended and are not saved. -/
  live : List Word
  saved : List SavedThread
  chosen : List Chosen
  cancelled : Bool
  /-- A thread of it ended otherwise than by `exit` (R387), or a fatal context error stopped it (R322). -/
  failed : Bool
  /-- Nothing of it is dispatched any more (R322, R356). -/
  stopped : Bool
  deriving DecidableEq, Repr

/-- A set (R362, R363). -/
structure SetRec where
  /-- The key id under which its word is accessed. -/
  key : Nat
  members : List ThreadId
  arrived : List ThreadId
  /-- Members whose generation has completed and whose `gbar` has still to depart (log 31). -/
  departing : List ThreadId
  deriving DecidableEq, Repr

/-! ## Memory -/

/-- A key of a key slot: the data key in the low half, the tweak key in the high half (R379, R402). -/
abbrev Key := BitVec 512

/-- The descriptor of a 64-byte sector (R78, R79, R80), the key that it was last written under, none for no cipher (R379),
and the mark of uncorrectable data (R97). -/
structure Sector where
  fmt : BitVec 8
  scale : BitVec 8
  key : Option Key
  bad : Bool
  /-- The part of a device record that the sector holds, until a plain write changes the sector (log 9). -/
  record : Option RecordPart
  deriving DecidableEq, Repr

/-- A sector that nothing has written: raw, scale 127, stored under no cipher (R81, R379). -/
def Sector.reset : Sector := { fmt := 0x00, scale := 127, key := none, bad := false, record := none }

/-- A 64-byte line of an L1 data cache or of the instruction cache, with the key id of its fill (R188, R38). -/
structure Line where
  data : BitVec 512
  key : Nat
  deriving DecidableEq, Repr

/-- A window line: a sector copied from its owner, with its descriptor (R189). -/
structure WinLine where
  data : BitVec 512
  fmt : BitVec 8
  scale : BitVec 8
  key : Nat
  deriving DecidableEq, Repr

/-- A scratchpad: the stamp of the launch whose first dispatch left its contents undefined (0 after device clearing),
and the bytes written since (R350, log 8). -/
structure Pad where
  stamp : Nat
  cells : List Host.Cell
  deriving DecidableEq, Repr

/-! ## Spans, dies, packages -/

/-- The kind tag of a tile (R248). -/
inductive TileTag where
  | z
  | f
  | i
  deriving DecidableEq, Repr

/-- An accumulator tile: its tag and its entries by 64 · row + column; an entry not listed is +0 (R248). -/
structure Tile where
  tag : TileTag
  entries : NMap (BitVec 128)
  deriving DecidableEq, Repr

/-- A fill in flight: the line number and the data that its home served (R188, R189). -/
structure Fill where
  line : Nat
  data : BitVec 512
  fmt : BitVec 8
  scale : BitVec 8
  key : Nat
  deriving DecidableEq, Repr

/-- A Span (R12, R16, R19, R23, R38, R147, R188, R375, R397). -/
structure Span where
  poolcap : Nat
  /-- The handle and the partition word of the occupying launch (R19, R20). -/
  launch : Option (Word × BitVec 32)
  tiles : NMap Tile
  /-- Waiters for lane groups and contexts, oldest first: slot, groups, and whether a context is needed (R132). -/
  waiters : List (Nat × Nat × Bool)
  trussTurn : Nat
  copyTurn : Nat
  fills : List Fill
  started : Bool
  cycle : Nat
  /-- The part of the cycle in progress that has passed, in thousandths, and the clock in MHz that this cycle runs at (R7, R403). -/
  phase : Nat
  rate : Nat
  /-- Its clock is stopped: its die is in a capped idle state, or has left it and the Span has still to start (R7, R35). -/
  stopped : Bool
  /-- The occupancy in progress: the save group that threads saved from it belong to (R382). -/
  group : Nat
  /-- The micro-TLB (R197). -/
  utlb : List TlbEntry
  /-- The tick of a pre-emption request to all its threads (R352, R387), and the handle of the entry for which it was made. -/
  preempted : Option Nat
  claimant : Option Word
  /-- The group leader's `ctxrest` has completed on this occupancy (R385). -/
  led : Bool
  l1 : NMap Line
  icache : NMap Line
  pad : Pad
  lost : Vector (BitVec 32) 32
  timers : Vector Word 8
  hmsg : Vector HostMsg 8
  /-- The thread that was placed last in each slot (R397). -/
  owners : Vector (Option ThreadId) 8
  deriving DecidableEq, Repr

def Span.reset : Span where
  poolcap := Config.poolUnits
  launch := none
  tiles := []
  waiters := []
  trussTurn := 0
  copyTurn := 0
  fills := []
  started := false
  cycle := 0
  phase := 0
  rate := Config.spanClockMHz
  stopped := false
  group := 0
  utlb := []
  preempted := none
  claimant := none
  led := false
  l1 := []
  icache := []
  pad := { stamp := 0, cells := [] }
  lost := .replicate 32 0
  timers := .replicate 8 (BitVec.allOnes 64)
  hmsg := .replicate 8 HostMsg.empty
  owners := .replicate 8 none

/-- What a record that is private to the device holds (R371, R383): saved vector entries, or a context with the facts
its restore checks; of a group leader also the kind tags of the tiles, the descriptors of the scratchpad's sectors, and the bytes and
descriptors of the B-store by offset (log 67). -/
inductive VaultRecord where
  | queue (entries : List VEntry)
  | context (thr : Thread) (poolcap : Nat) (leader : Bool) (tags : List TileTag) (sectors : List Sector)
      (bstore : List Host.Cell) (bsectors : NMap Sector)
  deriving DecidableEq, Repr

/-- What an invalidation waits for (R381): the thread whose write it is, and the accesses translated earlier through an entry
that it names: Truss entries, packets, threads with counter increments to make, and vector atomics whose elements are checked. -/
structure Inval where
  place : Place
  value : Word
  truss : List (Place × BitVec 16)
  packets : List Nat
  counters : List (Place × Nat)
  entries : List (Place × Nat)
  deriving DecidableEq, Repr

/-- A Causeway reserve of a die for one domain (R317): the request in its buffer, and the drained request whose response
uses its credit, by packet number. -/
structure Reserve where
  request : Option Nat
  credit : Option Nat
  deriving DecidableEq, Repr

/-- A communicator (R325). -/
structure Comm where
  valid : Bool
  err : Bool
  vc : BitVec 3
  chunk : BitVec 5
  nmem : BitVec 12
  rank : BitVec 12
  map : Word
  ctx : BitVec 16
  iseq : BitVec 32
  cseq : BitVec 32
  /-- How often the entry has become valid: collectives posted before keep their reservation (R325, the model's own count). -/
  epoch : Nat
  deriving DecidableEq, Repr

def Comm.reset : Comm where
  valid := false
  err := false
  vc := 0
  chunk := 16
  nmem := 0
  rank := 0
  map := 0
  ctx := 0
  iseq := 0
  cseq := 0
  epoch := 0

/-- The kinds of collective (R327). -/
inductive CollKind where
  | rs
  | ar
  | bc
  | ag
  | bar
  | barRt
  deriving DecidableEq, Repr

/-- What all members must agree on (R331, R336): kind, OP, WEXP, ROOT, E, format, and of the communicator NMEM, CHUNK and
the member map. -/
structure CollKey where
  kind : CollKind
  op : Nat
  wexp : Int
  root : Nat
  count : Nat
  fmt : BitVec 8
  nmem : Nat
  chunk : Nat
  members : List (BitVec 16)
  deriving DecidableEq, Repr

/-- The Abutment's sum for one element (R332, R436): the exact sum on the grid, of which the sum word with its guard bits holds the
140-bit pattern, or the extreme so far, the special values seen, the flags, and which ranks have contributed. -/
structure Sum where
  w : Int
  best : Option Nat
  nan : Bool
  pinf : Bool
  ninf : Bool
  flags : BitVec 5
  ranks : List Nat
  deriving DecidableEq, Repr

/-- Where a copied element came from: its sector's descriptor, the sector's number, and the byte in it (R290). -/
structure CopySource where
  fmt : BitVec 8
  scale : BitVec 8
  sector : Nat
  off : Nat
  deriving DecidableEq, Repr

/-- A collective posted on a die (R329, R333), with its progress. -/
structure Coll where
  comm : Nat
  seq : BitVec 32
  key : CollKey
  prio : Nat
  rank : Nat
  owner : ThreadId
  ctx : BitVec 16
  keysel : Nat
  epoch : Nat
  /-- Which instance of a collective it is, and the peers that have posted it: members that meet in one share the number (the model's
  own, log 50). -/
  inst : Nat
  joined : List Nat
  age : Nat
  view : ShapeReg
  ctr : Option Phys
  /-- The counter's address as the instruction gave it (R336). -/
  ctrVa : Word
  /-- The translations of the buffer, as issue resolved them (R329, R381). -/
  pages : List TlbEntry
  /-- The route table captured at issue (R338), the virtual channel of its communicator then (R325), and the tenant that its traffic is
  charged to (R391). -/
  table : Bool
  vc : BitVec 3
  tenant : BitVec 4
  /-- How many chunks of its own data, or barrier messages, it has sent. -/
  next : Nat
  /-- Results of `car` that its Abutment has formed and not sent: first element, codes, flags; how many parts it has sent. -/
  results : List (Nat × List Nat × BitVec 5)
  resultsSent : Nat
  /-- How many chunks of its shard it has granted credits for, and those for which it holds room (R326). -/
  nextGrant : Nat
  granted : List Nat
  /-- Credits that it has received: owner's rank and chunk. -/
  credits : List (Nat × Nat)
  /-- Elements that it has written, and of copied ones where they came from: by byte, of a bit-plane buffer by element (R81). -/
  written : Nat
  sources : NMap CopySource
  /-- Messages of this rank that are not acknowledged. -/
  unacked : List Nat
  /-- Ranks whose barrier arrival rank 0 has received; the release has reached this rank. -/
  arrived : List Nat
  released : Bool
  flags : BitVec 5
  sums : NMap Sum
  deriving DecidableEq, Repr

/-- A collective failure that a thread has still to receive (R336). -/
structure CollFailure where
  owner : ThreadId
  ctrVa : Word
  val : Word
  deriving DecidableEq, Repr

/-- What a collective message carries (R331, R336). -/
inductive CollBody where
  /-- Codes of a chunk from an element on, for the owner of those elements. -/
  | contribution (chunk first : Nat) (codes : List Nat)
  /-- Results from an element on: reduced, with their flags, or copied, with their sources. -/
  | result (first : Nat) (codes : List Nat) (src : List CopySource) (flags : BitVec 5)
  | credit (chunk : Nat)
  | arrival
  | release
  | failure (cause : Nat)
  /-- The acknowledgement of a message by its receiver. -/
  | ack
  deriving DecidableEq, Repr

/-- The detector of an input and channel, kept with the packet at its head (R313). -/
inductive Detector where
  | idle
  /-- Since this tick the head cannot advance. -/
  | watch (since : Nat)
  | flagged
  deriving DecidableEq, Repr

/-- Where a packet is (R309 to R313, R317). -/
structure Route where
  /-- The package and the die of the router that holds it; die 4 is the I/O die. -/
  node : Nat
  die : Nat
  /-- The input of that router: its port (a die of the package, 5 + plane at the I/O die; the own die's number for what is sent
  there) and its virtual channel (0 to 7 for collectives, 8 for requests, 9 for responses), and the packet's place in the
  order of arrivals (log 34). -/
  port : Nat
  vc : Nat
  seq : Nat
  /-- The plane that carries it to the package `node`, whose I/O die it has not reached, and the package that it left (R310,
  R324). -/
  flight : Option (Nat × Nat)
  /-- It was lost with the plane that carried it (R324). -/
  lost : Bool
  /-- The routers of this package it has entered, the packages it has entered, and XPKG (R309 to R311). -/
  hops : Nat
  pkgs : Nat
  xpkg : Bool
  det : Detector
  /-- It was drained: it travels on the Causeway, holding a token with its epoch and its domain, until sunk (R317). -/
  drained : Bool
  /-- Its request has left its input and waits at its home, until what it asks for is free (R359). -/
  waiting : Bool
  deriving DecidableEq, Repr

/-- A far member of a collective (R338): scale-out port, pod, node, die. -/
structure FarEnd where
  port : Nat
  pod : BitVec 16
  node : BitVec 10
  die : BitVec 2
  deriving DecidableEq, Repr

/-- A frame of a message to another pod that is not acknowledged: how often it was lost, and when it was last sent (R338). -/
structure Frame where
  lost : Nat
  sent : Nat
  deriving DecidableEq, Repr

/-- A collective message in flight (R308, R331): its sender's peer and rank, the peer that it goes to, and its way there; of a
message to another pod the far end and its frames, oldest first; of one from another pod the far end (R338). -/
structure CollMsg where
  id : Nat
  src : Nat
  dst : Nat
  route : Route
  far : Option FarEnd
  inbound : Bool
  frames : List Frame
  /-- The tick at which it was sent (R323); it has left the fabric and waits at its receiver for the collective that takes it (R326,
  log 50). -/
  sent : Nat
  sunk : Bool
  comm : Nat
  seq : BitVec 32
  inst : Nat
  key : CollKey
  /-- The tenant that it is charged to (R391). -/
  tenant : BitVec 4
  fromRank : Nat
  toRank : Nat
  body : CollBody
  deriving DecidableEq, Repr

/-- A sample of the sensors (R403): its tick, the power of each rail in W, and of each Pier the voltage in mV and the
temperature in °C. -/
structure Sample where
  tick : Nat
  rails : List Nat
  piers : List PierReading
  deriving DecidableEq, Repr

/-- A compute die. -/
structure Die where
  locked : Bool
  excluded : Bool
  /-- The tick since which its Spans start staggered: its lock, or its return from a capped idle state (R35). -/
  ramp : Option Nat
  /-- It is in a capped idle state (R7, R403). -/
  idle : Bool
  /-- The epoch of the package token that it saw last (R315). -/
  epoch : BitVec 16
  tlb : List TlbEntry
  window : NMap WinLine
  winFills : List Fill
  /-- The export table (R321). -/
  exports : NMap (BitVec 128)
  sets : NMap SetRec
  queue : NMap Launch
  accepted : Nat
  /-- The tick of the last Span start of each Pier (R351). -/
  pierStart : NMap Nat
  invals : List Inval
  /-- Claim words that a `claimt` holds (R359), with the place of its thread. -/
  claims : List (Nat × Place)
  /-- DETECT.TD and TIMEOUT (R314, R323), FLAGS and DRAINS (R318). -/
  td : BitVec 16
  timeout : BitVec 20
  flagCount : Word
  drainCount : Word
  reservePkg : Reserve
  reservePod : Reserve
  comms : NMap Comm
  colls : List Coll
  /-- Collectives that a fatal context error stopped, by instance: messages for them are discarded (R322). -/
  stoppedColls : List Nat
  /-- The communicator served last at each priority (R335). -/
  served : Vector (BitVec 6) 4
  collFailures : List CollFailure
  rtsel : Bool
  routes0 : NMap (BitVec 128)
  routes1 : NMap (BitVec 128)
  /-- The inactive route table was loaded since the last switch (R339). -/
  rtLoaded : Bool
  /-- Grants, by 128 · resource + 16 · class + tenant (R390). -/
  grants : NMap (BitVec 32)
  /-- Bytes charged in the budget period, by the same numbers (R390, R391). -/
  used : NMap Nat
  /-- The Span clock in MHz, the power cap in W, and the thermal hold (R7, R403). -/
  clock : Nat
  cap : Nat
  hold : Bool
  /-- The last sample (R403). -/
  sample : Option Sample
  deriving DecidableEq, Repr

def Reserve.free : Reserve := { request := none, credit := none }

def Die.reset : Die where
  locked := false
  excluded := false
  ramp := none
  idle := false
  epoch := 0
  tlb := []
  window := []
  winFills := []
  exports := []
  sets := []
  queue := []
  accepted := 1
  pierStart := []
  invals := []
  claims := []
  td := 2000
  timeout := 4000
  flagCount := 0
  drainCount := 0
  reservePkg := Reserve.free
  reservePod := Reserve.free
  comms := []
  colls := []
  stoppedColls := []
  served := .replicate 4 63
  collFailures := []
  rtsel := false
  routes0 := []
  routes1 := []
  rtLoaded := false
  grants := []
  used := []
  clock := Config.spanClockMHz
  cap := Config.dieCap
  hold := false
  sample := none

/-- Why a context ended (R322, R323, R370, R372, R373, R97, R201). -/
inductive FatalCause where
  | exportMiss
  | targetFault
  | lostResponse
  | kernelTrap
  | queueSave
  | queueRestore
  | memoryError
  | residue
  deriving DecidableEq, Repr

/-- The kind of an event-log entry (R399). -/
inductive LogCode where
  | drain
  | fatal (c : FatalCause)
  | residueRepeat
  | boot
  | link
  | thermal
  | firmware
  deriving DecidableEq, Repr

/-- The atomic operations that return nothing (R203, R213). -/
inductive AtomicOp where
  | add
  | and
  | or
  | xor
  | min
  | max
  | minu
  | maxu
  | fadd
  | fadds
  /-- On 32 bits. -/
  | addw
  deriving DecidableEq, Repr

/-- The value-returning operations (R203, R359): `claim` asks for at most n. -/
inductive FetchOp where
  | add (v : Word)
  | swap (v : Word)
  | cas (want new : Word)
  | claim (n : Nat)
  deriving DecidableEq, Repr

/-- What a packet carries (R312): of a request a load of n bytes, a load of a sector with its descriptor, of a window line (R189) or
an instruction line (R38), kept in a cache or not, a store of n bytes, of a sector with its descriptor, of n bytes that are part of a device record or not (R383), an
atomic with its operand, a value-returning operation, the two halves of a `claimt` around its record (R359), a register's read or
write of n bytes (R192); of a response data, an acknowledgement with the flags of R206, or a fault (R322). -/
inductive Cargo where
  | load (n : Nat)
  | sector
  | line (keep : Bool)
  | code (keep : Bool)
  | store (n v : Nat)
  | part (n v : Nat) (p : Option RecordPart)
  | put (data : BitVec 512) (fmt scale : BitVec 8)
  | atomic (op : AtomicOp) (v : Word)
  | fetch (op : FetchOp)
  | hold
  | release (next : Option Word)
  | reg (n : Nat) (v : Option Nat)
  | data (r : Reply)
  | ack (flags : BitVec 5)
  | fault (c : FatalCause)
  deriving DecidableEq, Repr

/-- The element of a vector register that a load is for (R210, R211): register, element, width in bits, mode. -/
structure ElemDest where
  reg : Nat
  elem : Nat
  sew : Nat
  long : Bool
  deriving DecidableEq, Repr

/-- A packet in flight (R309 to R312): the issuing thread, the location that its request reaches, and where it is. -/
structure Packet where
  id : Nat
  owner : ThreadId
  place : Place
  ctx : BitVec 16
  /-- Its place in the owner's program order, and the virtual addresses of its bytes (R226). -/
  age : Nat
  lo : Word
  len : Nat
  loc : Phys
  /-- The agent that sent it, and the register element that its data is for; the translation of its address (R381). -/
  agent : Agent
  dest : Option ElemDest
  /-- The element of its transfer (R299), and whether it is a synchronising access (R223). -/
  elem : Nat
  sync : Bool
  /-- The tenant that its traffic is charged to (R391). -/
  tenant : BitVec 4
  page : List TlbEntry
  cargo : Cargo
  /-- The tick at which its request was sent (R323). -/
  sent : Nat
  route : Route
  deriving DecidableEq, Repr

/-- An entry of the management event log (R399). -/
structure LogEntry where
  tick : Nat
  seq : BitVec 32
  code : LogCode
  peer : Nat
  /-- What the entry says beyond that, in the order of the rule that logs it; how its 16 bytes hold it is not given
  (log 28). -/
  data : List Nat
  deriving DecidableEq, Repr

/-- An entry of the host event queue (R396). -/
structure HostEvent where
  kind : Nat
  peer : Nat
  span : Nat
  slot : Nat
  value : Word
  deriving DecidableEq, Repr

/-- The boot order of a package (R34, R398). -/
inductive BootStage where
  | reset
  /-- Neither firmware slot verifies: only the management port runs. -/
  | heldInReset
  /-- HBM training is done; since this tick the dies' wavelengths lock. -/
  | locking (since : Nat)
  deriving DecidableEq, Repr

/-- A Keystone token (R315): epoch, where it is (a die 0 to 4, or a package), the packet that it drains, and the tick of
its last visit at the head of the ring. -/
structure Token where
  epoch : BitVec 16
  pos : Nat
  held : Option Nat
  visited : Nat
  deriving DecidableEq, Repr

def Token.reset (pos : Nat) : Token := { epoch := 0, pos := pos, held := none, visited := 0 }

/-- The states of a scale-out port (R341). -/
inductive PortState where
  | live
  | draining (since : Nat)
  | dark (since : Nat)
  | training (since : Nat)
  | verify (since : Nat)
  deriving DecidableEq, Repr

/-- A command of the fabric management queue (R340) with the thread that issued it. -/
structure Command where
  op : Nat
  target : Nat
  zero : Bool
  arg : Word
  ctr : Word
  inc : Word
  stat : Word
  place : Place
  /-- The command is executing on its port. -/
  active : Bool
  deriving DecidableEq, Repr

/-- A package. -/
structure Pkg where
  boot : BootStage
  /-- The management processor's firmware (R400): slots A and B, the booted slot, blown fuses. -/
  slotA : FwImage
  slotB : FwImage
  bootedB : Bool
  fuses : Nat
  /-- The last attestation report (R401). -/
  report : Option (BitVec 3360)
  /-- Key slots that hold a key, and those erased (R402). -/
  keys : NMap Key
  erased : List Nat
  /-- The package tokens, the next to move first: more than one after a reissue, until the older is discarded (R315). -/
  tokens : List Token
  /-- The epoch of the package token that the I/O die saw last, and of the pod token that the package saw last (R315). -/
  ioEpoch : BitVec 16
  podEpoch : BitVec 16
  /-- The tick of the last package reset, from which the host clock counts (R392); the host operating system has started (R34). -/
  bootTick : Nat
  hostUp : Bool
  /-- The host cores' shared cache (R394): its window lines, and the instruction lines of each core by 32 · line + core (log 94). -/
  hostLines : NMap WinLine
  hostCode : NMap Line
  ioFlags : Word
  ioDrains : Word
  ioReservePkg : Reserve
  ioReservePod : Reserve
  ports : NMap PortState
  commands : List Command
  /-- Cancels that have not reached their coordinator: handle and `ctxid` (R356). -/
  cancels : List (Word × BitVec 16)
  /-- Stations left out of routing (R324), and planes with the nodes that they do not reach. -/
  down : List Nat
  lost : List (Nat × Nat)
  log : List LogEntry
  logSeq : BitVec 32
  events : List HostEvent
  /-- Hardware entries that wait for room in the host event queue (R396). -/
  eventsWaiting : List HostEvent
  deriving DecidableEq, Repr

/-- What the two firmware slots hold as the part is delivered: an image of version 0 with an empty body that verifies; the
spec gives none (log 12). -/
def firstImage : FwImage where
  magic := 0x53583946574D0001
  length := 194
  version := 0
  zero := 0
  digest := 0xbec4b7b3ac2e294086b49a47491c82fcf692b5679d0105cb00f2c0d8ddc45dd72f76d56e64270cb5821bb862ea52cd3f24eb3e74eb3f3b23138da80b2bddb946
  signature := 0
  signed := true
  body := []

def Pkg.reset : Pkg where
  boot := .reset
  slotA := firstImage
  slotB := firstImage
  bootedB := false
  fuses := 0
  report := none
  keys := []
  erased := []
  tokens := [Token.reset 0]
  ioEpoch := 0
  podEpoch := 0
  bootTick := 0
  hostUp := false
  hostLines := []
  hostCode := []
  ioFlags := 0
  ioDrains := 0
  ioReservePkg := Reserve.free
  ioReservePod := Reserve.free
  ports := []
  commands := []
  cancels := []
  down := []
  lost := []
  log := []
  logSeq := 0
  events := []
  eventsWaiting := []

/-! ## Choices -/

/-- What moves at a step (logs 4, 5): what the model's own order gives; a step of the part or of the outside world, with
the thread that it acts on; the next instruction of a thread. -/
inductive Choice where
  | auto
  | event (who : Option Place) (i : Instr)
  | run (who : Place)
  deriving DecidableEq, Repr

/-- Which agent moves at a step and what timing and the outside world decide of it (log 4). Every field is plain data. -/
structure Turn where
  choice : Choice
  /-- Ticks that pass. -/
  ticks : Nat
  /-- The streams of the thread do not advance with this step. -/
  defer : Bool
  /-- L1, instruction-cache and window lines that replacement removes, by line number. -/
  evict : List Nat
  /-- The die's TLB entries are replaced. -/
  flushTlb : Bool
  /-- A load or an atomic of this step meets an uncorrectable memory error (R201, R296). -/
  memError : Bool
  /-- Adders of this step find that many residue mismatches in a row (R96, R97). -/
  residue : Nat
  /-- What fails at this step of booting (R398): dies whose HBM does not train, or the Span that starts. -/
  fails : List Nat
  /-- Dies that enter (true) or leave (false) a capped idle state with this step (R7, R35, R403). -/
  idle : List (Nat × Bool)
  /-- Lost reads that the lane groups of a Span count with this step: peer, Span, lane group, bank, how many (R147, log 19). -/
  lost : List (Nat × Nat × Nat × Nat × Nat)
  /-- Messages that frames from other pods bring to this pod with this step (R338, log 43). -/
  inbound : List CollMsg
  deriving DecidableEq, Repr

def Turn.default : Turn where
  choice := .auto
  ticks := 1
  defer := false
  evict := []
  flushTlb := false
  memError := false
  residue := 0
  fails := []
  idle := []
  lost := []
  inbound := []

/-! ## The machine -/

structure State where
  thr : Thread
  others : List Thread
  spans : NMap Span
  dies : NMap Die
  pkgs : NMap Pkg
  vault : NMap VaultRecord
  mem : List Host.Cell
  sectors : NMap Sector
  packets : List Packet
  messages : List CollMsg
  podTokens : List Token
  time : Nat
  /-- The tick at which the budget period began (R391). -/
  period : Nat
  fresh : Nat
  turn : Turn
  turns : List Turn
  deriving DecidableEq, Repr

/-- The reasons a step stops. -/
inductive Fault where
  /-- Raised by the meaning of one of the part's own steps (an event row) at a state in which the spec does not let that
  step occur. Safe: the hardware does not take the step there either. -/
  | notEnabled
  deriving DecidableEq, Repr

/-- The refusals. -/
inductive Refusal where
  /-- Raised by an arm of `exec` whose instruction has no meaning yet. Safe. -/
  | notModelled (mnemonic : String)
  deriving DecidableEq, Repr

/-- The pod right after reset (R34, R70, R81; logs 1 to 4). -/
def State.reset : State where
  thr := Thread.reset { peer := 0, span := 0, slot := 0 }
  others := []
  spans := []
  dies := []
  pkgs := []
  vault := []
  mem := []
  sectors := []
  packets := []
  messages := []
  podTokens := [Token.reset 0]
  time := 0
  period := 0
  fresh := 0
  turn := Turn.default
  turns := []

end Sys2Proof.Machine
end

