-- ==== Sys2Proof/Machine/Ops.lean ====
section
/-! DEFINITION. The named operations over the state: records by number, memory by fabric address with sectors and key
ids, page-table translation and the checks of an access, the ends of threads and contexts, taking a trap and returning
from one, and the frame in which every meaning runs. -/

namespace Sys2Proof.Machine

open Host (Cell Outcome)

/-! ## Records by number -/

/-- The record of a number, if it is listed. -/
def nget {α : Type} : NMap α → Nat → Option α
  | [], _ => none
  | (k, v) :: m, n => if n = k then some v else nget m n

/-- The list with the record of a number replaced or entered in its place. -/
def nset {α : Type} : NMap α → Nat → α → NMap α
  | [], n, x => [(n, x)]
  | (k, v) :: m, n, x =>
    if n = k then (n, x) :: m else if n < k then (n, x) :: (k, v) :: m else (k, v) :: nset m n x

/-- The list without the record of a number. -/
def ndel {α : Type} (m : NMap α) (n : Nat) : NMap α := m.filter fun e => e.1 != n

/-- Element n of a fixed-size file, or the given value beyond its end. -/
def vget {α : Type} {k : Nat} (v : Vector α k) (n : Nat) (dflt : α) : α := (v.toList[n]?).getD dflt

/-- A fixed-size file with element n replaced; a number beyond its end changes nothing. -/
def vset {α : Type} {k : Nat} (v : Vector α k) (n : Nat) (x : α) : Vector α k := v.setIfInBounds n x

/-- Bit j of a word becomes b. -/
def setBit {w : Nat} (x : BitVec w) (j : Nat) (b : Bool) : BitVec w :=
  if b then x ||| BitVec.twoPow w j else x &&& ~~~ BitVec.twoPow w j

/-! ## Cells of memory in canonical form -/

/-- The byte at an address. -/
def cellGet (dflt : Nat → Byte) : List Cell → Nat → Byte
  | [], n => dflt n
  | (k, v) :: m, n => if n = k then v else cellGet dflt m n

/-- Writes a byte; the value that an unlisted address reads as is not listed. -/
def cellSet (dflt : Nat → Byte) (m : List Cell) (n : Nat) (x : Byte) : List Cell :=
  if x = dflt n then ndel m n else nset m n x

/-- The canonical form: addresses strictly rise, and no entry equals what an unlisted address reads as. -/
def cellsWf (dflt : Nat → Byte) : List Cell → Bool
  | [] => true
  | [(k, v)] => decide (v ≠ dflt k)
  | (k, v) :: (k', v') :: m => decide (v ≠ dflt k) && decide (k < k') && cellsWf dflt ((k', v') :: m)

/-- What HBM and B-store bytes that nothing has written read as: zero as stored (R81). -/
def memDefault : Nat → Byte := fun _ => 0

/-- What a scratchpad byte that nothing has written reads as: zero after device clearing (R81), a free value after the
first dispatch of a launch (R350, log 8). -/
def padDefault (stamp : Nat) : Nat → Byte := fun off => if stamp = 0 then 0 else Config.padByte stamp off

/-! ## Fabric addresses (R16, R17, R308) -/

def fpaPeer (a : Nat) : Nat := a / 2 ^ 45
def fpaNode (a : Nat) : Nat := a / 2 ^ 47
def fpaDie (a : Nat) : Nat := a / 2 ^ 45 % 4
def fpaSystem (a : Nat) : Bool := a / 2 ^ 44 % 2 == 1
def fpaStack (a : Nat) : Nat := a / 2 ^ 42 % 4
def fpaHbmOffset (a : Nat) : Nat := a % 2 ^ 42
def fpaSpan (a : Nat) : Nat := a / 2 ^ 36 % 256
def fpaSub (a : Nat) : Nat := a / 2 ^ 32 % 16
def fpaOffset (a : Nat) : Nat := a % 2 ^ 32

/-- The FPA of an offset in a sub-region of a Span (R16). -/
def fpaOf (peer span sub off : Nat) : Nat := peer * 2 ^ 45 + 2 ^ 44 + span * 2 ^ 36 + sub * 2 ^ 32 + off

/-- The kinds of home (R224). -/
inductive HomeKind where
  | hbm
  | pad
  | bstore
  | mmio
  | absent
  deriving DecidableEq, Repr

/-- The home that the fields of an FPA name (R193). -/
def homeKind (a : Nat) : HomeKind :=
  if ! fpaSystem a then
    (if fpaStack a < 2 ∧ fpaHbmOffset a < 2 ^ 36 then .hbm else .absent)
  else if fpaSpan a < 192 then
    (if fpaSub a = 0 then .pad
     else if fpaSub a = 1 then (if fpaOffset a < 2 ^ 20 then .bstore else .absent)
     else if fpaSub a = 3 then .mmio else .absent)
  else if fpaSpan a = 192 ∧ fpaSub a = 3 then .mmio
  else .absent

/-- The address lies in the swap region of a B-store (R247). -/
def inSwap (off : Nat) : Bool := decide (0x1C000 ≤ off % 2 ^ 17)

/-- The address lies in the firmware region of its die (R379). -/
def inFirmware (a : Nat) : Bool :=
  homeKind a == .hbm && fpaStack a == 0 && decide (fpaHbmOffset a < Config.fwSize)

/-! ## Spans, dies, packages, threads -/

def spanKey (peer span : Nat) : Nat := peer * 256 + span

def spanOf (s : State) (peer span : Nat) : Span := (nget s.spans (spanKey peer span)).getD Span.reset
def setSpan (s : State) (peer span : Nat) (x : Span) : State := { s with spans := nset s.spans (spanKey peer span) x }
def modSpan (peer span : Nat) (f : Span → Span) (s : State) : State := setSpan s peer span (f (spanOf s peer span))

def dieOf (s : State) (peer : Nat) : Die := (nget s.dies peer).getD Die.reset
def setDie (s : State) (peer : Nat) (x : Die) : State := { s with dies := nset s.dies peer x }
def modDie (peer : Nat) (f : Die → Die) (s : State) : State := setDie s peer (f (dieOf s peer))

def pkgOf (s : State) (node : Nat) : Pkg := (nget s.pkgs node).getD Pkg.reset
def setPkg (s : State) (node : Nat) (x : Pkg) : State := { s with pkgs := nset s.pkgs node x }
def modPkg (node : Nat) (f : Pkg → Pkg) (s : State) : State := setPkg s node (f (pkgOf s node))

def myPeer (s : State) : Nat := s.thr.place.peer
def myNode (s : State) : Nat := s.thr.place.peer / 4
def mySpan (s : State) : Span := spanOf s s.thr.place.peer s.thr.place.span
def modMySpan (f : Span → Span) (s : State) : State := modSpan s.thr.place.peer s.thr.place.span f s
def myDie (s : State) : Die := dieOf s s.thr.place.peer

/-- Every thread, the current one first. -/
def allThreads (s : State) : List Thread := s.thr :: s.others

/-- Applies a change to every thread that meets a condition. -/
def modThreads (p : Thread → Bool) (f : Thread → Thread) (s : State) : State :=
  { s with thr := if p s.thr then f s.thr else s.thr, others := s.others.map fun t => if p t then f t else t }

/-- The thread that runs at a place. -/
def threadAt (s : State) (p : Place) : Option Thread :=
  (allThreads s).find? fun t => t.status == .running && t.place == p

/-- The state with the thread that runs at a place as the current one. -/
def focus (p : Place) (s : State) : Option State :=
  if s.thr.status = .running ∧ s.thr.place = p then some s
  else
    (s.others.find? fun t => t.status == .running && t.place == p).map fun t =>
      { s with
        thr := t
        others := s.thr :: s.others.filter fun u => ! (u.status == .running && u.place == p) }

def threadId (t : Thread) : ThreadId := (t.u.lid, t.u.tid)

/-- The partition word of a Span (R19, R20); none holds while no launch occupies it. -/
def partOf (x : Span) : BitVec 32 := match x.launch with | some (_, p) => p | none => 0

def partNctx (p : BitVec 32) : Nat := (p.extractLsb' 0 4).toNat
def partNtile (p : BitVec 32) : Nat := (p.extractLsb' 4 5).toNat

/-- A valid partition word (R21). -/
def partValid (p : BitVec 32) : Bool :=
  decide (partNctx p ≤ 8) && decide (partNtile p ≤ 16) && p.extractLsb' 9 23 == 0
    && decide (4 * (partNctx p + partNtile p) ≤ 64)

/-- The size of a Span's scratchpad in bytes (R22). -/
def padLimit (x : Span) : Nat := (x.poolcap - 4 * (partNctx (partOf x) + partNtile (partOf x))) * 16384

/-! ## Locations and requests (R190, R312) -/

/-- A location that an access may reach. -/
structure Ref where
  fpa : Nat
  key : Nat
  /-- Served by the read-only window lines of the local L2 (R190). -/
  win : Bool
  /-- The virtual address, and the leaf that translated it with whether it is that of a 512 MiB page. -/
  va : Word
  leaf : Option (Word × Bool)
  /-- A synchronising access (R223), which waits while a `claimt` holds its word (R360). -/
  sync : Bool := false
  deriving DecidableEq, Repr

/-- A request to another die that a reply answers: the location, the bytes that it touches from its address on, what it carries. -/
structure Request where
  ref : Ref
  len : Nat
  cargo : Cargo
  deriving DecidableEq, Repr

/-! ## The monad of a meaning -/

/-- How a meaning ends before its own end. -/
inductive Stop where
  /-- A precise trap of the scalar side: no effect of the instruction remains (R9, R63). -/
  | trap (cause : BitVec 8) (val : Word)
  /-- A trap whose named effects remain. -/
  | trapKeep (cause : BitVec 8) (val : Word)
  /-- The instruction waits (R99): it has not completed and executes again. -/
  | wait (w : Wait)
  /-- The instruction waits, and what it has done outside its thread stays. -/
  | waitKeep (w : Wait)
  /-- The instruction waits, and executes again from its start: the replies that it has got are used up. -/
  | waitDone (w : Wait)
  /-- A fatal context error with the target of the request (R322). -/
  | fatal (c : FatalCause) (target : Nat)
  /-- The access is a request to another die, whose reply has still to come (R312, log 46). -/
  | request (q : Request)
  /-- The part does not take this step of its own at this state. -/
  | absent
  deriving DecidableEq, Repr

/-- A meaning: reads and changes the state, and ends or stops. -/
abbrev Op (α : Type) : Type := EStateM Stop State α

def raise {α : Type} (e : Stop) : Op α := EStateM.throw e
def trapOp {α : Type} (cause : BitVec 8) (val : Word) : Op α := raise (.trap cause val)
def update (f : State → State) : Op Unit := EStateM.modifyGet fun s => ((), f s)
def read {α : Type} (f : State → α) : Op α := EStateM.modifyGet fun s => (f s, s)

/-- Goes on where the condition holds, and stops otherwise. -/
def require (p : Prop) [Decidable p] (e : Stop) : Op Unit := if p then pure () else raise e

/-- Goes on where the part may take the step. -/
def enabled (p : Prop) [Decidable p] : Op Unit := require p .absent

/-- The value of an option, or the stop. -/
def orStop {α : Type} (o : Option α) (e : Stop) : Op α :=
  match o with
  | some x => pure x
  | none => raise e

/-- Changes the current thread. -/
def modThr (f : Thread → Thread) : Op Unit := update fun s => { s with thr := f s.thr }

/-- Repeats an operation over a list. -/
def forEach {α : Type} : List α → (α → Op Unit) → Op Unit
  | [], _ => pure ()
  | x :: xs, f => do f x; forEach xs f

/-! ## Causes of traps (R72) -/

inductive Cause where
  | illegalInstruction
  | illegalOperand
  | mode
  | privilege
  | misaligned
  | translation
  | permission
  | order
  | window
  | format
  | transfer
  | missedPromise
  | matrix
  | deadlock
  | breakpoint
  | trapInstr
  | poolCapacity
  | collective
  | preEmpt
  | timer
  | transferMemory
  | hostMessage
  deriving DecidableEq, Repr

/-- The code of a cause. -/
def causeCode : Cause → BitVec 8
  | .illegalInstruction => 0x01
  | .illegalOperand => 0x02
  | .mode => 0x03
  | .privilege => 0x04
  | .misaligned => 0x05
  | .translation => 0x06
  | .permission => 0x07
  | .order => 0x08
  | .window => 0x09
  | .format => 0x0A
  | .transfer => 0x0B
  | .missedPromise => 0x0C
  | .matrix => 0x0D
  | .deadlock => 0x0E
  | .breakpoint => 0x0F
  | .trapInstr => 0x10
  | .poolCapacity => 0x11
  | .collective => 0x12
  | .preEmpt => 0x80
  | .timer => 0x81
  | .transferMemory => 0x82
  | .hostMessage => 0x83

def trapC {α : Type} (c : Cause) (val : Word) : Op α := trapOp (causeCode c) val

/-! ## Sectors and bytes (R78 to R83, R379) -/

def sectorOf (s : State) (sec : Nat) : Sector := (nget s.sectors sec).getD Sector.reset

/-- Sets a sector's record; a record at its reset value is not listed. -/
def setSector (s : State) (sec : Nat) (x : Sector) : State :=
  { s with sectors := if x = Sector.reset then ndel s.sectors sec else nset s.sectors sec x }

/-- The byte stored at an FPA, as its home holds it. -/
def storedByte (s : State) (a : Nat) : Byte :=
  if homeKind a = .pad then
    let p := (spanOf s (fpaPeer a) (fpaSpan a)).pad
    cellGet (padDefault p.stamp) p.cells (fpaOffset a)
  else cellGet memDefault s.mem a

/-- Places a byte at an FPA. -/
def placeByte (s : State) (a : Nat) (b : Byte) : State :=
  if homeKind a = .pad then
    modSpan (fpaPeer a) (fpaSpan a) (fun x =>
      { x with pad := { x.pad with cells := cellSet (padDefault x.pad.stamp) x.pad.cells (fpaOffset a) b } }) s
  else { s with mem := cellSet memDefault s.mem a b }

/-- Little-endian: byte f 0 is the least significant (R4). -/
def leNat (f : Nat → Byte) : Nat → Nat
  | 0 => 0
  | n + 1 => leNat f n + (f n).toNat * 2 ^ (8 * n)

/-- The 512 bits of a sector as stored. -/
def storedSector (s : State) (sec : Nat) : BitVec 512 := BitVec.ofNat 512 (leNat (fun i => storedByte s (64 * sec + i)) 64)

/-- The key of a key slot in the controllers of a package; one that was never loaded holds a key that is not known (R402, log
42). -/
def slotKeyOf (s : State) (node slot : Nat) : Key := (nget (pkgOf s node).keys slot).getD (Config.slotKey node slot)

/-- The cipher of an access under a key id: none for key id 0, and none where the home is not HBM (R379). -/
def cipherOf (s : State) (key a : Nat) : Option Key :=
  if homeKind a = .hbm ∧ key ≠ 0 then some (slotKeyOf s (fpaNode a) key) else none

/-- An access meets the cipher under which the sector was last written (R379). -/
def keyMatches (s : State) (key a : Nat) : Bool := (sectorOf s (a / 64)).key == cipherOf s key a

/-- What a sector's data is for an access under another cipher: deciphered from what the controller stored (R379). -/
def recipher (written reading : Option Key) (sector : Nat) (data : BitVec 512) : BitVec 512 :=
  let stored := match written with | some k => encipher k sector data | none => data
  match reading with | some k => decipher k sector stored | none => stored

/-- A sector as an access under a key id sees it. -/
def seenSector (s : State) (key sec : Nat) : BitVec 512 :=
  recipher (sectorOf s sec).key (cipherOf s key (64 * sec)) sec (storedSector s sec)

/-- The byte that an access under a key id reads (R379). -/
def memByte (s : State) (key a : Nat) : Byte :=
  if keyMatches s key a then storedByte s a else (seenSector s key (a / 64)).extractLsb' (8 * (a % 64)) 8

/-- Sector records in canonical form: numbers strictly rise, and no record stands at its reset value. -/
def sectorsWf : NMap Sector → Bool
  | [] => true
  | [(_, x)] => decide (x ≠ Sector.reset)
  | (k, x) :: (k', x') :: m => decide (x ≠ Sector.reset) && decide (k < k') && sectorsWf ((k', x') :: m)

/-- Memory is in its canonical form: HBM and B-stores, every listed scratchpad, and the sector records. -/
def Memory.wf (s : State) : Bool :=
  cellsWf memDefault s.mem && s.spans.all (fun x => cellsWf (padDefault x.2.pad.stamp) x.2.pad.cells) && sectorsWf s.sectors

/-- n bytes from an FPA, little-endian. -/
def memRead (s : State) (key a n : Nat) : Nat := leNat (fun i => memByte s key (a + i)) n

/-- Brings a sector under the key id of a write: the whole sector is deciphered and enciphered anew (R379). -/
def rekey (key sec : Nat) (s : State) : State :=
  if keyMatches s key (64 * sec) then s
  else
    let d := seenSector s key sec
    let s1 := (List.range 64).foldl (fun t i => placeByte t (64 * sec + i) (d.extractLsb' (8 * i) 8)) s
    setSector s1 sec { sectorOf s1 sec with key := cipherOf s key (64 * sec) }

/-- The descriptor of a sector after a plain write (R81); the write ends a device record. -/
def plainDescriptor (x : Sector) : Sector :=
  if x.fmt = 0x00 then { x with record := none }
  else if x.fmt = 0x04 ∨ x.fmt = 0x05 then { x with fmt := 0x00, scale := 127, record := none }
  else { x with fmt := 0xFF, scale := 0, record := none }

/-- A plain write touches a sector. -/
def touchPlain (key sec : Nat) (s : State) : State :=
  let s1 := rekey key sec s
  setSector s1 sec (plainDescriptor (sectorOf s1 sec))

/-- Places n bytes of a number, little-endian, without touching descriptors. -/
def placeBytes (a : Nat) : Nat → Nat → State → State
  | 0, _, s => s
  | n + 1, v, s => placeBytes (a + 1) n (v / 256) (placeByte s a (BitVec.ofNat 8 v))

/-- The sectors that n bytes at a touch. -/
def sectorsOf (a n : Nat) : List Nat :=
  if n = 0 then [] else (List.range ((a + n - 1) / 64 - a / 64 + 1)).map (a / 64 + ·)

/-- A plain write of n bytes (R81, R379). -/
def memWrite (key a n v : Nat) (s : State) : State :=
  placeBytes a n v ((sectorsOf a n).foldl (fun t sec => touchPlain key sec t) s)

/-- A formatted write of a whole sector with its descriptor, one access (R83). -/
def sectorWrite (key sec : Nat) (data : BitVec 512) (fmt scale : BitVec 8) (s : State) : State :=
  let s1 := placeBytes (64 * sec) 64 data.toNat s
  setSector s1 sec { fmt := fmt, scale := scale, key := cipherOf s key (64 * sec), bad := false, record := none }

/-- A sector's data is marked uncorrectable (R97). -/
def markBad (sec : Nat) (s : State) : State := setSector s sec { sectorOf s sec with bad := true }

/-! ## Copies away from the home (R188, R189, R38) -/

/-- Removes the lines of the current Span's L1 that n bytes at a touch, fills in flight included. -/
def l1Remove (a n : Nat) (s : State) : State :=
  modMySpan (fun x => { x with
    l1 := (sectorsOf a n).foldl ndel x.l1
    fills := x.fills.filter fun f => ! (sectorsOf a n).contains f.line }) s

/-- A store of the current Span updates the bytes of a line that the L1 holds, or that a fill brings. -/
def lineStore (d : BitVec 512) (line a n v : Nat) : BitVec 512 :=
  BitVec.ofNat 512 (leNat (fun i =>
    if a ≤ 64 * line + i ∧ 64 * line + i < a + n then byteOf v (64 * line + i - a) else d.extractLsb' (8 * i) 8) 64)

/-- A store of a Span reaches its L1 as it performs (R188). -/
def l1StoreAt (peer span a n v : Nat) (s : State) : State :=
  modSpan peer span (fun x => { x with
    l1 := x.l1.map fun (k, l) =>
      if (sectorsOf a n).contains k then (k, { l with data := lineStore l.data k a n v }) else (k, l)
    fills := x.fills.map fun f =>
      if (sectorsOf a n).contains f.line then { f with data := lineStore f.data f.line a n v } else f }) s

/-- A store of the current Span. -/
def l1Store (a n v : Nat) (s : State) : State := l1StoreAt (myPeer s) s.thr.place.span a n v s

/-- An L1 line is installed: 128 KiB in 64-byte lines, eight ways (R188). DESIGN CHOICE
(logs 39, 92): a line's set is its number mod 256, and a full set gives up its lowest line. -/
def l1Install (line : Nat) (x : Line) (l1 : NMap Line) : NMap Line :=
  let set := l1.filter fun e => e.1 % 256 == line % 256 && e.1 != line
  nset (match set with | e :: _ => if set.length < 8 then l1 else ndel l1 e.1 | [] => l1) line x

/-- An instruction line is installed: 64 KiB in 64-byte lines (R12, R14). A full cache gives up its lowest line (log 39). -/
def icacheInstall (line : Nat) (x : Line) (c : NMap Line) : NMap Line :=
  nset (if (nget c line).isSome || decide (c.length < 1024) then c else c.tail) line x

/-- A window line is installed: the L2 holds 256 MiB in lines of four sectors (R189). With every line in use, the lowest goes
(log 39). -/
def windowInstall (sec : Nat) (x : WinLine) (w : NMap WinLine) : NMap WinLine :=
  let held := (w.map fun e => e.1 / 4).eraseDups
  let room := held.contains (sec / 4) || decide (held.length < 2 ^ 20)
  nset (match held with | l :: _ => if room then w else w.filter fun e => e.1 / 4 != l | [] => w) sec x

/-- Every line of the current Span's L1 data cache is removed; fills in flight will not be installed (R188). -/
def l1Clear (s : State) : State := modMySpan (fun x => { x with l1 := [], fills := [] }) s

/-- Lines that requests of some agents bring will not be installed: window lines, or instruction lines. -/
def keepNoLines (code : Bool) (p : Packet → Bool) (s : State) : State :=
  { s with packets := s.packets.map fun x => if p x then { x with cargo := dropped x.cargo } else x }
where
  /-- The request serves its access alone. -/
  dropped : Cargo → Cargo
    | .line keep => .line (keep && code)
    | .code keep => .code (keep && ! code)
    | c => c

/-- Every window line of the current die is removed; fills in flight will not be installed (R189). -/
def windowClear (s : State) : State :=
  modDie (myPeer s) (fun d => { d with window := [], winFills := [] })
    (keepNoLines false (fun x => x.place.peer == myPeer s && x.place.span != hostSpan) s)

/-! ## Translation (R197, R377, R378) -/

def pteV (p : Word) : Bool := p.getLsbD 0
def pteR (p : Word) : Bool := p.getLsbD 1
def pteW (p : Word) : Bool := p.getLsbD 2
def pteX (p : Word) : Bool := p.getLsbD 3
def pteU (p : Word) : Bool := p.getLsbD 4
def ptePinned (p : Word) : Bool := p.getLsbD 5
def pteSync (p : Word) : Bool := p.getLsbD 6
def pteWindow (p : Word) : Bool := p.getLsbD 7
def pteGlobal (p : Word) : Bool := p.getLsbD 8
def pteFpa (p : Word) : Nat := (p.extractLsb' 16 41).toNat * 2 ^ 16
def pteKeyHi (p : Word) : Nat := (p.extractLsb' 57 7).toNat

/-- The peer whose tables a walk reads (R377): the walker's own die; a host core's is die 0 of its package (R394), which counts as its
own for the pinned bit too (R320; DEDUCED, log 98). -/
def walkPeer (t : Thread) : Nat := if t.host then t.place.peer / 4 * 4 else t.place.peer

/-- An entry of a table, read on the walker's die; none where the table is not populated HBM inside the firmware region
(R377, R379). -/
def tableEntry (s : State) (table idx : Nat) : Option Word :=
  let a := walkPeer s.thr * 2 ^ 45 + table % 2 ^ 45 + 8 * idx
  if inFirmware a ∧ table % 2 ^ 16 = 0 then some (BitVec.ofNat 64 (memRead s 0 a 8)) else none

/-- A leaf that the walk accepts (R377). -/
def leafOk (p : Word) (large : Bool) : Bool :=
  p.extractLsb' 9 7 == 0 && ! (pteW p && ! pteR p) && ! (pteWindow p && pteW p)
    && (! large || p.extractLsb' 16 13 == 0)

/-- One level of the walk: a pointer goes on, a leaf ends it, none is *translation fault*. -/
def isPointer (p : Word) : Bool := ! pteR p && ! pteW p && ! pteX p

/-- The walk of three levels (R377): the leaf and whether it is a 512 MiB page. -/
def walk (s : State) (va : Nat) : Option (Word × Bool) :=
  match tableEntry s (pteFpa s.thr.k.ptbr) (va / 2 ^ 42 % 8192) with
  | none => none
  | some p0 =>
    if ! pteV p0 || ! isPointer p0 || p0.extractLsb' 9 7 != 0 then none
    else match tableEntry s (pteFpa p0) (va / 2 ^ 29 % 8192) with
      | none => none
      | some p1 =>
        if ! pteV p1 then none
        else if ! isPointer p1 then (if leafOk p1 true then some (p1, true) else none)
        else if p1.extractLsb' 9 7 != 0 then none
        else match tableEntry s (pteFpa p1) (va / 2 ^ 16 % 8192) with
          | none => none
          | some p2 => if pteV p2 && ! isPointer p2 && leafOk p2 false then some (p2, false) else none

/-- A TLB entry serves an address of a context (R378). -/
def tlbHit (va : Nat) (ctx : BitVec 16) (e : TlbEntry) : Bool :=
  (pteGlobal e.pte || e.ctx == ctx) && (if e.large then e.vpn / 2 ^ 13 == va / 2 ^ 29 else e.vpn == va / 2 ^ 16)

/-- What an address translates to: an offset in the local window, or a leaf. -/
inductive Xlat where
  | window (off : Nat)
  | page (pte : Word) (large : Bool)
  deriving DecidableEq, Repr

/-- The base and the size of the local window (R191). -/
def windowBase : Nat := 0x7FF00000000000
def inWindow (va : Nat) : Bool := decide (windowBase ≤ va ∧ va < windowBase + 0x80000000)

/-- The translations that the current thread's Span holds: its micro-TLB, backed by the die's TLB (R197). -/
def tlbOf (s : State) : List TlbEntry := (mySpan s).utlb ++ (myDie s).tlb

/-- A translation enters the micro-TLB, of 64 entries, and with a walk the die's TLB, of 32,768; the oldest leaves (R197, log 39). -/
def fillUtlb (e : TlbEntry) (s : State) : State :=
  if (mySpan s).utlb.contains e then s else modMySpan (fun x => { x with utlb := (e :: x.utlb).take 64 }) s
def fillTlb (e : TlbEntry) (s : State) : State :=
  fillUtlb e (modDie (myPeer s) (fun d => { d with tlb := (e :: d.tlb).take 32768 }) s)

/-- For whom the current thread makes accesses: as a rule its scalar side, at the end of its program order. -/
def actingOf (t : Thread) : Acting :=
  t.acting.getD { agent := .scalar, age := t.issued, elem := 0, replies := t.replies, pages := t.pages }

/-- The instruction of the agent keeps a page that it has translated (R197). -/
def keepPage (e : TlbEntry) (t : Thread) : Thread :=
  if (actingOf t).pages.contains e then t
  else match t.acting with
    | none => { t with pages := t.pages ++ [e] }
    | some a => { t with acting := some { a with pages := a.pages ++ [e] } }

/-- The leaf through which a context reaches an address. -/
def leafEntry (va : Word) (ctx : BitVec 16) (x : Word × Bool) : TlbEntry := ⟨va.toNat / 2 ^ 16, x.2, ctx, x.1⟩

/-- Translates an address for the current thread: by a page that its instruction has translated before, through its Span's
micro-TLB and the die's TLB, or by a walk that fills both (R197).
A host core has no local window (R394) and walks. An address outside the 55-bit space is a *translation fault* (R208, log 20). -/
def translate (va : Word) : Op Xlat := do
  let t ← read (·.thr)
  if inWindow va.toNat then
    if t.host then trapC .permission va else pure (.window (va.toNat - windowBase))
  else if 2 ^ 55 ≤ va.toNat then trapC .translation va
  else
    match (actingOf t).pages.find? (tlbHit va.toNat t.k.ctxid) with
    | some e => pure (.page e.pte e.large)
    | none =>
      let tlb ← read fun s => if t.host then [] else tlbOf s
      match tlb.find? (tlbHit va.toNat t.k.ctxid) with
      | some e => do
        update (fillUtlb e)
        pure (.page e.pte e.large)
      | none =>
        match ← read (walk · va.toNat) with
        | none => trapC .translation va
        | some (p, large) => do
          update fun s => if t.host then s else fillTlb (leafEntry va t.k.ctxid (p, large)) s
          pure (.page p large)

/-- The page of a translated address stays with the instruction of the agent. -/
def keepLeaf (va : Word) : Xlat → Op Unit
  | .window _ => pure ()
  | .page p large => modThr fun t => keepPage (leafEntry va t.k.ctxid (p, large)) t

/-- The translation of an address. -/
def pinnedEntry (va : Word) : Op (List TlbEntry) := do
  match ← translate va with
  | .window _ => pure []
  | .page p large => read fun s => [leafEntry va s.thr.k.ctxid (p, large)]

/-- What an access asks for: the rights it needs, whether it is a fetch, whether the system region's MMIO may serve it,
and whether it is of a kind that a read-only window page denies (R62, R190, R192, R367). -/
structure Acc where
  rd : Bool
  wr : Bool
  ex : Bool
  mmio : Bool
  denyWindow : Bool
  deriving DecidableEq, Repr

def Acc.fetch : Acc := ⟨false, false, true, false, false⟩
def Acc.load : Acc := ⟨true, false, false, false, false⟩
def Acc.store : Acc := ⟨false, true, false, false, true⟩
def Acc.atomic : Acc := ⟨true, true, false, false, true⟩
/-- The synchronising loads and sum-word reads of major 0x16. -/
def Acc.syncLoad : Acc := ⟨true, false, false, false, true⟩
/-- The scalar loads and stores of majors 0x14 and 0x15, which MMIO serves at 4 and 8 bytes. -/
def Acc.scalarLoad (n : Nat) : Acc := ⟨true, false, false, n == 4 || n == 8, false⟩
def Acc.scalarStore (n : Nat) : Acc := ⟨false, true, false, n == 4 || n == 8, true⟩



/-- Rights of a leaf (R367, R378): user mode needs U; a kernel-mode fetch needs U clear, a kernel-mode data access
ignores U. Every window address is readable, writable and not executable (R191). -/
def rightsOk (acc : Acc) (km : Bool) : Xlat → Bool
  | .window _ => ! acc.ex
  | .page p _ =>
    (! acc.rd || pteR p) && (! acc.wr || pteW p) && (! acc.ex || pteX p)
      && (if km then ! acc.ex || ! pteU p else pteU p)

/-- A package's station of a plane is left out of routing: it failed its training, or its plane does not reach some node (R324). -/
def planeOut (s : State) (node plane : Nat) : Bool :=
  (pkgOf s node).down.contains plane || (pkgOf s node).lost.any fun x => x.1 == plane

/-- A plane carries packets from a package to another: neither station is left out (R310, R324). -/
def planeUsable (s : State) (node plane dst : Nat) : Bool :=
  decide (plane < 64 ∧ dst < Config.podNodes ∧ dst ≠ node) && ! planeOut s node plane && ! planeOut s dst plane

/-- A node is in the pod and reachable on some plane (R193, R324). -/
def reachable (s : State) (src dst : Nat) : Bool := src == dst || (List.range 64).any fun p => planeUsable s src p dst

/-- A register takes the access (R192, R380, R395): TLBINV and the I/O die's registers take 8-byte accesses only. DESIGN CHOICE (log
86): offsets 0x8000_0000 and up take no access on dies 1 to 3, of which R395 says nothing. -/
def mmioTakes (a n : Nat) : Bool :=
  if fpaSpan a = 192 then (decide (fpaOffset a < 2 ^ 31) || (fpaDie a == 0 && n == 8))
  else ! (fpaOffset a / 8 == 0x400 / 8) || n == 8

/-- The key slot of an access is erased at the controllers of its home's package (R402). -/
def keyErased (s : State) (key a : Nat) : Bool := homeKind a == .hbm && (pkgOf s (fpaNode a)).erased.contains key

/-- The location that an access of n bytes reaches, or none where R190 to R193, R247, R320 or R379 deny it. -/
def locate (s : State) (acc : Acc) (n : Nat) (va : Nat) : Xlat → Option Ref
  | .window off =>
    let x := mySpan s
    let ref (a : Nat) : Ref := { fpa := a, key := 0, win := false, va := BitVec.ofNat 64 va, leaf := none }
    if off < 2 ^ 20 then
      (if off + n ≤ padLimit x then some (ref (fpaOf (myPeer s) s.thr.place.span 0 off)) else none)
    else if 0x40000000 ≤ off ∧ off + n ≤ 0x40000000 + 2 ^ 20 ∧ ! inSwap (off - 0x40000000) then
      some (ref (fpaOf (myPeer s) s.thr.place.span 1 (off - 0x40000000)))
    else none
  | .page p large =>
    let a := pteFpa p + (if large then va % 2 ^ 29 else va % 2 ^ 16)
    let own := fpaPeer a == walkPeer s.thr
    let mine := own && ! s.thr.host
    let k := s.thr.k.keysel.toNat * 128 + pteKeyHi p
    let ref (key : Nat) (win : Bool) : Ref :=
      { fpa := a, key := key, win := win, va := BitVec.ofNat 64 va, leaf := some (p, large) }
    if ! own && ! ptePinned p then none
    else if ! reachable s (myNode s) (fpaNode a) then none
    else if pteWindow p && ! mine && acc.denyWindow then none
    else match homeKind a with
      | .hbm =>
        if (k = 0 ∧ ! inFirmware a) ∨ keyErased s k a then none
        else some (ref k (pteWindow p && ! mine))
      | .pad => if mine && decide (padLimit (spanOf s (fpaPeer a) (fpaSpan a)) < fpaOffset a + n) then none
                else some (ref 0 (pteWindow p && ! mine))
      | .bstore => if inSwap (fpaOffset a) then none else some (ref 0 (pteWindow p && ! mine))
      | .mmio => if acc.mmio && mmioTakes a n then some (ref 0 false) else none
      | .absent => none

/-- The checks of an access of n bytes at va with a given alignment (R62, R198, R203): alignment, translation, rights,
the sync-page rule where it applies, then the rules of where the access goes. -/
def checkAccess (acc : Acc) (km : Bool) (align n : Nat) (sync : Bool) (va : Word) : Op Ref := do
  require (va.toNat % align = 0) (.trap (causeCode .misaligned) va)
  let x ← translate va
  require (rightsOk acc km x = true) (.trap (causeCode .permission) va)
  require (sync = false ∨ (match x with | .window _ => false | .page p _ => pteSync p) = true)
    (.trap (causeCode .order) va)
  let r ← orStop (← read fun s => locate s acc n va.toNat x) (.trap (causeCode .permission) va)
  if acc.ex then pure () else keepLeaf va x
  pure r

/-- The checks of an access of n bytes, aligned to its size. -/
def access (acc : Acc) (km : Bool) (n : Nat) (va : Word) : Op Ref := checkAccess acc km n n false va

/-! ## Performing at the home -/

/-- The kinds that an export entry allows (R321). -/
inductive ReqKind where
  | load
  | store
  | atomic
  deriving DecidableEq, Repr

/-- A valid export entry lets a request pass (R321). -/
def exportAllows (e : BitVec 128) (k : ReqKind) (peer : Nat) (ctx : BitVec 16) (a n : Nat) : Bool :=
  e.getLsbD 0 && (match k with | .load => e.getLsbD 1 | .store => e.getLsbD 2 | .atomic => e.getLsbD 3)
    && (e.getLsbD 16 || (e.extractLsb' 4 12).toNat == peer) && e.extractLsb' 32 16 == ctx
    && decide ((e.extractLsb' 64 29).toNat * 2 ^ 16 ≤ a % 2 ^ 45
      ∧ a % 2 ^ 45 + n ≤ ((e.extractLsb' 64 29).toNat + (e.extractLsb' 96 32).toNat) * 2 ^ 16)

/-- The place is a host core's. -/
def isHostPlace (p : Place) : Bool := p.span == hostSpan

/-- Where a request from another die fails at its target (R200, R321): a miss in the export table, or beyond the target
Span's scratchpad. Requests of the die's own Spans, and of host cores (R394), meet no export table. -/
def targetFault (s : State) (k : ReqKind) (peer : Nat) (host : Bool) (ctx : BitVec 16) (a n : Nat) : Option FatalCause :=
  if ! host && fpaPeer a != peer && ! ((dieOf s (fpaPeer a)).exports.any fun e => exportAllows e.2 k peer ctx a n) then
    some .exportMiss
  else if (host ∨ fpaPeer a ≠ peer) ∧ homeKind a = .pad ∧ padLimit (spanOf s (fpaPeer a) (fpaSpan a)) < fpaOffset a + n then
    some .targetFault
  else none

/-- A load or an atomic of n bytes meets an uncorrectable error: this turn brings one, or its data are so marked (R97, R201). -/
def memoryBad (s : State) (k : ReqKind) (a n : Nat) : Bool :=
  k != .store && homeKind a != .mmio && (s.turn.memError || (sectorsOf a n).any fun sec => (sectorOf s sec).bad)

/-- An access of the current thread performs at a home on its own die: an uncorrectable memory error of a load or an atomic is a fatal
context error (R201). -/
def arrive (k : ReqKind) (a n : Nat) : Op Unit := do
  match ← read fun s => targetFault s k (myPeer s) s.thr.host s.thr.k.ctxid a n with
  | some c => raise (.fatal c a)
  | none =>
    let bad ← read fun s => memoryBad s k a n
    require (bad = false) (.fatal .memoryError a)

/-! ## Words that a `claimt` holds (R360) -/

/-- Some other thread's `claimt` holds a claim word that n bytes at an address touch. -/
def heldWord (s : State) (p : Place) (a n : Nat) : Bool :=
  (dieOf s (fpaPeer a)).claims.any fun x => x.2 != p && decide (a < x.1 + 16 ∧ x.1 < a + n)

/-- An atomic or a synchronising access of the current thread waits at the home for the word to be released. -/
def notHeld (a n : Nat) : Op Unit := do
  let held ← read fun s => heldWord s s.thr.place a n
  require (held = false) (.wait .other)

/-- A thread's `claimt` holds a word at its home, or holds it no more. -/
def holdWord (a : Nat) (p : Place) (s : State) : State :=
  modDie (fpaPeer a) (fun d => { d with claims := d.claims.filter (fun x => x.1 != a || x.2 != p) ++ [(a, p)] }) s
def freeWord (a : Nat) (p : Place) (s : State) : State :=
  modDie (fpaPeer a) (fun d => { d with claims := d.claims.filter fun x => x.1 != a || x.2 != p }) s

/-- What a thread keeps at homes while its instruction is not complete goes: words that its `claimt` holds, and invalidations that its
store waits for (R360, R375). -/
def dropClaims (p : Place) (s : State) : State :=
  if s.dies.any fun d => d.2.claims.any (·.2 == p) || d.2.invals.any (·.place == p) then
    { s with dies := s.dies.map fun d => (d.1, { d.2 with
        claims := d.2.claims.filter (·.2 != p), invals := d.2.invals.filter (·.place != p) }) }
  else s

/-! ## Requests to other dies (R307, R312) -/

/-- The access leaves its issuer's die: its home is on another die, or the issuer is a host core, to which every home is remote
(R394). -/
def isRemote (s : State) (a : Nat) : Bool := s.thr.host || fpaPeer a != myPeer s

/-- The packet is a request or a response of the thread. -/
def ownPacket (t : Thread) (p : Packet) : Bool := p.owner == threadId t && p.place == t.place

/-- A packet that starts at a router: on the input of the die itself (R308, R313). -/
def Route.start (node die vc seq : Nat) : Route where
  node := node
  die := die
  port := die
  vc := vc
  seq := seq
  flight := none
  lost := false
  hops := 0
  pkgs := 0
  xpkg := false
  det := .idle
  drained := false
  waiting := false

/-- The virtual channels of requests and of responses (R308, log 34). -/
def requestChannel : Nat := 8
def responseChannel : Nat := 9

/-- The router of a package at which a place's packets start and end: its die's, or the I/O die's for a host core (R308). -/
def placeDie (p : Place) : Nat := if isHostPlace p then 4 else p.peer % 4

/-- The translation through which a context reached a location. -/
def Ref.page (r : Ref) (ctx : BitVec 16) : List TlbEntry := r.leaf.toList.map fun x => leafEntry r.va ctx x

/-- Sends a request to another die (R312): it stays in the thread's interlock until acknowledged (R226). -/
def sendPacket (r : Ref) (n : Nat) (dest : Option ElemDest) (c : Cargo) (s : State) : State :=
  let t := s.thr
  let a := actingOf t
  { s with
    fresh := s.fresh + 1
    thr := if a.agent = .scalar then { t with issued := t.issued + 1 } else t
    packets := s.packets ++ [{
      id := s.fresh, owner := threadId t, place := t.place, ctx := t.k.ctxid, age := a.age, lo := r.va, len := n,
      loc := ⟨r.fpa, r.key⟩, agent := a.agent, dest := dest, elem := a.elem, sync := r.sync, tenant := t.k.ktenant,
      page := r.page t.k.ctxid, cargo := c, sent := s.time,
      route := Route.start (myNode s) (placeDie t.place) requestChannel s.fresh }] }

/-- The replies that an agent has got. -/
def setReplies (l : List Reply) (t : Thread) : Thread :=
  match t.acting with
  | none => { t with replies := l }
  | some a => { t with acting := some { a with replies := l } }

/-- Takes the oldest reply that has come for a location, to a fetch of instructions or to another access. -/
def takeReply (code : Bool) (loc : Nat) : Op (Option Reply) := do
  let l ← read fun s => (actingOf s.thr).replies
  match l.find? fun x => x.loc == loc && x.code == code with
  | some x => do
    modThr (setReplies (l.eraseP fun x => x.loc == loc && x.code == code))
    pure (some x)
  | none => pure none

/-- A request for data that has not performed. -/
def isRead (p : Packet) : Bool := match p.cargo with | .load _ | .sector => true | _ => false

/-- An older load of overlapping bytes by the vector stream, or what counts as part of it (R223), has still to perform on another
die: loads of one agent return values in coherence order (R225). -/
def readsOut (s : State) (a n : Nat) : Bool :=
  let x := actingOf s.thr
  x.agent != .scalar && s.packets.any fun p =>
    ownPacket s.thr p && p.agent != .scalar && decide (p.age ≤ x.age) && isRead p
      && decide (a < p.loc.fpa + p.len ∧ p.loc.fpa < a + n)

/-- A load from another die waits for such loads. -/
def waitReads (a n : Nat) : Op Unit := do
  let out ← read (readsOut · a n)
  require (out = false) (.wait .other)

/-- The reply to a request: one that has come, else the request is to be sent. -/
def ask (r : Ref) (n : Nat) (c : Cargo) : Op Reply := do
  match ← takeReply false r.fpa with
  | some x => pure x
  | none => do
    waitReads r.fpa n
    raise (.request ⟨r, n, c⟩)

/-- Accesses made for another agent of the thread than its scalar side. -/
def actFor {α : Type} (a : Acting) (m : Op α) : Op α := fun s =>
  match m { s with thr := { s.thr with acting := some a } } with
  | .ok x s' => .ok x { s' with thr := { s'.thr with acting := s.thr.acting } }
  | .error e s' => .error e { s' with thr := { s'.thr with acting := s.thr.acting } }

/-- The packet brings, or has still to bring, a reply to an agent. -/
def bringsReply (p : Packet) : Bool :=
  p.dest.isNone && (match p.cargo with
    | .load _ | .sector | .line _ | .code _ | .fetch _ | .hold | .release _ | .reg .. | .data _ | .fault _ => true
    | .store .. | .put .. | .part .. | .atomic .. | .ack _ => false)

/-- An agent of the current thread has a request out that a reply answers. -/
def asking (s : State) (a : Agent) : Bool := s.packets.any fun p => ownPacket s.thr p && p.agent == a && bringsReply p

/-- An agent of the current thread sends its request, unless it has one out. -/
def sendRequest (a : Acting) (q : Request) (s : State) : State :=
  if asking s a.agent then s
  else
    let s1 := sendPacket q.ref q.len none q.cargo { s with thr := { s.thr with acting := some a } }
    { s1 with thr := { s1.thr with acting := s.thr.acting, issued := s.thr.issued } }

/-! ## Window lines (R189, R190, R394) -/

/-- A fill as the line that it brings. -/
def Fill.toLine (f : Fill) : WinLine := { data := f.data, fmt := f.fmt, scale := f.scale, key := f.key }

/-- A reply as the line that it brings. -/
def Reply.toLine (x : Reply) (key : Nat) : WinLine :=
  { data := BitVec.ofNat 512 x.val, fmt := x.fmt, scale := x.scale, key := key }

/-- The window line of a sector under a key id that an agent holds, or that a fill in flight brings it: a read of that sector joins the
fill (R189, R225, log 39). A host core has its package's shared cache (R394). -/
def windowHeld (s : State) (sec key : Nat) : Option WinLine :=
  ((if s.thr.host then nget (pkgOf s (myNode s)).hostLines sec
    else match nget (myDie s).window sec with
      | some l => some l
      | none => ((myDie s).winFills.find? fun f => f.line == sec).map Fill.toLine)).filter fun l => l.key == key

/-- The shared cache of host cores holds 32 MiB of lines; with no room the lowest window line goes, or else the lowest instruction
line (R394, log 39). -/
def hostRoom (p : Pkg) : Pkg :=
  if p.hostLines.length + p.hostCode.length < 2 ^ 19 then p
  else if p.hostLines = [] then { p with hostCode := p.hostCode.tail } else { p with hostLines := p.hostLines.tail }

/-- A window line read at its owner is on its way to a place's die, and takes the place of the one that the die holds; the host cores'
shared cache takes it at once. -/
def windowFill (p : Place) (sec : Nat) (l : WinLine) (s : State) : State :=
  if isHostPlace p then modPkg (p.peer / 4) (fun k =>
      let k1 := hostRoom { k with hostLines := ndel k.hostLines sec }
      { k1 with hostLines := nset k1.hostLines sec l }) s
  else modDie p.peer (fun d => { d with
    window := ndel d.window sec
    winFills := (d.winFills.filter fun f => f.line != sec) ++ [⟨sec, l.data, l.fmt, l.scale, l.key⟩] }) s

/-- The location of the sector that holds another. -/
def Ref.sector (r : Ref) : Ref := { r with fpa := r.fpa / 64 * 64, va := r.va - BitVec.ofNat 64 (r.fpa % 64) }

/-- The window line of an address: what its own request has brought, the held one, or the owner's sector (R189, R190). -/
def windowRead (r : Ref) : Op WinLine := do
  match ← takeReply false (r.fpa / 64 * 64) with
  | some x => pure (x.toLine r.key)
  | none => orStop (← read fun s => windowHeld s (r.fpa / 64) r.key) (.request ⟨r.sector, 64, .line true⟩)

/-! ## Reads and writes of bytes -/

/-- A synchronising access finds its word not held. -/
def freeOfHold (r : Ref) (n : Nat) : Op Unit := if r.sync then notHeld r.fpa n else pure ()

/-- A read of n bytes within one sector at the home, or through a window line. -/
def loadRef (r : Ref) (n : Nat) : Op Nat := do
  if r.win then
    let l ← windowRead r
    pure (l.data.toNat / 2 ^ (8 * (r.fpa % 64)) % 2 ^ (8 * n))
  else if ← read (isRemote · r.fpa) then do
    let x ← ask r n (.load n)
    pure x.val
  else do
    freeOfHold r n
    arrive .load r.fpa n
    read fun s => memRead s r.key r.fpa n

/-- A plain write of n bytes at the home: there at once, or as a request. -/
def storeRef (r : Ref) (n v : Nat) : Op Unit := do
  if ← read (isRemote · r.fpa) then update (sendPacket r n none (.store n v))
  else do
    freeOfHold r n
    arrive .store r.fpa n
    update (memWrite r.key r.fpa n v)

/-! ## The event log and the host event queue (R396, R399) -/

/-- Enters an event in a package's log, a ring of 2,048 entries. -/
def logEvent (node : Nat) (code : LogCode) (peer : Nat) (data : List Nat) (s : State) : State :=
  modPkg node (fun p => { p with
    log := (p.log ++ [(⟨s.time, p.logSeq, code, peer, data⟩ : LogEntry)]).drop (p.log.length + 1 - 2048)
    logSeq := p.logSeq + 1 }) s

/-- A hardware entry of the host event queue, which waits for room while the queue is full. -/
def hostEvent (node : Nat) (e : HostEvent) (s : State) : State :=
  modPkg node (fun p =>
    if p.events.length < 256 ∧ p.eventsWaiting = [] then { p with events := p.events ++ [e] }
    else { p with eventsWaiting := p.eventsWaiting ++ [e] }) s

/-! ## Sets (R362, R363) -/

/-- A generation is in progress: some member has arrived. -/
def setInProgress (r : SetRec) : Bool := r.arrived != []

/-- A member leaves a set: its leaving counts as arrival, and an empty set is destroyed. -/
def setLeave (id : ThreadId) (r : SetRec) : SetRec :=
  { r with
    members := r.members.filter (· != id)
    arrived := r.arrived.filter (· != id)
    departing := r.departing.filter (· != id) }

/-- A thread leaves every set of its die. -/
def leaveSets (peer : Nat) (id : ThreadId) (s : State) : State :=
  modDie peer (fun d => { d with
    sets := (d.sets.map fun (k, r) => (k, setLeave id r)).filter fun (_, r) => r.members != [] }) s

/-! ## The ends of threads, launches and contexts -/

/-- The fields of a launch handle (R345). -/
def handleEntry (h : Word) : Nat := (h.extractLsb' 0 10).toNat
def handleDie (h : Word) : Nat := (h.extractLsb' 10 2).toNat
def handleGen (h : Word) : Nat := (h.extractLsb' 16 48).toNat
def handleOf (entry die gen : Nat) : Word := BitVec.ofNat 64 (entry + die * 1024 + gen * 65536)

/-- The live entry that a handle names in a package. -/
def launchOf (s : State) (node : Nat) (h : Word) : Option Launch :=
  match nget (dieOf s (node * 4 + handleDie h)).queue (handleEntry h) with
  | some l => if l.gen = handleGen h ∧ h.extractLsb' 12 4 = 0 ∧ h ≠ 0 then some l else none
  | none => none

/-- Changes the live entry that a handle names. -/
def modLaunch (node : Nat) (h : Word) (f : Launch → Launch) (s : State) : State :=
  match launchOf s node h with
  | some l => modDie (node * 4 + handleDie h) (fun d => { d with queue := nset d.queue (handleEntry h) (f l) }) s
  | none => s

/-- Threads run on a Span. -/
def spanBusy (s : State) (peer span : Nat) : Bool :=
  (allThreads s).any fun t => t.status == .running && ! t.host && t.place.peer == peer && t.place.span == span

/-- A Span that no thread runs on is free: no launch occupies it. -/
def freeSpan (peer span : Nat) (s : State) : State :=
  if spanBusy s peer span then s
  else modSpan peer span (fun x => { x with launch := none, waiters := [], preempted := none, claimant := none }) s

/-- A thread with nothing left in its streams, its lane groups and its context given up (R132). -/
def endedThread (t : Thread) : Thread :=
  { t with status := .ended, wait := none, loop := none, yielded := none, replies := [], pages := [], saving := none,
           acting := none, tq := [], tr := [],
           v := { t.v with long := none, lg := 0, vq := [], nbq := [], outs := [], parked := [], held := none } }

/-- The thread's occupancy of its slot ends; what its launch keeps of it is for the caller to say. -/
def vacate (p : Thread → Bool) (s : State) : State :=
  let gone := (allThreads s).filter p
  let s1 := modThreads p endedThread s
  let s2 := gone.foldl (fun u t => modSpan t.place.peer t.place.span (fun x =>
    { x with waiters := x.waiters.filter fun w => w.1 != t.place.slot }) u) s1
  gone.foldl (fun u t => freeSpan t.place.peer t.place.span (dropClaims t.place u)) s2

/-- A pending host message of a slot whose thread ends is discarded (R397). -/
def dropMessage (p : Place) (s : State) : State :=
  modSpan p.peer p.span (fun x =>
    { x with hmsg := vset x.hmsg p.slot HostMsg.empty }) s

/-- Terminates the running threads that meet a condition (R356, R387): no further instruction, their sets left, their
transfers cancelled; performed accesses remain. -/
def terminate (p : Thread → Bool) (s : State) : State :=
  let gone := (allThreads s).filter fun t => p t && t.status == .running
  let s1 := gone.foldl (fun u t => leaveSets t.place.peer (threadId t) u) s
  let s2 := gone.foldl (fun u t => modLaunch (t.place.peer / 4) t.u.lid
    (fun l => { l with live := l.live.filter (· != t.u.tid) }) (dropMessage t.place u)) s1
  vacate (fun t => p t && t.status == .running) s2

/-- Every launch handle of a die whose entry meets a condition. -/
def launchesWhere (s : State) (peer : Nat) (p : Launch → Bool) : List Word :=
  ((dieOf s peer).queue.filter fun e => p e.2).map fun e => handleOf e.1 (peer % 4) e.2.gen

/-- The posted collectives of a context on a die stop, and issue nothing further (R322). -/
def stopColls (peer : Nat) (ctx : BitVec 16) (s : State) : State :=
  modDie peer (fun d => { d with
    colls := d.colls.filter (·.ctx != ctx)
    stoppedColls := d.stoppedColls ++ (d.colls.filter (·.ctx == ctx)).map (·.inst) }) s

/-- The number under which the event log holds a cause (log 28). -/
def fatalNumber : FatalCause → Nat
  | .exportMiss => 0
  | .targetFault => 1
  | .lostResponse => 2
  | .kernelTrap => 3
  | .queueSave => 4
  | .queueRestore => 5
  | .memoryError => 6
  | .residue => 7

/-- The cause is that of a request, which has a target (R322). -/
def hasTarget : FatalCause → Bool
  | .exportMiss | .targetFault | .lostResponse | .memoryError | .residue => true
  | .kernelTrap | .queueSave | .queueRestore => false

/-- The saved threads of a launch leave their sets, and the launch keeps none of them (R356, R363). -/
def dropSaved (node : Nat) (h : Word) (s : State) : State :=
  match launchOf s node h with
  | some l => modLaunch node h (fun l => { l with saved := [] })
      (l.saved.foldl (fun u x => leaveSets x.peer (h, x.tid) u) s)
  | none => s

/-- Nothing of a launch is placed or dispatched any more, and its saved contexts are discarded. -/
def stopLaunch (node : Nat) (h : Word) (f : Launch → Launch) (s : State) : State :=
  modLaunch node h (fun l => f { l with stopped := true, chosen := [] }) (dropSaved node h s)

/-- A fatal context error of a context whose source is a die (R322): its threads and collectives there end; its launches that
have a thread there, saved ones included (log 32), or whose coordinator is that die fail, and end everywhere; the error is
logged in the package of the source and, where the cause has a target in another package, in that one; and it is reported to
the host. -/
def fatalContext (c : FatalCause) (peer : Nat) (ctx : BitVec 16) (who : Option Place) (target : Nat) (s : State) : State :=
  let node := peer / 4
  let here : Thread → Bool := fun t => ! t.host && t.place.peer == peer && t.k.ctxid == ctx
  let savedHere (l : Launch) : Bool := l.ctx.ctxid == ctx && l.saved.any fun x => x.peer == peer
  let lids := (((allThreads s).filter fun t => here t && t.status == .running).map fun t => t.u.lid)
    ++ (launchesWhere s peer fun l => l.ctx.ctxid == ctx)
    ++ (List.range 4).flatMap fun d => launchesWhere s (4 * node + d) savedHere
  let s1 := lids.foldl (fun u h => stopLaunch node h (fun l => { l with failed := true }) u) s
  let s2 := stopColls peer ctx (terminate (fun t => here t || (! t.host && t.place.peer / 4 == node && lids.contains t.u.lid)) s1)
  let data : List Nat := [fatalNumber c, ctx.toNat, target]
  let seq := (pkgOf s2 node).logSeq
  let s3 := logEvent node (.fatal c) peer data s2
  let s4 := if fpaNode target ≠ node ∧ hasTarget c then logEvent (fpaNode target) (.fatal c) peer data s3 else s3
  let w : Place := who.getD ⟨peer, 0, 0⟩
  hostEvent node ⟨1, w.peer, w.span, w.slot, BitVec.ofNat 64 (seq.toNat + ctx.toNat * 2 ^ 32)⟩ s4

/-- A fatal context error of the current thread. -/
def fatalHere (c : FatalCause) (target : Nat) (s : State) : State :=
  fatalContext c (myPeer s) s.thr.k.ctxid (some s.thr.place) target s

/-! ## Taking a trap (R370, R371) -/

/-- The block of a place (R371). -/
def vqBlock (base : Word) (p : Place) : Word :=
  base + BitVec.ofNat 64 (8192 * (8 * (192 * (p.peer % 4) + p.span) + p.slot))

/-- A write of n bytes within a sector after which the sector is that part of a device record, or none (R371, R383). -/
def partWrite (key a n v : Nat) (p : Option RecordPart) (s : State) : State :=
  let s1 := memWrite key a n v s
  setSector s1 (a / 64) { sectorOf s1 (a / 64) with record := p }

/-- Such a write as a store of the current thread. -/
def storePart (r : Ref) (n v : Nat) (p : Option RecordPart) : Op Unit := do
  if ← read (isRemote · r.fpa) then update (sendPacket r n none (.part n v p))
  else do
    arrive .store r.fpa n
    update (partWrite r.key r.fpa n v p)

/-- Writes n bytes of a device record, from its sector `base` on, at an address as kernel-mode stores; each sector keeps which
part of the record it is. -/
def recordWrite (stamp base : Nat) (va : Word) (n : Nat) : Op Unit :=
  forEach (List.range (n / 8)) fun i => do
    let r ← access .store true 8 (va + BitVec.ofNat 64 (8 * i))
    storePart r 8 (leNat (fun j => Config.recordByte stamp (64 * base + 8 * i + j)) 8) (some ⟨stamp, base + i / 8⟩)

/-- The first sector of a record's scalars (R371). -/
def scalarPart : Nat := 64

/-- The page of a block is pinned and maps the die's own memory (R371). -/
def blockPage (va : Word) : Op Unit := do
  match ← translate va with
  | .window _ => raise (.fatal .queueSave 0)
  | .page p _ =>
    let own ← read fun s => fpaPeer (pteFpa p) == myPeer s
    require ((ptePinned p && own) = true) (.fatal .queueSave 0)

/-- The entries fit a vector queue and its block (R371). -/
def fitsBlock (es : List VEntry) : Bool := decide (es.length ≤ 64 ∧ (es.map (·.nscal)).sum ≤ 256)

/-- Stores the thread's vector entries into the block at `kvq` and empties the queue; a failure of any kind is a fatal
context error with cause "queue save". -/
def saveQueue (s : State) : Option State :=
  let es := s.thr.v.vq
  let stamp := s.fresh
  let body : Op Unit := do
    blockPage s.thr.k.kvq
    recordWrite stamp 0 (s.thr.k.kvq + 0x800) (64 * es.length)
    recordWrite stamp scalarPart (s.thr.k.kvq + 0x1800) (8 * (es.map (·.nscal)).sum)
    update fun u => { u with
      vault := nset u.vault stamp (.queue es), fresh := stamp + 1,
      thr := { u.thr with v := { u.thr.v with vq := [], parked := u.thr.v.parked ++ es.map fun e => ⟨e, u.thr.issued⟩ } } }
  if es = [] then some s
  else if fitsBlock es = false then none
  else match body s with
    | .ok _ s' => some s'
    | .error _ _ => none

/-- The address at which a trap enters: `ktvec`; on a host core the entry that system firmware fixed (R392, log 13). -/
def trapEntry (t : Thread) : Word :=
  if t.host then Config.hostEntry (t.place.peer / 4) t.place.slot else t.k.ktvec

/-- The registers of a thread that takes a trap (R370, R135), n vector entries having been saved. A running loop is
left to `lctl` (R284). DEDUCED (log 72): `kepc` is the address of the oldest scalar instruction that has not completed (R103, R370,
R376), also where a repeated entry is interrupted, of which R186 says that it is the prefix's: the saved entry resumes from the
queue. -/
def enterTrap (cause : BitVec 8) (val : Word) (n : Nat) (vkm : Bool) (t : Thread) : Thread :=
  { t with
    pc := trapEntry t
    wait := none
    loop := none
    replies := []
    pages := []
    saving := none
    u := { t.u with vtype := 0x003 }
    k := { t.k with
      kepc := t.pc, kcause := cause, kval := val, vqn := n, vkm := vkm, pkm := t.k.km, pie := t.k.ie, km := true,
      ie := false, ne := false, saved := false, pvt := t.u.vtype,
      ip0 := if cause = 0x80 then false else t.k.ip0 } }

/-- A thread that a trap or an interrupt takes out of a wait for lane groups leaves the list of waiters; one that waits for an
invalidation will begin it anew; and a `claimt` in progress releases its word (R132, R360, R375). -/
def leaveWaiters (s0 : State) : State :=
  let s := dropClaims s0.thr.place s0
  if s.thr.wait = some .longMode then
    modMySpan (fun x => { x with waiters := x.waiters.filter fun w => w.1 != s.thr.place.slot }) s
  else s

/-- Taking a trap or an interrupt (R370): `stream` says that the vector stream raised it. A synchronous trap in kernel
mode with NE = 0 is a fatal context error (R372). -/
def takeTrap (stream : Bool) (cause : BitVec 8) (val : Word) (s : State) : State :=
  let t := s.thr
  if t.k.km && ! t.k.ne && decide (cause.toNat < 0x80) && ! t.host then fatalHere .kernelTrap 0 s
  else if stream || cause == 0x80 then
    let n := t.v.vq.length
    let vkm := match t.v.vq with | e :: _ => e.kernel | [] => false
    match saveQueue s with
    | none => fatalHere .queueSave 0 s
    | some s' => { leaveWaiters s' with thr := enterTrap cause val n vkm s'.thr }
  else { leaveWaiters s with thr := enterTrap cause val 0 t.k.vkm t }

/-! ## Returning (R373) -/

/-- The part of a record that an access to a sector sees: none under a key id other than that of its last write, under which it
reads wrong data (R379). -/
def seenRecord (s : State) (key a : Nat) : Option RecordPart :=
  if keyMatches s key a then (sectorOf s (a / 64)).record else none

/-- n bytes as a load sees them, with the part of a record that their sector is. -/
def loadPart (r : Ref) (n : Nat) : Op (Nat × Option RecordPart) := do
  if ← read (isRemote · r.fpa) then do
    let x ← ask r n (.load n)
    pure (x.val, x.record)
  else do
    arrive .load r.fpa n
    read fun s => (memRead s r.key r.fpa n, seenRecord s r.key r.fpa)

/-- The record of which such n bytes are part `index`: the one that their sector carries, else the newest record whose bytes they
equal (R371, log 9). -/
def recordOf (s : State) (x : Nat × Option RecordPart) (n index : Nat) : Option Nat :=
  match x.2 with
  | some p => if p.index = index then some p.stamp else none
  | none => ((s.vault.map Prod.fst).reverse).find? fun stamp =>
      decide (x.1 = leNat (fun j => Config.recordByte stamp (64 * index + j)) n)

/-- The vector entries that a record holds. -/
def vaultQueue (s : State) (stamp : Nat) : List VEntry :=
  match nget s.vault stamp with | some (.queue es) => es | _ => []

/-- The bytes at a kernel address are part `index` of a record. -/
def checkPart (stamp index n : Nat) (va : Word) : Op Unit := do
  let r ← access .load true 8 va
  let x ← loadPart r n
  let st ← read fun s => recordOf s x n index
  require (st = some stamp) (.fatal .queueRestore r.fpa)

/-- The sectors of a block's scalars that belong to entry j of a record: with the bytes of each that the save wrote. -/
def scalarSectors (es : List VEntry) (j : Nat) : List (Nat × Nat) :=
  let lo := 8 * ((es.take j).map (·.nscal)).sum
  let n := 8 * ((es[j]?).map (·.nscal)).getD 0
  let total := 8 * (es.map (·.nscal)).sum
  (sectorsOf lo n).map fun k => (k, min 64 (total - 64 * k))

/-- Verifies record j of the block at `kvq` with its scalars, and reads it back. -/
def restoreEntry (kvq : Word) (j : Nat) : Op VEntry := do
  let va := kvq + BitVec.ofNat 64 (0x800 + 64 * j)
  let r ← access .load true 64 va
  let x ← loadPart r 64
  let bad : Stop := .fatal .queueRestore r.fpa
  let st ← orStop (← read fun s => recordOf s x 64 j) bad
  let es ← read (vaultQueue · st)
  let e ← orStop es[j]? bad
  forEach (scalarSectors es j) fun x =>
    checkPart st (scalarPart + x.1) x.2 (kvq + BitVec.ofNat 64 (0x1800 + 64 * x.1))
  pure e

/-- Verifies and reads back records one after the other. -/
def restoreEntries (kvq : Word) : List Nat → Op (List VEntry)
  | [] => pure []
  | j :: js => do
    let e ← restoreEntry kvq j
    let es ← restoreEntries kvq js
    pure (e :: es)

/-- Reads back the VQN entries of the block at `kvq`; a failed check is a fatal context error (R373). -/
def restoreQueue : Op (List VEntry) := do
  let k ← read fun s => s.thr.k
  restoreEntries k.kvq (List.range k.vqn)

/-- The entries that traps have saved and that the thread has still not enqueued again: none once it is back in user mode. -/
def stillParked (es : List VEntry) (t : Thread) : List Parked :=
  if t.k.pkm then t.v.parked.filter fun x => ! es.any fun e => e.age == x.entry.age else []

/-- The registers of a thread that returns (R373), and the entries that it enqueues; a held trap is taken at the boundary that follows (R104). -/
def leaveTrap (es : List VEntry) (t : Thread) : Thread :=
  { t with
    pc := t.k.kepc
    wait := none
    replies := []
    pages := []
    u := { t.u with vtype := t.k.pvt }
    k := { t.k with km := t.k.pkm, ie := t.k.pie, vqn := 0 }
    tr := t.tr.map fun x => { x with held := false }
    v := { t.v with vq := t.v.vq ++ es, parked := stillParked es t } }

/-! ## The frame of a meaning -/

/-- The address of the instruction in execution: in a running loop that of the body word (R281). -/
def ownPc (t : Thread) : Word :=
  match t.loop with
  | none => t.pc
  | some _ => t.pc + 4 * ((t.u.lctl.extractLsb' 21 4).zeroExtend 64 + 1)

/-- The fields of `lctl` (R283). -/
def lctlLen (l : BitVec 26) : Nat := (l.extractLsb' 0 4).toNat
def lctlTs (l : BitVec 26) : BitVec 4 := l.extractLsb' 4 4
def lctlNmask (l : BitVec 26) : BitVec 13 := l.extractLsb' 8 13
def lctlPos (l : BitVec 26) : Nat := (l.extractLsb' 21 4).toNat
def lctlActive (l : BitVec 26) : Bool := l.getLsbD 25
def lctlOf (len ts : BitVec 4) (nm : BitVec 13) (pos : Nat) : BitVec 26 :=
  1#1 ++ BitVec.ofNat 4 pos ++ nm ++ ts ++ len

/-- The fields of a shape register (R276). -/
def shapeBase (t : ShapeReg) : Word := t.extractLsb' 0 64
def shapeExt (t : ShapeReg) (d : Nat) : Nat := (t.extractLsb' (64 * d + 64) 16).toNat
def shapeStr (t : ShapeReg) (d : Nat) : Int := (t.extractLsb' (64 * d + 80) 48).toInt
def shapeFmt (t : ShapeReg) : BitVec 8 := t.extractLsb' 448 8
def shapeSeed (t : ShapeReg) : BitVec 24 := t.extractLsb' 456 24
def shapeOrgO (t : ShapeReg) : BitVec 16 := t.extractLsb' 480 16
def shapeOrgI (t : ShapeReg) : BitVec 16 := t.extractLsb' 496 16

/-- The loop indices after one step of the nest, dimension 0 fastest, and whether every one has returned to 0 (R281). -/
def advanceNest (t : ShapeReg) (li : Vector (BitVec 16) 6) : Vector (BitVec 16) 6 × Bool :=
  (List.range 6).foldl (fun (acc : Vector (BitVec 16) 6 × Bool) d =>
    if acc.2 then
      let n := (vget acc.1 d 0).toNat + 1
      if n < shapeExt t d then (vset acc.1 d (BitVec.ofNat 16 n), false) else (vset acc.1 d 0, true)
    else acc) (li, true)

/-- The thread after a body word of its loop has completed (R281, R283). -/
def retireBody (t : Thread) (nest : ShapeReg) : Thread :=
  let l := t.u.lctl
  if lctlPos l < lctlLen l then
    { t with u := { t.u with lctl := lctlOf (l.extractLsb' 0 4) (lctlTs l) (lctlNmask l) (lctlPos l + 1) } }
  else
    let r := advanceNest nest t.u.li
    if r.2 then
      { t with pc := t.pc + BitVec.ofNat 64 (4 * (lctlLen l + 2)), loop := none,
               u := { t.u with li := r.1, lctl := 0 } }
    else { t with u := { t.u with li := r.1, lctl := lctlOf (l.extractLsb' 0 4) (lctlTs l) (lctlNmask l) 0 } }

/-- The instruction completes and the thread goes on at the next word, or within its loop. -/
def retire (t : Thread) : Thread :=
  match t.loop with
  | none => { t with pc := t.pc + 4, wait := none, replies := [], pages := [] }
  | some l => { retireBody t l.nest with wait := none, replies := [], pages := [] }

/-- The wait of a thread whose instruction has left the queues as they were: a pop that finds no further value notes how many there
were before it. -/
def waitOf (t : Thread) : Wait → Wait
  | .popEmpty q _ => .popEmpty q (vget t.sc.queues q []).length
  | w => w

/-- The thread waits at its instruction (R99). -/
def park (w : Wait) (s : State) : State := { s with thr := { s.thr with wait := some (waitOf s.thr w) } }

/-- The thread waits for the reply to a request of its instruction, which keeps the pages that it has translated (R197), and what it
holds at homes (R360). -/
def parkRequest (q : Request) (s' s : State) : State :=
  park .other (sendRequest (actingOf s.thr) q { s with thr := { s.thr with pages := s'.thr.pages }, dies := s'.dies })

/-- The outcome of a meaning at a state: a precise trap is taken at the state before the instruction. -/
def finish (m : Op Unit) (s : State) : Outcome State Fault Refusal :=
  match m s with
  | .ok _ s' => .next s'
  | .error (.trap c v) _ => .next (takeTrap false c v s)
  | .error (.trapKeep c v) s' => .next (takeTrap false c v s')
  | .error (.wait w) _ => .next (park w s)
  | .error (.waitKeep w) s' => .next (park w { s' with thr := s.thr })
  | .error (.waitDone w) _ => .next (park w { s with thr := { s.thr with replies := [], pages := [] } })
  | .error (.fatal c a) s' => .next (fatalHere c a s')
  | .error (.request q) s' => .next (parkRequest q s' s)
  | .error .absent _ => .fault .notEnabled

end Sys2Proof.Machine
end

