-- ==== Sys2Proof/Machine/Operands.lean ====
section
/-! DEFINITION. What register fields name (R41 to R46), reading and writing scalar registers with the queues, and the
checks before a word performs (R47). -/

namespace Sys2Proof.Machine

/-! ## Legal field values -/

/-- A source field of a scalar-side instruction: any value but q4 and q5 (R42, R114). -/
def srcS (f : BitVec 7) : Bool := f != 124#7 && f != 125#7

/-- A destination field of a scalar-side instruction: s0 to s119, q4, q5. -/
def dstS (f : BitVec 7) : Bool := decide (f.toNat < 120) || f == 124#7 || f == 125#7

/-- A scalar source field of a vector-stream instruction: s0 to s119, q4, q5. -/
def srcV (f : BitVec 7) : Bool := dstS f

/-- A destination field that returns a scalar from the vector stream: q0 to q3. -/
def dstQ (f : BitVec 7) : Bool := decide (120 ≤ f.toNat ∧ f.toNat ≤ 123)

/-- A scalar field of a Truss instruction: s0 to s119. -/
def srcT (f : BitVec 7) : Bool := decide (f.toNat < 120)

/-- A vector register field: v0 to v47 (R43). -/
def vregF (f : BitVec 7) : Bool := decide (f.toNat < 48)

/-- A vector source field that may be a broadcast scalar: v0 to v47, or s0 to s63 by 64 to 127 (R43). -/
def vopF (f : BitVec 7) : Bool := decide (f.toNat < 48) || decide (64 ≤ f.toNat)

/-- A mask field of format R: m0 to m11 (R44). -/
def maskF (f : BitVec 7) : Bool := decide (f.toNat < 12)

/-- A shape number in a 7-bit field (R45). -/
def shapeF (f : BitVec 7) : Bool := decide (f.toNat < 16)

/-- The pair rb, rb+1 of `acas` (R46, R202). -/
def pairS (f : BitVec 7) : Bool := decide (1 ≤ f.toNat ∧ f.toNat < 119) && f != 7#7

/-- An accumulator number below NTILE of the thread's partition word (R45). -/
def tileF (t : Thread) (n : Nat) : Bool := decide (n < partNtile t.u.part)

/-! ## Scalar registers (R41, R105, R109) -/

/-- The value of a scalar field 0 to 119. -/
def scalar (t : Thread) (f : BitVec 7) : Word :=
  if f = 0#7 then 0
  else if f.toNat < 8 then vget t.sc.globals f.toNat 0
  else vget t.sc.win (t.sc.wb + f.toNat - 8) 0

/-- The queue that a field value 120 to 127 names. -/
def queueOf (f : BitVec 7) : Nat := f.toNat - 120

def queueAt (t : Thread) (q : Nat) : List Word := vget t.sc.queues q []

def setQueue (q : Nat) (l : List Word) (t : Thread) : Thread :=
  { t with sc := { t.sc with queues := vset t.sc.queues q l } }

/-- Writes a scalar register 0 to 119; a write to s0 is discarded (R114). -/
def setScalar (f : BitVec 7) (v : Word) (t : Thread) : Thread :=
  if f = 0#7 then t
  else if f.toNat < 8 then { t with sc := { t.sc with globals := vset t.sc.globals f.toNat v } }
  else { t with sc := { t.sc with win := vset t.sc.win (t.sc.wb + f.toNat - 8) v } }

/-- Reads a source field: a queue is popped, and an empty one is waited for (R42, R105). -/
def readS (f : BitVec 7) : Op Word := do
  let t ← read (·.thr)
  if f.toNat < 120 then pure (scalar t f)
  else match queueAt t (queueOf f) with
    | [] => raise (.wait (.popEmpty (queueOf f) 0))
    | v :: rest => do
      modThr (setQueue (queueOf f) rest)
      pure v

/-- Writes a destination field: a queue is pushed, and a full one is waited for (R42, R105). -/
def writeS (f : BitVec 7) (v : Word) : Op Unit := do
  let t ← read (·.thr)
  if f.toNat < 120 then modThr (setScalar f v)
  else
    require ((queueAt t (queueOf f)).length < 16) (.wait (.pushFull (queueOf f)))
    modThr (setQueue (queueOf f) (queueAt t (queueOf f) ++ [v]))

/-- A destination queue has room before the instruction makes its access (R99). -/
def roomFor (f : BitVec 7) : Op Unit := do
  let t ← read (·.thr)
  require (f.toNat < 120 ∨ (queueAt t (queueOf f)).length < 16) (.wait (.pushFull (queueOf f)))

/-! ## Checks before a word performs (R47, R392) -/

/-- The failing word as `kval`. -/
def wordVal (i : Instr) : Word := (encode i).setWidth 64

/-- The major opcode of an instruction's word. -/
def majorOf (i : Instr) : Nat := (fldMajor (encode i)).toNat

/-- The words a host core executes (R392). -/
def hostExecutes (i : Instr) : Bool :=
  match i with
  | .eret | .brk | .l1inv | .halt | .xfmq _ | .waitge _ _ | .waitt _ | .launch _ _ | .cancel _ => true
  | _ => decide (1 ≤ majorOf i ∧ majorOf i ≤ 0x1C) && majorOf i != 0x1A && majorOf i != 0x09

/-- Steps 2 to 4 of R47, in order, for a decoded word: privilege, mode, operand fields. A word that a host core does not
execute is an illegal instruction there. -/
def checkWord (i : Instr) (privileged longOnly operands : Bool) : Op Unit := do
  let t ← read (·.thr)
  require ((! t.host || hostExecutes i) = true) (.trap (causeCode .illegalInstruction) (wordVal i))
  require ((! privileged || t.k.km) = true) (.trap (causeCode .privilege) (wordVal i))
  require ((! longOnly || t.v.long.isSome) = true) (.trap (causeCode .mode) (wordVal i))
  require (operands = true) (.trap (causeCode .illegalOperand) (wordVal i))

/-- A scalar-side instruction: its checks, its effect, and the step to the next word. -/
def scalarOp (i : Instr) (operands : Bool) (body : Op Unit) (s : State) : Host.Outcome State Fault Refusal :=
  finish (do checkWord i false false operands; body; modThr retire) s

/-- rd ← f ra rb. -/
def binaryOp (i : Instr) (rd ra rb : BitVec 7) (f : Word → Word → Word) (s : State) :
    Host.Outcome State Fault Refusal :=
  scalarOp i (dstS rd && srcS ra && srcS rb) (do
    let a ← readS ra
    let b ← readS rb
    writeS rd (f a b)) s

/-- rd ← f ra. -/
def unaryOp (i : Instr) (rd ra : BitVec 7) (f : Word → Word) (s : State) : Host.Outcome State Fault Refusal :=
  scalarOp i (dstS rd && srcS ra) (do
    let a ← readS ra
    writeS rd (f a)) s

end Sys2Proof.Machine
end

