-- ==== Sys2Proof/Machine/Flags.lean ====
section
/-! DEFINITION. Integer results (R115 to R117, R154) at any width, and the bits of `fflags` (R138). -/

namespace Sys2Proof.Machine

/-- 1 or 0. -/
def ofFlag (b : Bool) : Word := if b then 1 else 0

/-- The high half of the signed product. -/
def mulHighS {w : Nat} (a b : BitVec w) : BitVec w := BitVec.ofInt w (a.toInt * b.toInt / (2 : Int) ^ w)

/-- The high half of the unsigned product. -/
def mulHighU {w : Nat} (a b : BitVec w) : BitVec w := BitVec.ofNat w (a.toNat * b.toNat / 2 ^ w)

/-- Signed division towards zero; by zero −1; the most negative by −1 is itself (R116). -/
def divS {w : Nat} (a b : BitVec w) : BitVec w := if b = 0 then -1 else BitVec.ofInt w (a.toInt.tdiv b.toInt)

/-- Signed remainder with the sign of the dividend; by zero the dividend (R116). -/
def remS {w : Nat} (a b : BitVec w) : BitVec w := if b = 0 then a else BitVec.ofInt w (a.toInt.tmod b.toInt)

/-- Unsigned division; by zero all ones (R116). -/
def divU {w : Nat} (a b : BitVec w) : BitVec w := if b = 0 then -1 else BitVec.ofNat w (a.toNat / b.toNat)

/-- Unsigned remainder; by zero the dividend (R116). -/
def remU {w : Nat} (a b : BitVec w) : BitVec w := if b = 0 then a else BitVec.ofNat w (a.toNat % b.toNat)

/-- Leading zeros: the number of bits above the highest one (R115). -/
def leadingZeros {w : Nat} (a : BitVec w) : Nat := if a = 0 then w else w - 1 - a.toNat.log2

/-- Trailing zeros (R115). -/
def trailingZeros {w : Nat} (a : BitVec w) : Nat := ((List.range w).find? fun i => a.getLsbD i).getD w

/-- Number of one bits (R115). -/
def onesCount {w : Nat} (a : BitVec w) : Nat := (List.range w).countP fun i => a.getLsbD i

/-- A 32-bit operation whose result is sign-extended (R117). -/
def word32 (f : BitVec 32 → BitVec 32 → BitVec 32) (a b : Word) : Word :=
  (f (a.setWidth 32) (b.setWidth 32)).signExtend 64

/-! ## `fflags` (R138) -/

def flagNV : BitVec 5 := 0x01
def flagOF : BitVec 5 := 0x02
def flagDZ : BitVec 5 := 0x04
def flagUF : BitVec 5 := 0x08
def flagNX : BitVec 5 := 0x10

/-- Flags are sticky: they are ORed in (R138, R149). -/
def addFlags (fl : BitVec 5) (t : Thread) : Thread := { t with u := { t.u with fflags := t.u.fflags ||| fl } }

end Sys2Proof.Machine
end

