-- ==== Sys2Proof/Machine/Alu.lean ====
section
/-! DEFINITION. The meanings of majors 0x01 to 0x08, 0x0A and 0x0B: ALU, ALU32, immediates (R115 to R120). -/

namespace Sys2Proof.Machine

open Host (Outcome)

/-- `add` (R115). -/
def execAdd (rd ra rb : BitVec 7) (s : State) : Outcome State Fault Refusal :=
  binaryOp (.add rd ra rb) rd ra rb (fun a b => a + b) s

/-- `sub` (R115). -/
def execSub (rd ra rb : BitVec 7) (s : State) : Outcome State Fault Refusal :=
  binaryOp (.sub rd ra rb) rd ra rb (fun a b => a - b) s

/-- `and` (R115). -/
def execAnd (rd ra rb : BitVec 7) (s : State) : Outcome State Fault Refusal :=
  binaryOp (.and rd ra rb) rd ra rb (fun a b => a &&& b) s

/-- `or` (R115). -/
def execOr (rd ra rb : BitVec 7) (s : State) : Outcome State Fault Refusal :=
  binaryOp (.or rd ra rb) rd ra rb (fun a b => a ||| b) s

/-- `xor` (R115). -/
def execXor (rd ra rb : BitVec 7) (s : State) : Outcome State Fault Refusal :=
  binaryOp (.xor rd ra rb) rd ra rb (fun a b => a ^^^ b) s

/-- `andn` (R115). -/
def execAndn (rd ra rb : BitVec 7) (s : State) : Outcome State Fault Refusal :=
  binaryOp (.andn rd ra rb) rd ra rb (fun a b => a &&& ~~~b) s

/-- `orn` (R115). -/
def execOrn (rd ra rb : BitVec 7) (s : State) : Outcome State Fault Refusal :=
  binaryOp (.orn rd ra rb) rd ra rb (fun a b => a ||| ~~~b) s

/-- `sll` (R115). -/
def execSll (rd ra rb : BitVec 7) (s : State) : Outcome State Fault Refusal :=
  binaryOp (.sll rd ra rb) rd ra rb (fun a b => a <<< (b.toNat % 64)) s

/-- `srl` (R115). -/
def execSrl (rd ra rb : BitVec 7) (s : State) : Outcome State Fault Refusal :=
  binaryOp (.srl rd ra rb) rd ra rb (fun a b => a >>> (b.toNat % 64)) s

/-- `sra` (R115). -/
def execSra (rd ra rb : BitVec 7) (s : State) : Outcome State Fault Refusal :=
  binaryOp (.sra rd ra rb) rd ra rb (fun a b => a.sshiftRight (b.toNat % 64)) s

/-- `rol` (R115). -/
def execRol (rd ra rb : BitVec 7) (s : State) : Outcome State Fault Refusal :=
  binaryOp (.rol rd ra rb) rd ra rb (fun a b => a.rotateLeft (b.toNat % 64)) s

/-- `ror` (R115). -/
def execRor (rd ra rb : BitVec 7) (s : State) : Outcome State Fault Refusal :=
  binaryOp (.ror rd ra rb) rd ra rb (fun a b => a.rotateRight (b.toNat % 64)) s

/-- `slt` (R115). -/
def execSlt (rd ra rb : BitVec 7) (s : State) : Outcome State Fault Refusal :=
  binaryOp (.slt rd ra rb) rd ra rb (fun a b => ofFlag (a.slt b)) s

/-- `sltu` (R115). -/
def execSltu (rd ra rb : BitVec 7) (s : State) : Outcome State Fault Refusal :=
  binaryOp (.sltu rd ra rb) rd ra rb (fun a b => ofFlag (a.ult b)) s

/-- `min` (R115). -/
def execMin (rd ra rb : BitVec 7) (s : State) : Outcome State Fault Refusal :=
  binaryOp (.min rd ra rb) rd ra rb (fun a b => if a.slt b then a else b) s

/-- `max` (R115). -/
def execMax (rd ra rb : BitVec 7) (s : State) : Outcome State Fault Refusal :=
  binaryOp (.max rd ra rb) rd ra rb (fun a b => if a.slt b then b else a) s

/-- `minu` (R115). -/
def execMinu (rd ra rb : BitVec 7) (s : State) : Outcome State Fault Refusal :=
  binaryOp (.minu rd ra rb) rd ra rb (fun a b => if a.ult b then a else b) s

/-- `maxu` (R115). -/
def execMaxu (rd ra rb : BitVec 7) (s : State) : Outcome State Fault Refusal :=
  binaryOp (.maxu rd ra rb) rd ra rb (fun a b => if a.ult b then b else a) s

/-- `mul` (R115). -/
def execMul (rd ra rb : BitVec 7) (s : State) : Outcome State Fault Refusal :=
  binaryOp (.mul rd ra rb) rd ra rb (fun a b => a * b) s

/-- `mulh` (R115). -/
def execMulh (rd ra rb : BitVec 7) (s : State) : Outcome State Fault Refusal :=
  binaryOp (.mulh rd ra rb) rd ra rb (fun a b => mulHighS a b) s

/-- `mulhu` (R115). -/
def execMulhu (rd ra rb : BitVec 7) (s : State) : Outcome State Fault Refusal :=
  binaryOp (.mulhu rd ra rb) rd ra rb (fun a b => mulHighU a b) s

/-- `div` (R116). -/
def execDiv (rd ra rb : BitVec 7) (s : State) : Outcome State Fault Refusal :=
  binaryOp (.div rd ra rb) rd ra rb (fun a b => divS a b) s

/-- `divu` (R116). -/
def execDivu (rd ra rb : BitVec 7) (s : State) : Outcome State Fault Refusal :=
  binaryOp (.divu rd ra rb) rd ra rb (fun a b => divU a b) s

/-- `rem` (R116). -/
def execRem (rd ra rb : BitVec 7) (s : State) : Outcome State Fault Refusal :=
  binaryOp (.rem rd ra rb) rd ra rb (fun a b => remS a b) s

/-- `remu` (R116). -/
def execRemu (rd ra rb : BitVec 7) (s : State) : Outcome State Fault Refusal :=
  binaryOp (.remu rd ra rb) rd ra rb (fun a b => remU a b) s

/-- `clz` (R115). -/
def execClz (rd ra : BitVec 7) (s : State) : Outcome State Fault Refusal :=
  unaryOp (.clz rd ra) rd ra (fun a => BitVec.ofNat 64 (leadingZeros a)) s

/-- `ctz` (R115). -/
def execCtz (rd ra : BitVec 7) (s : State) : Outcome State Fault Refusal :=
  unaryOp (.ctz rd ra) rd ra (fun a => BitVec.ofNat 64 (trailingZeros a)) s

/-- `popc` (R115). -/
def execPopc (rd ra : BitVec 7) (s : State) : Outcome State Fault Refusal :=
  unaryOp (.popc rd ra) rd ra (fun a => BitVec.ofNat 64 (onesCount a)) s

/-- `sextb` (R115). -/
def execSextb (rd ra : BitVec 7) (s : State) : Outcome State Fault Refusal :=
  unaryOp (.sextb rd ra) rd ra (fun a => (a.setWidth 8).signExtend 64) s

/-- `sexth` (R115). -/
def execSexth (rd ra : BitVec 7) (s : State) : Outcome State Fault Refusal :=
  unaryOp (.sexth rd ra) rd ra (fun a => (a.setWidth 16).signExtend 64) s

/-- `sextw` (R115). -/
def execSextw (rd ra : BitVec 7) (s : State) : Outcome State Fault Refusal :=
  unaryOp (.sextw rd ra) rd ra (fun a => (a.setWidth 32).signExtend 64) s

/-- `zextw` (R115). -/
def execZextw (rd ra : BitVec 7) (s : State) : Outcome State Fault Refusal :=
  unaryOp (.zextw rd ra) rd ra (fun a => (a.setWidth 32).setWidth 64) s

/-- `addw` (R117). -/
def execAddw (rd ra rb : BitVec 7) (s : State) : Outcome State Fault Refusal :=
  binaryOp (.addw rd ra rb) rd ra rb (word32 fun x y => x + y) s

/-- `subw` (R117). -/
def execSubw (rd ra rb : BitVec 7) (s : State) : Outcome State Fault Refusal :=
  binaryOp (.subw rd ra rb) rd ra rb (word32 fun x y => x - y) s

/-- `sllw` (R117). -/
def execSllw (rd ra rb : BitVec 7) (s : State) : Outcome State Fault Refusal :=
  binaryOp (.sllw rd ra rb) rd ra rb (word32 fun x y => x <<< (y.toNat % 32)) s

/-- `srlw` (R117). -/
def execSrlw (rd ra rb : BitVec 7) (s : State) : Outcome State Fault Refusal :=
  binaryOp (.srlw rd ra rb) rd ra rb (word32 fun x y => x >>> (y.toNat % 32)) s

/-- `sraw` (R117). -/
def execSraw (rd ra rb : BitVec 7) (s : State) : Outcome State Fault Refusal :=
  binaryOp (.sraw rd ra rb) rd ra rb (word32 fun x y => x.sshiftRight (y.toNat % 32)) s

/-- `mulw` (R117). -/
def execMulw (rd ra rb : BitVec 7) (s : State) : Outcome State Fault Refusal :=
  binaryOp (.mulw rd ra rb) rd ra rb (word32 fun x y => x * y) s

/-- `divw` (R117). -/
def execDivw (rd ra rb : BitVec 7) (s : State) : Outcome State Fault Refusal :=
  binaryOp (.divw rd ra rb) rd ra rb (word32 fun x y => divS x y) s

/-- `divuw` (R117). -/
def execDivuw (rd ra rb : BitVec 7) (s : State) : Outcome State Fault Refusal :=
  binaryOp (.divuw rd ra rb) rd ra rb (word32 fun x y => divU x y) s

/-- `remw` (R117). -/
def execRemw (rd ra rb : BitVec 7) (s : State) : Outcome State Fault Refusal :=
  binaryOp (.remw rd ra rb) rd ra rb (word32 fun x y => remS x y) s

/-- `remuw` (R117). -/
def execRemuw (rd ra rb : BitVec 7) (s : State) : Outcome State Fault Refusal :=
  binaryOp (.remuw rd ra rb) rd ra rb (word32 fun x y => remU x y) s

/-- `addi` (R118). -/
def execAddi (rd ra : BitVec 7) (imm : BitVec 12) (s : State) : Outcome State Fault Refusal :=
  unaryOp (.addi rd ra imm) rd ra (fun a => let k := imm.signExtend 64; a + k) s

/-- `andi` (R118). -/
def execAndi (rd ra : BitVec 7) (imm : BitVec 12) (s : State) : Outcome State Fault Refusal :=
  unaryOp (.andi rd ra imm) rd ra (fun a => let k := imm.signExtend 64; a &&& k) s

/-- `ori` (R118). -/
def execOri (rd ra : BitVec 7) (imm : BitVec 12) (s : State) : Outcome State Fault Refusal :=
  unaryOp (.ori rd ra imm) rd ra (fun a => let k := imm.signExtend 64; a ||| k) s

/-- `xori` (R118). -/
def execXori (rd ra : BitVec 7) (imm : BitVec 12) (s : State) : Outcome State Fault Refusal :=
  unaryOp (.xori rd ra imm) rd ra (fun a => let k := imm.signExtend 64; a ^^^ k) s

/-- `slti` (R118). -/
def execSlti (rd ra : BitVec 7) (imm : BitVec 12) (s : State) : Outcome State Fault Refusal :=
  unaryOp (.slti rd ra imm) rd ra (fun a => let k := imm.signExtend 64; ofFlag (a.slt k)) s

/-- `slli` (R119). -/
def execSlli (rd ra : BitVec 7) (n : BitVec 6) (s : State) : Outcome State Fault Refusal :=
  unaryOp (.slli rd ra n) rd ra (fun a => a <<< n.toNat) s

/-- `srli` (R119). -/
def execSrli (rd ra : BitVec 7) (n : BitVec 6) (s : State) : Outcome State Fault Refusal :=
  unaryOp (.srli rd ra n) rd ra (fun a => a >>> n.toNat) s

/-- `srai` (R119). -/
def execSrai (rd ra : BitVec 7) (n : BitVec 6) (s : State) : Outcome State Fault Refusal :=
  unaryOp (.srai rd ra n) rd ra (fun a => a.sshiftRight n.toNat) s

/-- `rori` (R119). -/
def execRori (rd ra : BitVec 7) (n : BitVec 6) (s : State) : Outcome State Fault Refusal :=
  unaryOp (.rori rd ra n) rd ra (fun a => a.rotateRight n.toNat) s

/-- `lui` (R40, R120): SignExt(imm19 << 13, 32). -/
def execLui (rd : BitVec 7) (imm : BitVec 19) (s : State) : Outcome State Fault Refusal :=
  scalarOp (.lui rd imm) (dstS rd) (writeS rd ((imm ++ 0#13).signExtend 64)) s

/-- `auipc` (R40, R120): the address of the word plus SignExt(imm19 << 12, 31). -/
def execAuipc (rd : BitVec 7) (imm : BitVec 19) (s : State) : Outcome State Fault Refusal :=
  scalarOp (.auipc rd imm) (dstS rd) (do
    let t ← read (·.thr)
    writeS rd (ownPc t + (imm ++ 0#12).signExtend 64)) s

end Sys2Proof.Machine
end

