-- ==== Sys2Proof/Machine/Branch.lean ====
section
/-! DEFINITION. The meanings of majors 0x0C to 0x13, 0x1B and 0x1C: branches, jumps, the register window, `trap`
(R111, R121, R122, R127). -/

namespace Sys2Proof.Machine

open Host (Outcome)

/-- Goes on at an address. -/
def jumpTo (a : Word) : Op Unit := modThr fun t => { t with pc := a, wait := none, replies := [], pages := [] }

/-- A branch: its sources are popped whether or not it is taken (R121). -/
def branchOp (i : Instr) (ra rb : BitVec 7) (off : BitVec 12) (taken : Word → Word → Bool) (s : State) :
    Outcome State Fault Refusal :=
  finish (do
    checkWord i false false (srcS ra && srcS rb)
    let a ← readS ra
    let b ← readS rb
    let t ← read (·.thr)
    if taken a b then jumpTo (t.pc + off.signExtend 64 * 4) else modThr retire) s

/-- `beq` (R121). -/
def execBeq (ra rb : BitVec 7) (off : BitVec 12) (s : State) : Outcome State Fault Refusal :=
  branchOp (.beq ra rb off) ra rb off (fun a b => a == b) s

/-- `bne` (R121). -/
def execBne (ra rb : BitVec 7) (off : BitVec 12) (s : State) : Outcome State Fault Refusal :=
  branchOp (.bne ra rb off) ra rb off (fun a b => a != b) s

/-- `blt` (R121). -/
def execBlt (ra rb : BitVec 7) (off : BitVec 12) (s : State) : Outcome State Fault Refusal :=
  branchOp (.blt ra rb off) ra rb off (fun a b => a.slt b) s

/-- `bge` (R121). -/
def execBge (ra rb : BitVec 7) (off : BitVec 12) (s : State) : Outcome State Fault Refusal :=
  branchOp (.bge ra rb off) ra rb off (fun a b => ! a.slt b) s

/-- `bltu` (R121). -/
def execBltu (ra rb : BitVec 7) (off : BitVec 12) (s : State) : Outcome State Fault Refusal :=
  branchOp (.bltu ra rb off) ra rb off (fun a b => a.ult b) s

/-- `bgeu` (R121). -/
def execBgeu (ra rb : BitVec 7) (off : BitVec 12) (s : State) : Outcome State Fault Refusal :=
  branchOp (.bgeu ra rb off) ra rb off (fun a b => ! a.ult b) s

/-- `jal` (R122). -/
def execJal (rd : BitVec 7) (off : BitVec 19) (s : State) : Outcome State Fault Refusal :=
  finish (do
    checkWord (.jal rd off) false false (dstS rd)
    let t ← read (·.thr)
    writeS rd (t.pc + 4)
    jumpTo (t.pc + off.signExtend 64 * 4)) s

/-- `jalr` (R37, R122): a target that is not a multiple of 4 is *misaligned address*, and rd is not written. -/
def execJalr (rd ra : BitVec 7) (imm : BitVec 12) (s : State) : Outcome State Fault Refusal :=
  finish (do
    checkWord (.jalr rd ra imm) false false (dstS rd && srcS ra)
    let t ← read (·.thr)
    let a ← readS ra
    let tgt := a + imm.signExtend 64
    require (tgt.toNat % 4 = 0) (.trap (causeCode .misaligned) tgt)
    writeS rd (t.pc + 4)
    jumpTo tgt) s

/-- The value may be a window base (R109, R111). -/
def windowOk (v : Int) : Bool := decide (0 ≤ v ∧ v ≤ 336) && decide (v % 16 = 0)

/-- Changes `wb`, or takes *window fault* with the requested base (R111). -/
def setWindow (v : Int) : Op Unit := do
  require (windowOk v = true) (.trap (causeCode .window) (BitVec.ofInt 64 v))
  modThr fun t => { t with sc := { t.sc with wb := v.toNat } }

/-- `winadj` (R111). -/
def execWinadj (n : BitVec 7) (s : State) : Outcome State Fault Refusal :=
  scalarOp (.winadj n) true (do
    let t ← read (·.thr)
    setWindow (t.sc.wb + n.toInt * 16)) s

/-- `winset` (R111): the source is read under the old base, as an unsigned value. -/
def execWinset (ra : BitVec 7) (s : State) : Outcome State Fault Refusal :=
  scalarOp (.winset ra) (srcS ra) (do
    let a ← readS ra
    setWindow a.toNat) s

/-- `trap` (R127): takes *trap* with the immediate. -/
def execTrap (imm : BitVec 12) (s : State) : Outcome State Fault Refusal :=
  finish (do
    checkWord (.trap imm) false false true
    trapC .trapInstr (imm.setWidth 64)) s

end Sys2Proof.Machine
end

