-- ==== Sys2Proof/Machine/Mmio.lean ====
section
/-! DEFINITION. The memory-mapped registers (R192): of a Span (R147, R375, R380, R397), of a die's fabric unit (R308, R314,
R318, R321, R323, R325, R338) and of the I/O die (R395, R396, R399). An offset that no rule names reads 0 and discards
writes (log 29). -/

namespace Sys2Proof.Machine

/-! ## Host messages and the host event queue (R396, R397) -/

/-- A message with a write made to it: it replaces the data, and notes an overrun while one is pending. -/
def HostMsg.post (v : Word) (h : HostMsg) : HostMsg :=
  { data := v.setWidth 63, pend := true, ovr := h.ovr || h.pend, irq := true }

/-- A launch with a message for its saved thread of an index, if that left a slot. -/
def postSaved (p : Place) (tid : Word) (v : Word) (l : Launch) : Launch :=
  { l with saved := l.saved.map fun x =>
      if x.tid = tid ∧ p = ⟨x.peer, x.span, x.slot⟩ then { x with msg := x.msg.post v } else x }

/-- A write of HMSG (R397): to the thread of the slot; where there is none, to the thread that was there last if it is saved, which
keeps it until it is restored; else discarded. -/
def writeHmsg (peer span slot : Nat) (v : Word) (s : State) : State :=
  if (threadAt s ⟨peer, span, slot⟩).isSome then
    modSpan peer span (fun x => { x with hmsg := vset x.hmsg slot ((vget x.hmsg slot HostMsg.empty).post v) }) s
  else match vget (spanOf s peer span).owners slot none with
    | some id => modLaunch (peer / 4) id.1 (postSaved ⟨peer, span, slot⟩ id.2 v) s
    | none => s

/-- HMSG as a load returns it, and after that load. -/
def peekHmsg (s : State) (peer span slot : Nat) : Word :=
  let h := vget (spanOf s peer span).hmsg slot HostMsg.empty
  BitVec.ofBool h.ovr ++ h.data

def readHmsg (peer span slot : Nat) (s : State) : State :=
  modSpan peer span (fun x =>
    let h := vget x.hmsg slot HostMsg.empty
    { x with hmsg := vset x.hmsg slot { h with pend := false, ovr := false } }) s

/-- Hardware entries that waited enter the host event queue as there is room (R396). -/
def refillEvents (p : Pkg) : Pkg :=
  { p with events := p.events ++ p.eventsWaiting.take (256 - p.events.length),
           eventsWaiting := p.eventsWaiting.drop (256 - p.events.length) }

/-- A load of HEVQD removes the oldest entry (R395). -/
def popEvent (node : Nat) (s : State) : State := modPkg node (fun p => refillEvents { p with events := p.events.tail }) s

/-- A store to DEVMSG by the thread of a place: a full queue is waited for, behind every hardware entry (R396). -/
def postDevmsg (node : Nat) (who : Place) (v : Word) : Op Unit := do
  let p ← read (pkgOf · node)
  require (p.events.length < 256 ∧ p.eventsWaiting = []) (.wait .other)
  update fun s => modPkg node (fun p =>
    { p with events := p.events ++ [⟨0, who.peer, who.span, who.slot, v⟩] }) s

/-- HEVQS (R395). -/
def hevqs (p : Pkg) : Word :=
  match p.events with
  | [] => 0
  | e :: _ => BitVec.ofNat 64 (1 + e.kind % 4 * 2 + e.peer % 4096 * 2 ^ 3 + e.span % 256 * 2 ^ 15 + e.slot % 8 * 2 ^ 23
      + p.events.length * 2 ^ 26)

/-- The number under which the free event codes know a kind of event. -/
def logKind : LogCode → Nat
  | .drain => 0
  | .fatal _ => 1
  | .residueRepeat => 2
  | .boot => 3
  | .link => 4
  | .thermal => 5
  | .firmware => 6

/-- Word w of entry k of the event log's ring (R399). -/
def logWord (p : Pkg) (k w : Nat) : Word :=
  match p.log.find? fun e => e.seq.toNat % 2048 == k with
  | none => 0
  | some e =>
    let d := Config.eventData (logKind e.code) e.data
    match w with
    | 0 => BitVec.ofNat 64 e.tick
    | 1 => BitVec.ofNat 16 e.peer ++ Config.eventCode (logKind e.code) ++ e.seq
    | 2 => d.extractLsb' 0 64
    | _ => d.extractLsb' 64 64

/-! ## Communicators (R325, R326) -/

def commOf (d : Die) (c : Nat) : Comm := (nget d.comms c).getD Comm.reset

/-- Bytes of the Abutment that a chunk size reserves. -/
def chunkRoom (chunk : Nat) : Nat := 16 * 2 ^ chunk
def commRoom (c : Comm) : Nat := chunkRoom c.chunk.toNat

/-- Word 0 of a communicator. -/
def commWord0 (c : Comm) : Word :=
  0#30 ++ c.rank ++ c.nmem ++ c.chunk ++ c.vc ++ BitVec.ofBool c.err ++ BitVec.ofBool c.valid

/-- The reservations that posted collectives hold of settings that no longer stand, each once, with the chunk they captured. -/
def oldReservations (d : Die) : List (Nat × Nat × Nat) :=
  ((d.colls.filter fun x => ! ((commOf d x.comm).valid && (commOf d x.comm).epoch == x.epoch)).map
    fun x => (x.comm, x.epoch, x.key.chunk)).eraseDups

/-- The reservations of a die as communicator c is about to become valid: the other valid entries, and what posted collectives still
hold (R325, R326). -/
def roomTaken (d : Die) (c : Nat) : Nat :=
  (d.comms.map fun e => if e.1 ≠ c ∧ e.2.valid then commRoom e.2 else 0).sum
    + ((oldReservations d).map fun x => chunkRoom x.2.2).sum

/-- An entry may become valid: its reservation fits, its member map lies in the die's firmware region, and its fields are in
range (R325, R326). -/
def commMayStart (peer : Nat) (d : Die) (i : Nat) (c : Comm) : Bool :=
  decide (8 ≤ c.chunk.toNat ∧ c.chunk.toNat ≤ 20 ∧ c.rank.toNat ≤ c.nmem.toNat)
    && decide (roomTaken d i + commRoom c ≤ 2 ^ 24)
    && decide (c.map.toNat % 64 = 0 ∧ fpaPeer c.map.toNat = peer)
    && inFirmware c.map.toNat && inFirmware (c.map.toNat + 2 * c.nmem.toNat + 1)

/-- A write of word 0 (R325). -/
def writeComm0 (peer i : Nat) (v : Word) (s : State) : State :=
  modDie peer (fun d =>
    let c := commOf d i
    let err := c.err && ! v.getLsbD 1
    let c' := if c.valid && v.getLsbD 0 then { c with err := err }
      else
        let n : Comm := { c with
          valid := false, err := err, vc := v.extractLsb' 2 3, chunk := v.extractLsb' 5 5, nmem := v.extractLsb' 10 12,
          rank := v.extractLsb' 22 12 }
        if v.getLsbD 0 then
          (if commMayStart peer d i n then { n with valid := true, iseq := 0, cseq := 0, epoch := c.epoch + 1 } else n)
        else n
    { d with comms := nset d.comms i c' }) s

/-! ## Fabric unit (R314, R323) -/

def writeDetect (peer : Nat) (v : Word) (s : State) : State :=
  modDie peer (fun d => { d with td := if (v.setWidth 16).toNat < 250 then 250 else v.setWidth 16 }) s

def writeTimeout (peer : Nat) (v : Word) (s : State) : State :=
  modDie peer (fun d => { d with timeout := BitVec.ofNat 20 (max 100 (min v.toNat 1000000)) }) s

/-- Half h of an export entry is written; reserved bits read 0 (R8, R321). -/
def writeExport (peer x h : Nat) (v : Word) (s : State) : State :=
  modDie peer (fun d =>
    let e := (nget d.exports x).getD 0
    let e' : BitVec 128 := if h = 0 then e.extractLsb' 64 64 ++ (v &&& 0x0000FFFF0001FFFF)
      else (v &&& 0xFFFFFFFF1FFFFFFF) ++ e.extractLsb' 0 64
    { d with exports := nset d.exports x e' }) s

/-! ## TLBINV (R380, R381) -/

/-- An entry that TLBINV names. -/
def invMatches (v : Word) (e : TlbEntry) : Bool :=
  (v.getLsbD 18 || e.ctx == v.extractLsb' 0 16 || (v.getLsbD 17 && pteGlobal e.pte))
    && (v.getLsbD 17 || ! pteGlobal e.pte)
    && (v.getLsbD 16 || (let vpn := (v.extractLsb' 19 39).toNat
        if e.large then e.vpn / 2 ^ 13 == vpn / 2 ^ 13 else e.vpn == vpn))

/-- Some translation of a list is one that TLBINV names. -/
def invNames (v : Word) (ps : List TlbEntry) : Bool := ps.any (invMatches v)

/-- The counters that a thread's entries have still to increment. -/
def dueCounters (t : Thread) : List Counter := t.v.nbq ++ t.v.vq.filterMap (·.ctr)

/-- A vector atomic whose elements have been checked through an entry that TLBINV names (R199): it performs with what it has
translated. -/
def heldAtomic (v : Word) (e : VEntry) : Bool :=
  e.checked && invNames v e.pages && (match e.ins with | .vaadd .. | .vafadd .. => true | _ => false)

/-- Later elements of a vector entry translate again (R381). -/
def dropPages (v : Word) (e : VEntry) : VEntry :=
  if heldAtomic v e then e else { e with pages := e.pages.filter fun x => ! invMatches v x }

/-- The threads that run on a die. -/
def dieThreads (s : State) (peer : Nat) : List Thread :=
  (allThreads s).filter fun t => t.place.peer == peer && t.status == .running && ! t.host

/-- The invalidation begins: matching entries of the die's TLB and of every micro-TLB of the die go, and the accesses in flight
that were translated through such an entry are noted (R380, R381). -/
def beginInval (peer : Nat) (who : Place) (v : Word) (s0 : State) : State :=
  let s := modThreads (fun t => t.place.peer == peer && ! t.host)
    (fun t => { t with v := { t.v with vq := t.v.vq.map (dropPages v) } }) s0
  let s1 := { s with spans := s.spans.map fun x =>
    if x.1 / 256 = peer then (x.1, { x.2 with utlb := x.2.utlb.filter fun e => ! invMatches v e }) else x }
  modDie peer (fun d => { d with
    tlb := d.tlb.filter fun e => ! invMatches v e
    invals := d.invals.filter (fun x => x.place != who) ++ [{
      place := who
      value := v
      truss := (dieThreads s peer).flatMap fun t =>
        (t.tq.filter fun e => e.push.isNone && invNames v e.pages).map fun e => (t.place, e.seq)
      packets := (s.packets.filter fun p => p.place.peer == peer && invNames v p.page).map (·.id)
      counters := (dieThreads s peer).flatMap fun t =>
        ((dueCounters t).filter fun c => invNames v c.page).map fun c => (t.place, c.age)
      entries := (dieThreads s peer).flatMap fun t => (t.v.vq.filter (heldAtomic v)).map fun e => (t.place, e.age) }] }) s1

/-- What an invalidation waits for has performed; an instruction that has its replies but not yet used them is waited for too. -/
def invalDone (s : State) (peer : Nat) (x : Inval) : Bool :=
  (x.truss.all fun (p, q) => ! (allThreads s).any fun t =>
      t.place == p && t.status == .running && t.tq.any fun e => e.seq == q && e.push.isNone)
    && (x.packets.all fun i => ! s.packets.any fun p => p.id == i)
    && (x.counters.all fun (p, a) => ! (allThreads s).any fun t =>
      t.place == p && t.status == .running && (dueCounters t).any fun c => c.age == a && invNames x.value c.page)
    && (x.entries.all fun (p, a) => ! (allThreads s).any fun t =>
      t.place == p && t.status == .running && t.v.vq.any fun e => e.age == a && heldAtomic x.value e)
    && (dieThreads s peer).all fun t => t.replies.isEmpty || t.wait == some .inval

/-- A store to TLBINV as it is tried at its home: it begins its invalidation, or finds the one that it has begun; and whether that is
complete, and gone (R380, R381). -/
def tryInval (peer : Nat) (who : Place) (v : Word) (s : State) : Bool × State :=
  let s1 := if (dieOf s peer).invals.any fun x => x.place == who && x.value == v then s else beginInval peer who v s
  if (dieOf s1 peer).invals.all fun x => x.place != who || invalDone s1 peer x then
    (true, modDie peer (fun d => { d with invals := d.invals.filter fun y => y.place != who }) s1)
  else (false, s1)

/-- The writer of a complete invalidation goes on: its store executes again, and finds its invalidation complete. -/
def endInval (peer : Nat) (x : Inval) (s : State) : State :=
  if (allThreads s).any fun t => t.status == .running && t.place == x.place && t.wait == some .inval then
    modThreads (fun t => t.status == .running && t.place == x.place) (fun t => { t with wait := none }) s
  else modDie peer (fun d => { d with invals := d.invals.filter fun y => y.place != x.place }) s

/-! ## Registers by address -/

/-- The value of the 64-bit register at an address, before any side effect of a read. -/
def peekReg (s : State) (a : Nat) : Word :=
  let peer := fpaPeer a
  let off := fpaOffset a
  if fpaSpan a < 192 then
    let x := spanOf s peer (fpaSpan a)
    if 0x100 ≤ off ∧ off < 0x180 then vget x.lost ((off - 0x100) / 4 + 1) 0 ++ vget x.lost ((off - 0x100) / 4) 0
    else if 0x200 ≤ off ∧ off < 0x240 then vget x.timers ((off - 0x200) / 8) 0
    else if 0x300 ≤ off ∧ off < 0x340 then peekHmsg s peer (fpaSpan a) ((off - 0x300) / 8)
    else 0
  else
    let d := dieOf s peer
    let p := pkgOf s (peer / 4)
    if off = 0x0000 then d.td.setWidth 64
    else if off = 0x0008 then d.timeout.setWidth 64
    else if off = 0x0010 then d.flagCount
    else if off = 0x0018 then d.drainCount
    else if off = 0x0020 then (BitVec.ofBool d.rtsel).setWidth 64
    else if 0x10000 ≤ off ∧ off < 0x20000 then
      ((nget d.exports ((off - 0x10000) / 16)).getD 0).extractLsb' (64 * (off / 8 % 2)) 64
    else if 0x20000 ≤ off ∧ off < 0x21000 then
      let c := commOf d ((off - 0x20000) / 64)
      match off / 8 % 8 with
      | 0 => commWord0 c
      | 1 => c.map
      | 2 => c.ctx.setWidth 64
      | 3 => c.cseq ++ c.iseq
      | _ => 0
    else if off = 0x80000000 then BitVec.ofNat 64 (2 + 1 * 2 ^ 8 + 0xB1 * 2 ^ 16 + peer / 4 * 2 ^ 24)
    else if off = 0x80000008 then Config.serial (peer / 4)
    else if off = 0x80000010 then BitVec.ofNat 64 Config.fwSize
    else if off = 0x80000100 then p.ioFlags
    else if off = 0x80000108 then p.ioDrains
    else if off = 0x80002000 then hevqs p
    else if off = 0x80002008 then (match p.events with | e :: _ => e.value | [] => 0)
    else if 0x80010000 ≤ off ∧ off < 0x80020000 then logWord p ((off - 0x80010000) / 32) (off / 8 % 4)
    else 0

/-- The side effect of a load (R395, R397). -/
def readEffect (a : Nat) (s : State) : State :=
  let off := fpaOffset a
  if fpaSpan a < 192 then
    (if 0x300 ≤ off ∧ off < 0x340 then readHmsg (fpaPeer a) (fpaSpan a) ((off - 0x300) / 8) s else s)
  else if off = 0x80002008 then popEvent (fpaNode a) s
  else s

/-- The bits of a register that a write of the other half leaves alone by writing 0 (R192: W1C). -/
def keptMask (a : Nat) : Word :=
  if fpaSpan a = 192 ∧ 0x20000 ≤ fpaOffset a ∧ fpaOffset a < 0x21000 ∧ fpaOffset a / 8 % 8 = 0 then ~~~ 2#64
  else BitVec.allOnes 64

/-- A write of the 64-bit register at an address by the thread of a place. -/
def writeReg (who : Place) (a : Nat) (v : Word) : Op Unit :=
  let peer := fpaPeer a
  let off := fpaOffset a
  if fpaSpan a < 192 then
    if 0x200 ≤ off ∧ off < 0x240 then
      update (modSpan peer (fpaSpan a) fun x => { x with timers := vset x.timers ((off - 0x200) / 8) v })
    else if 0x300 ≤ off ∧ off < 0x340 then update (writeHmsg peer (fpaSpan a) ((off - 0x300) / 8) v)
    else pure ()
  else if off = 0x0000 then update (writeDetect peer v)
  else if off = 0x0008 then update (writeTimeout peer v)
  else if 0x10000 ≤ off ∧ off < 0x20000 then update (writeExport peer ((off - 0x10000) / 16) (off / 8 % 2) v)
  else if 0x20000 ≤ off ∧ off < 0x21000 then
    let i := (off - 0x20000) / 64
    match off / 8 % 8 with
    | 0 => update (writeComm0 peer i v)
    | 1 => update (modDie peer fun d =>
        if (commOf d i).valid then d else { d with comms := nset d.comms i { commOf d i with map := v } })
    | 2 => update (modDie peer fun d =>
        if (commOf d i).valid then d else { d with comms := nset d.comms i { commOf d i with ctx := v.setWidth 16 } })
    | _ => pure ()
  else if off = 0x80001000 then postDevmsg (fpaNode a) who v
  else pure ()

/-- n bytes, 4 or 8, of the register at an address. -/
def regValue (s : State) (a n : Nat) : Nat := (peekReg s (a / 8 * 8)).toNat / 2 ^ (8 * (a % 8)) % 2 ^ (8 * n)

/-- A write of n bytes, 4 or 8, at the register's home: a half leaves the other half as it is. TLBINV is for the caller. -/
def regStore (who : Place) (a n v : Nat) : Op Unit := do
  let old ← read (peekReg · (a / 8 * 8))
  writeReg who (a / 8 * 8)
    (if n = 8 then BitVec.ofNat 64 v
     else
      let k := (old &&& keptMask (a / 8 * 8)).toNat
      if a % 8 = 0 then BitVec.ofNat 64 (v % 2 ^ 32 + k / 2 ^ 32 * 2 ^ 32)
      else BitVec.ofNat 64 (k % 2 ^ 32 + v % 2 ^ 32 * 2 ^ 32))

/-- A load of n bytes, 4 or 8, of a register (R192). -/
def mmioLoad (r : Ref) (n : Nat) : Op Nat := do
  if ← read (isRemote · r.fpa) then do
    let x ← ask r n (.reg n none)
    pure x.val
  else do
    arrive .load r.fpa n
    let v ← read (regValue · r.fpa n)
    update (readEffect (r.fpa / 8 * 8))
    pure v

/-- A store of n bytes, 4 or 8, to a register; one on another die has performed when its reply comes, so that accesses to registers
perform in program order (R192). -/
def mmioStore (r : Ref) (n v : Nat) : Op Unit := do
  if ← read (isRemote · r.fpa) then do
    let x ← ask r n (.reg n (some v))
    require (x.val = 0) (.waitDone .other)
  else do
    arrive .store r.fpa n
    let who ← read (·.thr.place)
    regStore who r.fpa n v

/-- The address is that of a Span's TLBINV. -/
def isTlbinv (a : Nat) : Bool := homeKind a == .mmio && decide (fpaSpan a < 192) && fpaOffset a == 0x400

end Sys2Proof.Machine
end

