-- ==== Sys2Proof/Machine/Fetch.lean ====
section
/-! DEFINITION. Fetching an instruction word (R36 to R38): translation and rights, the instruction cache, memory. -/

namespace Sys2Proof.Machine

/-- The word at a byte offset of a line. -/
def lineWord (d : BitVec 512) (off : Nat) : IWord := d.extractLsb' (8 * off) 32

/-- The number of an instruction line in the host cores' shared cache (log 94). -/
def codeKey (line core : Nat) : Nat := 32 * line + core

/-- The instruction line that a place holds: a Span's instruction cache, or a host core's lines of the shared cache (R38, R394). -/
def heldCode (s : State) (p : Place) (line : Nat) : Option Line :=
  if isHostPlace p then nget (pkgOf s (p.peer / 4)).hostCode (codeKey line p.slot)
  else nget (spanOf s p.peer p.span).icache line

/-- A place takes an instruction line. -/
def codeInstall (p : Place) (line : Nat) (x : Line) (s : State) : State :=
  if isHostPlace p then modPkg (p.peer / 4) (fun k =>
      let k1 := hostRoom { k with hostCode := ndel k.hostCode (codeKey line p.slot) }
      { k1 with hostCode := nset k1.hostCode (codeKey line p.slot) x }) s
  else modSpan p.peer p.span (fun y => { y with icache := icacheInstall line x y.icache }) s

/-- A place removes its instruction lines; those on their way will not be kept (R388, R394). -/
def codeClear (p : Place) (s : State) : State :=
  let s1 := keepNoLines true (fun x => x.place == p || (! isHostPlace p && x.place.peer == p.peer && x.place.span == p.span)) s
  if isHostPlace p then
    modPkg (p.peer / 4) (fun k => { k with hostCode := k.hostCode.filter fun e => e.1 % 32 != p.slot }) s1
  else modSpan p.peer p.span (fun y => { y with icache := [] }) s1

/-- The fill of a line on the own die. -/
def fillCode (r : Ref) : Op (BitVec 512) := do
  arrive .load (r.fpa / 64 * 64) 64
  let d ← read fun s => BitVec.ofNat 512 (memRead s r.key (r.fpa / 64 * 64) 64)
  update fun s => codeInstall s.thr.place (r.fpa / 64) ⟨d, r.key⟩ s
  pure d

/-- The instruction line of an address: what its own request has brought, the held one under the key id, whatever was stored since
(R38), or the home's. -/
def codeLine (r : Ref) : Op (BitVec 512) := do
  match ← takeReply true (r.fpa / 64 * 64) with
  | some x => pure (BitVec.ofNat 512 x.val)
  | none =>
    match ← read fun s => (heldCode s s.thr.place (r.fpa / 64)).filter fun l => l.key == r.key with
    | some l => pure l.data
    | none =>
      if ← read (isRemote · r.fpa) then raise (.request ⟨r.sector, 64, .code true⟩) else fillCode r

/-- Fetches the word at an address (R36 to R38). -/
def fetchWord (va : Word) : Op IWord := do
  let t ← read (·.thr)
  let r ← access .fetch t.k.km 4 va
  let d ← codeLine r
  pure (lineWord d (r.fpa % 64))

end Sys2Proof.Machine
end

