-- ==== Sys2Proof/Machine/Fp.lean ====
section
/-! DEFINITION. Floating-point formats, exact values, RoundFP (R65, R74, R75) and the arithmetic on them (R155 to R158,
R173, R174), and the sum word (R68, R94, R95). -/

namespace Sys2Proof.Machine

/-! ## Formats (R74) -/

/-- A format: fraction bits, exponent bits, and whether it is E4M3, which has no infinity and one NaN pattern. -/
structure Fmt where
  fb : Nat
  eb : Nat
  e4m3 : Bool
  deriving DecidableEq, Repr

def fp64 : Fmt := ⟨52, 11, false⟩
def fp32 : Fmt := ⟨23, 8, false⟩
def fp16 : Fmt := ⟨10, 5, false⟩
def bf16 : Fmt := ⟨7, 8, false⟩
def fpE4M3 : Fmt := ⟨3, 4, true⟩
def fpE5M2 : Fmt := ⟨2, 5, false⟩

def Fmt.width (f : Fmt) : Nat := f.fb + f.eb + 1
def Fmt.bias (f : Fmt) : Nat := 2 ^ (f.eb - 1) - 1
/-- The exponent of the smallest normal value. -/
def Fmt.emin (f : Fmt) : Int := 1 - (f.bias : Int)
/-- The largest finite value as an integer times a power of two: (significand, exponent). -/
def Fmt.maxSig (f : Fmt) : Nat := if f.e4m3 then 14 else 2 ^ (f.fb + 1) - 1
def Fmt.maxExp (f : Fmt) : Int := (if f.e4m3 then (15 : Int) else 2 ^ f.eb - 2) - f.bias - f.fb
def Fmt.signBit (f : Fmt) : Nat := 2 ^ (f.fb + f.eb)
/-- The pattern of infinity, without sign. -/
def Fmt.infBits (f : Fmt) : Nat := (2 ^ f.eb - 1) * 2 ^ f.fb
/-- The pattern of the largest finite value, without sign. -/
def Fmt.maxBits (f : Fmt) : Nat := if f.e4m3 then 0x7E else f.infBits - 1
/-- The canonical quiet NaN (R75). -/
def Fmt.nan (f : Fmt) : Nat := if f.e4m3 then 0x7F else f.infBits + 2 ^ (f.fb - 1)

/-! ## Values -/

/-- What a pattern stands for: a NaN, an infinity, or (−1)^neg · m · 2^e. -/
inductive FpVal where
  | nan (signalling : Bool)
  | inf (neg : Bool)
  | num (neg : Bool) (m : Nat) (e : Int)
  deriving DecidableEq, Repr

/-- The value of a pattern (R74, R75). -/
def fpVal (f : Fmt) (bits : Nat) : FpVal :=
  let neg := bits / f.signBit % 2 == 1
  let e := bits / 2 ^ f.fb % 2 ^ f.eb
  let m := bits % 2 ^ f.fb
  if e = 2 ^ f.eb - 1 ∧ (f.e4m3 = false ∨ m = 7) then
    (if f.e4m3 then .nan false else if m = 0 then .inf neg else .nan (m / 2 ^ (f.fb - 1) == 0))
  else if e = 0 then .num neg m (f.emin - f.fb)
  else .num neg (m + 2 ^ f.fb) ((e : Int) - f.bias - f.fb)

/-- The pattern is that of a nonzero subnormal. -/
def fpSubnormal (f : Fmt) (bits : Nat) : Bool :=
  bits / 2 ^ f.fb % 2 ^ f.eb == 0 && bits % 2 ^ f.fb != 0

def fpNeg (f : Fmt) (bits : Nat) : Bool := bits / f.signBit % 2 == 1
def fpIsNan (f : Fmt) (bits : Nat) : Bool := match fpVal f bits with | .nan _ => true | _ => false
def fpIsSnan (f : Fmt) (bits : Nat) : Bool := match fpVal f bits with | .nan s => s | _ => false

/-- Zero of a sign. -/
def fpZero (f : Fmt) (neg : Bool) : Nat := if neg then f.signBit else 0
def fpInf (f : Fmt) (neg : Bool) : Nat := f.infBits + fpZero f neg

/-- A subnormal input is read as zero of its sign under FLUSH 2 (R153). -/
def flushIn (f : Fmt) (flush : Nat) (bits : Nat) : Nat :=
  if flush = 2 ∧ fpSubnormal f bits then fpZero f (fpNeg f bits) else bits

/-! ## Rounding (R65) -/

/-- An integer quotient rounded under a rounding mode: 0 RNE, 1 RTZ, 2 RDN, 3 RUP, 4 RNA; and whether it is inexact. -/
def roundDiv (rm : Nat) (neg : Bool) (n d : Nat) : Nat × Bool :=
  let q := n / d
  let r := n % d
  let up : Bool := match rm with
    | 0 => decide (d < 2 * r) || (decide (d = 2 * r) && q % 2 == 1)
    | 1 => false
    | 2 => neg && decide (r ≠ 0)
    | 3 => ! neg && decide (r ≠ 0)
    | _ => decide (d ≤ 2 * r)
  (if up then q + 1 else q, decide (r ≠ 0))

/-- num/den · 2^e on the grid of 2^u, rounded. -/
def roundGrid (rm : Nat) (neg : Bool) (num den : Nat) (e u : Int) : Nat × Bool :=
  roundDiv rm neg (num * 2 ^ (e - u).toNat) (den * 2 ^ (u - e).toNat)

/-- ⌊log2⌋ of num/den · 2^e for nonzero num and den. -/
def floorLog (num den : Nat) (e : Int) : Int :=
  let k : Int := (num.log2 : Int) - den.log2
  (if den * 2 ^ k.toNat ≤ num * 2 ^ (-k).toNat then k else k - 1) + e

/-- m · 2^e is above the largest finite value. -/
def aboveMax (f : Fmt) (m : Nat) (e : Int) : Bool :=
  decide (f.maxSig * 2 ^ (f.maxExp - e).toNat < m * 2 ^ (e - f.maxExp).toNat)

/-- m · 2^e is below the smallest normal value. -/
def belowMin (f : Fmt) (m : Nat) (e : Int) : Bool :=
  decide (m * 2 ^ (e - f.emin).toNat < 2 ^ (f.emin - e).toNat)

/-- An overflow goes to infinity under the rounding mode, else to the largest finite value (R65). -/
def overflowInf (rm : Nat) (neg : Bool) : Bool :=
  match rm with | 0 => true | 1 => false | 2 => neg | 3 => ! neg | _ => true

/-- RoundFP of a nonzero exact value (−1)^neg · num/den · 2^e (R65): the pattern and the flags. -/
def roundNum (f : Fmt) (rm flush : Nat) (neg : Bool) (num den : Nat) (e : Int) : Nat × BitVec 5 :=
  let u := floorLog num den e - f.fb
  let r := (roundGrid rm neg num den e u).1
  if aboveMax f r u then
    (if f.e4m3 then f.nan else (if overflowInf rm neg then f.infBits else f.maxBits) + fpZero f neg, flagOF ||| flagNX)
  else
    let tiny := belowMin f r u
    if tiny ∧ 1 ≤ flush then (fpZero f neg, flagUF ||| flagNX)
    else
      let u' := max u (f.emin - f.fb)
      let q := roundGrid rm neg num den e u'
      (((u' + f.fb + f.bias - 1).toNat * 2 ^ f.fb + q.1) + fpZero f neg,
        if q.2 then (if tiny then flagNX ||| flagUF else flagNX) else 0)

/-- RoundFP of an exact value or a special one (R65). -/
def roundFp (f : Fmt) (rm flush : Nat) : FpVal → Nat × BitVec 5
  | .nan _ => (f.nan, 0)
  | .inf neg => if f.e4m3 then (f.nan, flagNV) else (fpInf f neg, 0)
  | .num neg m e => if m = 0 then (fpZero f neg, 0) else roundNum f rm flush neg m 1 e

/-! ## Arithmetic -/

/-- The exact sum of two signed dyadic values: sign and magnitude; a zero has the sign that R155 gives. -/
def addNum (rm : Nat) (n1 : Bool) (m1 : Nat) (e1 : Int) (n2 : Bool) (m2 : Nat) (e2 : Int) : FpVal :=
  let e := min e1 e2
  let a : Int := (if n1 then -1 else 1) * ((m1 * 2 ^ (e1 - e).toNat : Nat) : Int)
  let b : Int := (if n2 then -1 else 1) * ((m2 * 2 ^ (e2 - e).toNat : Nat) : Int)
  let s := a + b
  if s = 0 then .num (if n1 = n2 ∧ m1 = 0 ∧ m2 = 0 then n1 else decide (rm = 2)) 0 e
  else .num (decide (s < 0)) s.natAbs e

/-- NV where an operand is a signalling NaN. -/
def snanFlag (vs : List FpVal) : BitVec 5 := if vs.any (fun v => v == .nan true) then flagNV else 0

/-- The exact sum of two values with its own flags (R155). -/
def addVal (rm : Nat) : FpVal → FpVal → FpVal × BitVec 5
  | .nan _, _ => (.nan false, 0)
  | _, .nan _ => (.nan false, 0)
  | .inf a, .inf b => if a = b then (.inf a, 0) else (.nan false, flagNV)
  | .inf a, _ => (.inf a, 0)
  | _, .inf b => (.inf b, 0)
  | .num n1 m1 e1, .num n2 m2 e2 => (addNum rm n1 m1 e1 n2 m2 e2, 0)

def negVal : FpVal → FpVal
  | .nan s => .nan s
  | .inf n => .inf (! n)
  | .num n m e => .num (! n) m e

/-- The exact product with its own flags (R155). -/
def mulVal : FpVal → FpVal → FpVal × BitVec 5
  | .inf a, .num n m _ => if m = 0 then (.nan false, flagNV) else (.inf (a != n), 0)
  | .num n m _, .inf a => if m = 0 then (.nan false, flagNV) else (.inf (a != n), 0)
  | .inf a, .inf b => (.inf (a != b), 0)
  | .num n1 m1 e1, .num n2 m2 e2 => (.num (n1 != n2) (m1 * m2) (e1 + e2), 0)
  | _, _ => (.nan false, 0)

/-- The parameters of a vector FP operation: format, rounding mode, flush (R134). -/
structure FpCtl where
  f : Fmt
  rm : Nat
  flush : Nat
  deriving DecidableEq, Repr

/-- Reads an operand under input flushing. -/
def fpIn (c : FpCtl) (bits : Nat) : FpVal := fpVal c.f (flushIn c.f c.flush bits)

/-- Rounds an exact result with the flags so far. -/
def fpOut (c : FpCtl) (v : FpVal) (fl : BitVec 5) : Nat × BitVec 5 :=
  let r := roundFp c.f c.rm c.flush v
  (r.1, r.2 ||| fl)

def fpAdd (c : FpCtl) (a b : Nat) : Nat × BitVec 5 :=
  let x := fpIn c a; let y := fpIn c b
  let r := addVal c.rm x y
  fpOut c r.1 (r.2 ||| snanFlag [x, y])

def fpSub (c : FpCtl) (a b : Nat) : Nat × BitVec 5 :=
  let x := fpIn c a; let y := fpIn c b
  let r := addVal c.rm x (negVal y)
  fpOut c r.1 (r.2 ||| snanFlag [x, y])

def fpMul (c : FpCtl) (a b : Nat) : Nat × BitVec 5 :=
  let x := fpIn c a; let y := fpIn c b
  let r := mulVal x y
  fpOut c r.1 (r.2 ||| snanFlag [x, y])

/-- Division (R155). -/
def fpDiv (c : FpCtl) (a b : Nat) : Nat × BitVec 5 :=
  let x := fpIn c a; let y := fpIn c b
  match x, y with
  | .nan _, _ => (c.f.nan, snanFlag [x, y])
  | _, .nan _ => (c.f.nan, snanFlag [x, y])
  | .inf _, .inf _ => (c.f.nan, flagNV)
  | .inf n, .num n' _ _ => fpOut c (.inf (n != n')) 0
  | .num n _ _, .inf n' => (fpZero c.f (n != n'), 0)
  | .num n m e, .num n' m' e' =>
    if m' = 0 then (if m = 0 then (c.f.nan, flagNV) else ((fpOut c (.inf (n != n')) flagDZ)))
    else if m = 0 then (fpZero c.f (n != n'), 0)
    else roundNum c.f c.rm c.flush (n != n') m m' (e - e')

/-- The fused forms (R156): ±(a·b) ± c, rounded once. -/
def fpFma (c : FpCtl) (negProd negAdd : Bool) (a b addend : Nat) : Nat × BitVec 5 :=
  let x := fpIn c a; let y := fpIn c b; let z := fpIn c addend
  let p := mulVal x y
  let r := addVal c.rm (if negProd then negVal p.1 else p.1) (if negAdd then negVal z else z)
  fpOut c r.1 (p.2 ||| r.2 ||| snanFlag [x, y, z])

/-- a < b on numbers and infinities; false with a NaN. −0 is not below +0. -/
def fpLtVal : FpVal → FpVal → Bool
  | .nan _, _ => false
  | _, .nan _ => false
  | .inf a, .inf b => a && ! b
  | .inf a, _ => a
  | _, .inf b => ! b
  | .num n1 m1 e1, .num n2 m2 e2 =>
    let e := min e1 e2
    decide ((if n1 then -1 else 1) * ((m1 * 2 ^ (e1 - e).toNat : Nat) : Int)
      < (if n2 then -1 else 1) * ((m2 * 2 ^ (e2 - e).toNat : Nat) : Int))

def fpEqVal (a b : FpVal) : Bool :=
  match a, b with
  | .nan _, _ => false
  | _, .nan _ => false
  | _, _ => ! fpLtVal a b && ! fpLtVal b a

/-- a is below b with −0 below +0 (R157). -/
def fpBelow (c : FpCtl) (a b : Nat) : Bool :=
  fpLtVal (fpIn c a) (fpIn c b) || (fpEqVal (fpIn c a) (fpIn c b) && fpNeg c.f a && ! fpNeg c.f b)

/-- minimumNumber and maximumNumber (R157). -/
def fpMinMax (c : FpCtl) (wantMax : Bool) (a b : Nat) : Nat × BitVec 5 :=
  let a' := flushIn c.f c.flush a; let b' := flushIn c.f c.flush b
  let fl := snanFlag [fpVal c.f a, fpVal c.f b]
  if fpIsNan c.f a then (if fpIsNan c.f b then (c.f.nan, fl) else (b', fl))
  else if fpIsNan c.f b then (a', fl)
  else (if fpBelow c a b then (if wantMax then b' else a') else (if wantMax then a' else b'), fl)

/-- The sign transfers of R158 on patterns. -/
def fpSign (f : Fmt) (g : Bool → Bool → Bool) (a b : Nat) : Nat :=
  a % f.signBit + fpZero f (g (fpNeg f a) (fpNeg f b))

/-- ⌊√n⌋, bit by bit from bit k − 1 down. -/
def isqrtFrom (n : Nat) : Nat → Nat → Nat
  | 0, r => r
  | k + 1, r => isqrtFrom n k (if (r + 2 ^ k) * (r + 2 ^ k) ≤ n then r + 2 ^ k else r)

/-- The square root rounded once (R173). -/
def fpSqrt (c : FpCtl) (a : Nat) : Nat × BitVec 5 :=
  match fpIn c a with
  | .nan s => (c.f.nan, if s then flagNV else 0)
  | .inf n => if n then (c.f.nan, flagNV) else fpOut c (.inf false) 0
  | .num n m e =>
    if m = 0 then (fpZero c.f n, 0)
    else if n then (c.f.nan, flagNV)
    else
      let k := 2 * c.f.fb + 8
      let odd := e % 2 != 0
      let m' := (if odd then 2 * m else m) * 2 ^ (2 * k)
      let e' := (if odd then e - 1 else e) / 2 - k
      let r := isqrtFrom m' (m'.log2 / 2 + 1) 0
      if r * r = m' then roundNum c.f c.rm c.flush false r 1 e'
      else roundNum c.f c.rm c.flush false (2 * r + 1) 1 (e' - 1)

/-- The class code of R173. -/
def fpClass (f : Fmt) (a : Nat) : Nat :=
  (match fpVal f a with
    | .nan s => if s then 5 else 4
    | .inf _ => 3
    | .num _ m _ => if m = 0 then 0 else if fpSubnormal f a then 1 else 2) + (if fpNeg f a then 8 else 0)

/-- Rounding to an integral value of the same format (R173). -/
def fpRint (c : FpCtl) (a : Nat) : Nat × BitVec 5 :=
  match fpIn c a with
  | .nan s => (c.f.nan, if s then flagNV else 0)
  | .inf n => (fpInf c.f n, 0)
  | .num n m e =>
    if m = 0 ∨ 0 ≤ e then (flushIn c.f c.flush a, 0)
    else
      let q := roundGrid c.rm n m 1 e 0
      let r := roundFp c.f c.rm 0 (.num n q.1 0)
      (r.1, if q.2 then flagNX else 0)

/-- Conversion of an integer to FP (R174). -/
def fpOfInt (c : FpCtl) (v : Int) : Nat × BitVec 5 := roundFp c.f c.rm c.flush (.num (decide (v < 0)) v.natAbs 0)

/-- Conversion of FP to an integer of w bits (R174): saturation raises NV and no NX; a NaN gives the largest value. -/
def fpToInt (c : FpCtl) (signed : Bool) (w : Nat) (a : Nat) : Int × BitVec 5 :=
  let lo : Int := if signed then -(2 : Int) ^ (w - 1) else 0
  let hi : Int := if signed then (2 : Int) ^ (w - 1) - 1 else (2 : Int) ^ w - 1
  match fpIn c a with
  | .nan _ => (hi, flagNV)
  | .inf n => (if n then lo else hi, flagNV)
  | .num n m e =>
    let q := roundGrid c.rm n m 1 e 0
    let v : Int := if n then -(q.1 : Int) else q.1
    if v < lo then (lo, flagNV) else if hi < v then (hi, flagNV) else (v, if q.2 then flagNX else 0)

/-- Conversion between formats (R176): input flushing in the source format, one rounding in the destination's. DEDUCED (log 53): a
subnormal result of a widening is flushed under FLUSH 1 and 2 as R76 has it for every result, though R176 calls widening exact. -/
def fpConvert (src : Fmt) (c : FpCtl) (a : Nat) : Nat × BitVec 5 :=
  let v := fpVal src (flushIn src c.flush a)
  let r := roundFp c.f c.rm c.flush v
  (r.1, r.2 ||| snanFlag [v])

/-! ## Sum words (R68, R94, R95) -/

/-- x · 2^64 for a finite value, to the nearest integer with ties to even. -/
def toGrid (neg : Bool) (m : Nat) (e : Int) : Int :=
  let q := (roundGrid 0 neg m 1 e (-64)).1
  if neg then -(q : Int) else q

/-- SumAdd (R68) on a 128-bit sum word: the new word and NV or OF. -/
def sumAdd (w : BitVec 128) : FpVal → BitVec 128 × BitVec 5
  | .nan _ => (w, flagNV)
  | .inf neg => (if neg then BitVec.intMin 128 else BitVec.intMax 128, flagOF)
  | .num neg m e =>
    let s := w.toInt + toGrid neg m e
    if (2 : Int) ^ 127 - 1 < s then (BitVec.intMax 128, flagOF)
    else if s < -(2 : Int) ^ 127 then (BitVec.intMin 128, flagOF)
    else (BitVec.ofInt 128 s, 0)

/-- r(w), the sum of the 12-bit chunks of a pattern mod 4,095; the topmost chunk holds what is left (R96, R436). -/
def residueOf {n : Nat} (w : BitVec n) : Nat :=
  ((List.range ((n + 11) / 12)).map fun i => (w.extractLsb' (12 * i) 12).toNat).sum % 4095

/-- The residue that an adder expects of w + c: a carry out of the top subtracts 2^n, which is 256 mod 4,095 at 128 and at 140
bits (R96, R436). -/
def expectedResidue {n : Nat} (w c : BitVec n) : Nat :=
  let r := (residueOf w + residueOf c) % 4095
  if 2 ^ n ≤ w.toNat + c.toNat then (r + (4095 - 256)) % 4095 else r

/-- The contribution of a number as a pattern. -/
def contributionWord (n : Nat) (neg : Bool) (m : Nat) (e : Int) : BitVec n := BitVec.ofInt n (toGrid neg m e)

/-- The residue of a stored sum is the one expected; where the add saturates, or adds no number, it is taken from the result
(R96). -/
def sumChecks (w : BitVec 128) (x : FpVal) : Bool :=
  match x with
  | .num neg m e =>
    let r := sumAdd w x
    r.2 != 0 || residueOf r.1 == expectedResidue w (contributionWord 128 neg m e)
  | _ => true

/-- The value of a sum word. -/
def sumVal (w : BitVec 128) : FpVal := .num (decide (w.toInt < 0)) w.toInt.natAbs (-64)

/-- The rounded read-out of a sum word: FLUSH 0, RNE, no flags (R95). -/
def sumRound (f : Fmt) (w : BitVec 128) : Nat := (roundFp f 0 0 (sumVal w)).1

end Sys2Proof.Machine
end

