-- ==== Sys2Proof/Machine/Atomic.lean ====
section
/-! DEFINITION. Atomics at their home (R203, R205, R213, R359): the new value, the returned value, the adder's residue check
(R96, R97), performed there at once or sent as a request (R312). -/

namespace Sys2Proof.Machine

/-- Bytes that an atomic reads and writes. -/
def atomicSize : AtomicOp → Nat
  | .fadd | .fadds => 16
  | .addw => 4
  | _ => 8

/-- The contribution of an operand to a sum word. -/
def contribution (op : AtomicOp) (v : Word) : FpVal :=
  match op with
  | .fadds => fpVal fp32 (v.toNat % 2 ^ 32)
  | _ => fpVal fp64 v.toNat

/-- The new value at the address. -/
def atomicValue (op : AtomicOp) (v : Word) (old : Nat) : Nat :=
  let x : Word := BitVec.ofNat 64 old
  match op with
  | .add => (x + v).toNat
  | .and => (x &&& v).toNat
  | .or => (x ||| v).toNat
  | .xor => (x ^^^ v).toNat
  | .min => (if v.slt x then v else x).toNat
  | .max => (if x.slt v then v else x).toNat
  | .minu => (if v.ult x then v else x).toNat
  | .maxu => (if x.ult v then v else x).toNat
  | .fadd | .fadds => (sumAdd (BitVec.ofNat 128 old) (contribution op v)).1.toNat
  | .addw => (old + v.toNat) % 2 ^ 32

/-- The flags that a sum-word add returns (R68). -/
def atomicFlags (op : AtomicOp) (v : Word) (old : Nat) : BitVec 5 :=
  match op with
  | .fadd | .fadds => (sumAdd (BitVec.ofNat 128 old) (contribution op v)).2
  | _ => 0

/-- The operation uses an adder, which its residue checks (R30). -/
def isAdder : AtomicOp → Bool
  | .add | .addw | .fadd | .fadds => true
  | .and | .or | .xor | .min | .max | .minu | .maxu => false

/-- Mismatches in a row that the adder of an atomic meets: those of this turn, and more where a sum word fails the check. -/
def adderMisses (op : AtomicOp) (v : Word) (old : Nat) (s : State) : Nat :=
  if ! isAdder op then 0
  else
    match op with
    | .fadd | .fadds => if sumChecks (BitVec.ofNat 128 old) (contribution op v) then s.turn.residue else 2
    | _ => s.turn.residue

/-- An adder's check of an add at an address (R97): a mismatch repeats the add and is logged; a second one in a row marks the
sector's data and fails. -/
def checkAdd (misses a : Nat) (s : State) : Bool × State :=
  let s1 := if misses = 0 then s else logEvent (fpaNode a) .residueRepeat (fpaPeer a) [a] s
  if misses < 2 then (true, s1) else (false, markBad (a / 64) s1)

/-- An atomic performs at its home: the flags that it returns, or why it fails. -/
def atomicAt (op : AtomicOp) (v : Word) (p : Phys) (s : State) : Except FatalCause (BitVec 5) × State :=
  let n := atomicSize op
  if memoryBad s .atomic p.fpa n then (.error .memoryError, s)
  else
    let old := memRead s p.key p.fpa n
    let r := checkAdd (adderMisses op v old s) p.fpa s
    if r.1 then (.ok (atomicFlags op v old), memWrite p.key p.fpa n (atomicValue op v old) r.2) else (.error .residue, r.2)

/-- A read-modify-write of the current thread at the home: its flags, which a request's acknowledgement brings later (R206). -/
def atomicRef (r : Ref) (op : AtomicOp) (v : Word) : Op (BitVec 5) := do
  if ← read (isRemote · r.fpa) then do
    update (sendPacket r (atomicSize op) none (.atomic op v))
    pure 0
  else do
    notHeld r.fpa (atomicSize op)
    match ← read fun s => targetFault s .atomic (myPeer s) s.thr.host s.thr.k.ctxid r.fpa (atomicSize op) with
    | some c => raise (.fatal c r.fpa)
    | none => do
      let o ← read fun s => atomicAt op v ⟨r.fpa, r.key⟩ s
      update fun _ => o.2
      match o.1 with
      | .ok fl => pure fl
      | .error c => raise (.fatal c r.fpa)

/-! ## Value-returning operations -/

/-- Bytes that an operation reads; a claim reads both halves of its word. -/
def fetchSize : FetchOp → Nat
  | .claim _ => 16
  | _ => 8

/-- What a claim of at most n takes of a claim word (R359). -/
def claimTakes (n next limit : Nat) : Nat := if next < limit then min n (limit - next) else 0

/-- The new value of the 8 bytes at the address, where something is written. -/
def fetchValue (op : FetchOp) (old : Nat) : Option Nat :=
  match op with
  | .add v => some ((old + v.toNat) % 2 ^ 64)
  | .swap v => some v.toNat
  | .cas want new => if old = want.toNat then some new.toNat else none
  | .claim n => some ((old % 2 ^ 64 + claimTakes n (old % 2 ^ 64) (old / 2 ^ 64)) % 2 ^ 64)

/-- Mismatches in a row that the adder of an operation meets. -/
def fetchMisses (op : FetchOp) (s : State) : Nat := match op with | .add _ => s.turn.residue | _ => 0

/-- A value-returning operation performs at its home: the old value, or why it fails. -/
def fetchAt (op : FetchOp) (p : Phys) (s : State) : Except FatalCause Nat × State :=
  if memoryBad s .atomic p.fpa (fetchSize op) then (.error .memoryError, s)
  else
    let old := memRead s p.key p.fpa (fetchSize op)
    let r := checkAdd (fetchMisses op s) p.fpa s
    if r.1 then
      (.ok old, match fetchValue op old with | some v => memWrite p.key p.fpa 8 v r.2 | none => r.2)
    else (.error .residue, r.2)

/-- A value-returning operation of the current thread. -/
def fetchRef (r : Ref) (op : FetchOp) : Op Nat := do
  if ← read (isRemote · r.fpa) then do
    let x ← ask r (fetchSize op) (.fetch op)
    pure x.val
  else do
    notHeld r.fpa (fetchSize op)
    match ← read fun s => targetFault s .atomic (myPeer s) s.thr.host s.thr.k.ctxid r.fpa (fetchSize op) with
    | some c => raise (.fatal c r.fpa)
    | none => do
      let o ← read fun s => fetchAt op ⟨r.fpa, r.key⟩ s
      update fun _ => o.2
      match o.1 with
      | .ok v => pure v
      | .error c => raise (.fatal c r.fpa)

end Sys2Proof.Machine
end

