-- ==== Sys2Proof/Machine/Vector.lean ====
section
/-! DEFINITION. Vector state and what an entry of the vector queue reads and writes: element width and format (R76, R129,
R130, R134), elements and mask bits (R128), active positions (R66), writes through the result buffer (R142, R144, R151). -/

namespace Sys2Proof.Machine

/-! ## `vtype` (R76, R77, R130, R134) -/

def vtSew (v : BitVec 9) : Nat := 8 * 2 ^ (v.extractLsb' 0 2).toNat
def vtFpsel (v : BitVec 9) : Nat := (v.extractLsb' 2 2).toNat
def vtFlush (v : BitVec 9) : Nat := (v.extractLsb' 4 2).toNat
def vtRm (v : BitVec 9) : Nat := (v.extractLsb' 6 3).toNat

/-- A value that `vtype` accepts (R77). -/
def vtypeOk (v : BitVec 9) : Bool :=
  decide (vtFpsel v < 2) && (vtFpsel v == 0 || decide (vtSew v < 32)) && decide (vtFlush v < 3) && decide (vtRm v < 5)

/-- The vector FP format of a width under an FPSEL (R76). -/
def fmtAt (w fpsel : Nat) : Fmt :=
  if w = 64 then fp64 else if w = 32 then fp32
  else if w = 16 then (if fpsel = 1 then bf16 else fp16)
  else (if fpsel = 1 then fpE5M2 else fpE4M3)

def vtFmt (v : BitVec 9) : Fmt := fmtAt (vtSew v) (vtFpsel v)

/-- Format, rounding mode and flush of a captured `vtype`. -/
def vtCtl (v : BitVec 9) : FpCtl := ⟨vtFmt v, vtRm v, vtFlush v⟩

/-- VLMAX of a mode and a width (R130). -/
def vlmaxOf (long : Bool) (w : Nat) : Nat := (if long then 8192 else 256) / w

def isLong (t : Thread) : Bool := t.v.long.isSome
def vlmax (t : Thread) : Nat := vlmaxOf (isLong t) (vtSew t.u.vtype)

/-- The elements that a vector word works on: `vl`, and none at or above VLMAX, which a trap's `vtype` may lower under `vl`
(R130, R160, R370). -/
def vecLen (t : Thread) : Nat := min t.u.vl.toNat (vlmax t)

/-! ## Registers and masks -/

/-- The content of a vector register in a mode. -/
def vreg (t : Thread) (long : Bool) (r : Nat) : VReg :=
  if long then (match t.v.long with | some c => vget c.regs r 0 | none => 0)
  else (vget t.v.short r 0).setWidth 8192

/-- The content of a mask in a mode. -/
def mreg (t : Thread) (long : Bool) (k : Nat) : MReg :=
  if long then (match t.v.long with | some c => vget c.masks k 0 | none => 0)
  else (vget t.v.smask k 0).setWidth 1024

/-- Element i of a register at width w. -/
def elemOf (x : VReg) (w i : Nat) : BitVec w := x.extractLsb' (i * w) w

/-- A register with element i at width w replaced. -/
def setElem {n : Nat} (x : BitVec n) (w i : Nat) (v : BitVec w) : BitVec n :=
  (x &&& ~~~ (((BitVec.allOnes w).setWidth n) <<< (i * w))) ||| ((v.setWidth n) <<< (i * w))

/-- Writes element i at width w: in long mode the register becomes dirty and its high-water mark rises (R151); the landed
bit of its element group is set (R144). -/
def writeElem (long : Bool) (r i w : Nat) (v : Word) (t : Thread) : Thread :=
  let g := i * w / 256
  let landed := vset t.v.landed r (setBit (vget t.v.landed r 0) g true)
  if long then
    match t.v.long with
    | some c => { t with v := { t.v with landed := landed, long := some { c with
        regs := vset c.regs r (setElem (vget c.regs r 0) w i (v.setWidth w))
        dirty := vset c.dirty r true
        hw := vset c.hw r (if (vget c.hw r 0).toNat < g then BitVec.ofNat 5 g else vget c.hw r 0) } } }
    | none => t
  else { t with v := { t.v with landed := landed,
                                short := vset t.v.short r (setElem (vget t.v.short r 0) w i (v.setWidth w)) } }

/-- Writes bit i of a mask. -/
def writeMaskBit (long : Bool) (k i : Nat) (b : Bool) (t : Thread) : Thread :=
  if long then
    match t.v.long with
    | some c => { t with v := { t.v with long := some { c with masks := vset c.masks k (setBit (vget c.masks k 0) i b) } } }
    | none => t
  else { t with v := { t.v with smask := vset t.v.smask k (setBit (vget t.v.smask k 0) i b) } }

/-- Performs one write of the result buffer. -/
def applyWrite (long : Bool) (t : Thread) : VWrite → Thread
  | .elem r i w v => writeElem long r i w v t
  | .bit k i b => writeMaskBit long k i b t
  | .push q v => setQueue q (queueAt t q ++ [v]) t

/-! ## Fields of a vector instruction -/

/-- The four operand fields of a vector-stream word, whatever they name: [25:19], [18:12], [11:5] and msel. -/
structure VFields where
  d : Nat
  a : Nat
  b : Nat
  m : Nat
  deriving DecidableEq, Repr

/-- The fields at a repeat (R54). -/
def VFields.atRepeat (f : VFields) (p : Option RepPrefix) (j : Nat) : VFields :=
  match p with
  | none => f
  | some p => { f with d := if p.stepD then f.d + j * p.step else f.d
                       a := if p.stepA then f.a + j * p.step else f.a
                       b := if p.stepB then f.b + j * p.step else f.b }

/-- What a running entry sees: the thread's registers, the entry, the fields of the repeat, and the values of its scalar
fields at [18:12] and [11:5]. -/
structure LaneCtx where
  t : Thread
  e : VEntry
  f : VFields
  sa : Word
  sb : Word

namespace LaneCtx

variable (c : LaneCtx)

def w : Nat := vtSew c.e.vtype
def ctl : FpCtl := vtCtl c.e.vtype
def vmax : Nat := vlmaxOf c.e.long (vtSew c.e.vtype)

/-- Position i is active (R66). -/
def active (i : Nat) : Bool :=
  decide (c.e.vstart ≤ i) && decide (i < c.e.vl) && (c.f.m == 0 || (mreg c.t c.e.long (c.f.m - 1)).getLsbD i)

/-- Element i of a vector register field at a width. -/
def elem (w f i : Nat) : BitVec w := elemOf (vreg c.t c.e.long f) w i

/-- Operand a at position i and width w: a register element, or the broadcast scalar (R43, R153). -/
def opA (w i : Nat) : BitVec w := if c.f.a < 48 then c.elem w c.f.a i else c.sa.setWidth w
def opB (w i : Nat) : BitVec w := if c.f.b < 48 then c.elem w c.f.b i else c.sb.setWidth w
def opD (w i : Nat) : BitVec w := c.elem w c.f.d i

/-- Bit i of the mask that a field names. -/
def maskBit (k i : Nat) : Bool := (mreg c.t c.e.long k).getLsbD i

/-- The result element i of the entry. -/
def put (i : Nat) (v : Nat) (fl : BitVec 5) : List VWrite × BitVec 5 :=
  ([.elem c.f.d i c.w (BitVec.ofNat 64 v)], fl)

end LaneCtx

/-- How an entry runs: element by element; as a whole (R161); element by element on memory, after checks that precede the
first element; a tensor store, element by element where its captured format is raw and else as a whole, all or nothing; a
fence marker; a link entry of the Truss. -/
inductive VSem where
  | lanes (f : LaneCtx → Nat → List VWrite × BitVec 5)
  | whole (f : LaneCtx → List VWrite × BitVec 5)
  | mem (pre : LaneCtx → Op Unit) (f : LaneCtx → Nat → Op (List VWrite × BitVec 5))
  | tensor (pre : LaneCtx → Op Unit) (f : LaneCtx → Nat → Op (List VWrite × BitVec 5)) (whole : LaneCtx → Op (BitVec 5))
  | marker
  | link

/-- An integer lane operation of two operands (R154). -/
def lane2 (g : (w : Nat) → BitVec w → BitVec w → BitVec w) : VSem :=
  .lanes fun c i => c.put i (g c.w (c.opA c.w i) (c.opB c.w i)).toNat 0

/-- An FP lane operation of two operands (R155, R157). -/
def laneF2 (g : FpCtl → Nat → Nat → Nat × BitVec 5) : VSem :=
  .lanes fun c i => let r := g c.ctl (c.opA c.w i).toNat (c.opB c.w i).toNat; c.put i r.1 r.2

/-- An FP lane operation with the addend in vd (R156). -/
def laneF3 (g : FpCtl → Nat → Nat → Nat → Nat × BitVec 5) : VSem :=
  .lanes fun c i =>
    let r := g c.ctl (c.opA c.w i).toNat (c.opB c.w i).toNat (c.opD c.w i).toNat
    c.put i r.1 r.2

/-- An integer lane operation of one operand (R172). -/
def lane1 (g : (w : Nat) → BitVec w → BitVec w) : VSem :=
  .lanes fun c i => c.put i (g c.w (c.opA c.w i)).toNat 0

/-- An FP lane operation of one operand (R173, R174). -/
def laneF1 (g : FpCtl → Nat → Nat × BitVec 5) : VSem :=
  .lanes fun c i => let r := g c.ctl (c.opA c.w i).toNat; c.put i r.1 r.2

/-- A comparison into a mask (R160). -/
def laneCmp (g : LaneCtx → Nat → Bool × BitVec 5) : VSem :=
  .lanes fun c i => let r := g c i; ([.bit (c.f.d % 16) i r.1], r.2)

/-! ## What the fields of a vector-stream word name (R42 to R46, R54, R185) -/

/-- The kinds of a 7-bit field. -/
inductive FieldKind where
  /-- Not named by the form: zero in the word. -/
  | unused
  | vreg
  /-- A vector register or a broadcast scalar. -/
  | vop
  | scalar
  /-- q0 to q3. -/
  | queue
  /-- A vector register or q0 to q3. -/
  | vregOrQueue
  | mask
  /-- The destination field of `vcmp`: [3:0] a mask, [6:4] the condition. -/
  | cmpDest
  deriving DecidableEq, Repr

/-- A value that a field of a kind may hold. -/
def fieldOk : FieldKind → Nat → Bool
  | .unused, n => n == 0
  | .vreg, n => decide (n < 48)
  | .vop, n => decide (n < 48) || decide (64 ≤ n ∧ n < 128)
  | .scalar, n => decide (n < 120) || n == 124 || n == 125
  | .queue, n => decide (120 ≤ n ∧ n < 124)
  | .vregOrQueue, n => decide (n < 48) || decide (120 ≤ n ∧ n < 124)
  | .mask, n => decide (n < 12)
  | .cmpDest, n => decide (n % 16 < 12)

/-- The area that a stepped field must not leave: vector registers, masks, broadcast scalars, globals, windowed
registers, q0 to q3, q4 and q5 (R46, R54, R185). None is no area to step in. DESIGN CHOICE (log 82): the broadcast scalars s0 to s63
are one area (R54); the limits that R46 sets to groups of scalars, s1 to s7 and s8 up, are not asked of them. -/
def fieldArea : FieldKind → Nat → Option Nat
  | .vreg, n => if n < 48 then some 0 else none
  | .vop, n => if n < 48 then some 0 else if 64 ≤ n ∧ n < 128 then some 1 else none
  | .mask, n => if n < 12 then some 2 else none
  | .scalar, n => if n = 0 then none else if n < 8 then some 3 else if n < 120 then some 4
      else if n = 124 ∨ n = 125 then some 5 else none
  | .queue, n => if 120 ≤ n ∧ n < 124 then some 6 else none
  | .vregOrQueue, n => if n < 48 then some 0 else if 120 ≤ n ∧ n < 124 then some 6 else none
  | _, _ => none

/-- A field that a `rep` steps over its repeats: it stays in its area, and vector registers that it names one after the
other, 2, 4 or 8 of them, start at a multiple of their number (R46, log 21). -/
def steppedOk (k : FieldKind) (n count step : Nat) : Bool :=
  count == 1 ||
    ((fieldArea k n).isSome && fieldArea k (n + (count - 1) * step) == fieldArea k n
      && ! (step == 1 && fieldArea k n == some 0 && (count == 2 || count == 4 || count == 8) && n % count != 0))

/-- What the model knows of a vector-stream word: its fields, the conditions beyond R42 to R46 on the thread that issues it
(element width, `vl`, `vstart`, register pairs), and how its entry runs. -/
structure VSpec where
  kd : FieldKind
  ka : FieldKind
  kb : FieldKind
  extra : Thread → VFields → Bool
  sem : VSem

/-- The fields of a word at one repeat are legal (R47 step 4). -/
def VSpec.fieldsOk (v : VSpec) (t : Thread) (f : VFields) : Bool :=
  fieldOk v.kd f.d && fieldOk v.ka f.a && fieldOk v.kb f.b && v.extra t f

/-- No condition beyond the fields. -/
def anyState : Thread → VFields → Bool := fun _ _ => true

/-- FP instructions need SEW 16, 32 or 64 (R152, R160). -/
def fpWidth : Thread → VFields → Bool := fun t _ => decide (16 ≤ vtSew t.u.vtype)

/-- Whole-vector instructions need `vstart` 0 (R161). -/
def wholeVector : Thread → VFields → Bool := fun t _ => t.u.vstart == 0

/-- The coordinate generator (R67). -/
def hashH (k c : BitVec 32) : BitVec 32 :=
  let x := c ^^^ k
  let x := x ^^^ (x >>> 16)
  let x := x * 0x21F0AAAD#32
  let x := x ^^^ (x >>> 15)
  let x := x * 0x735A2D97#32
  x ^^^ (x >>> 15)

end Sys2Proof.Machine
end

