-- ==== Sys2Proof/Machine/Views.lean ====
section
/-! DEFINITION. Views of shape registers (R216, R218, R276), formats (R79 to R86), the dither (R67, R87), formatted reads
of an element and quantising writes of a unit (R88 to R90): shared by tensor memory, the Truss, copies and collectives. -/

namespace Sys2Proof.Machine

/-! ## Walking a view (R216) -/

/-- E, the number of elements. -/
def viewCount (t : ShapeReg) : Nat :=
  shapeExt t 0 * shapeExt t 1 * shapeExt t 2 * shapeExt t 3 * shapeExt t 4 * shapeExt t 5

/-- The index of element L in dimension d: L divided by the extents below, modulo the own extent but for dimension 5. -/
def viewIndex (t : ShapeReg) (l : Nat) : Nat → Nat
  | 0 => l % shapeExt t 0
  | 1 => l / shapeExt t 0 % shapeExt t 1
  | 2 => l / (shapeExt t 0 * shapeExt t 1) % shapeExt t 2
  | 3 => l / (shapeExt t 0 * shapeExt t 1 * shapeExt t 2) % shapeExt t 3
  | 4 => l / (shapeExt t 0 * shapeExt t 1 * shapeExt t 2 * shapeExt t 3) % shapeExt t 4
  | _ => l / (shapeExt t 0 * shapeExt t 1 * shapeExt t 2 * shapeExt t 3 * shapeExt t 4)

/-- The offset of element L in units of the strides. -/
def viewOffset (t : ShapeReg) (l : Nat) : Int :=
  ((List.range 6).map fun d => (viewIndex t l d : Int) * shapeStr t d).sum

/-- addr(L). -/
def viewAddr (t : ShapeReg) (l : Nat) : Word := shapeBase t + BitVec.ofInt 64 (viewOffset t l)

/-- The dither coordinates of element L: outer o and inner i (R87). -/
def viewOuter (t : ShapeReg) (l : Nat) : Nat := l / shapeExt t 0
def viewInner (t : ShapeReg) (l : Nat) : Nat := l % shapeExt t 0

/-- The nest offset of indices under the strides of a shape (R282). -/
def nestOffset (t : ShapeReg) (li : Vector (BitVec 16) 6) : Word :=
  BitVec.ofInt 64 ((List.range 6).map fun d => ((vget li d 0).toNat : Int) * shapeStr t d).sum

/-! ## Format bytes (R84) -/

def fmtRaw (f : BitVec 8) : Bool := f == 0x00
def fmtInt8 (f : BitVec 8) : Bool := f == 0x01 || f == 0x81
def fmtFp8 (f : BitVec 8) : Bool := f == 0x02 || f == 0x03
def fmtFp16 (f : BitVec 8) : Bool := f == 0x04 || f == 0x05
def fmtPlanes (f : BitVec 8) : Nat := f.toNat % 16
def fmtBitPlane (f : BitVec 8) : Bool :=
  (f.extractLsb' 4 3 == 2#3) && decide (2 ≤ fmtPlanes f ∧ fmtPlanes f ≤ 8)
def fmtDithered (f : BitVec 8) : Bool := f.getLsbD 7
def fmtAssigned (f : BitVec 8) : Bool := fmtRaw f || fmtInt8 f || fmtFp8 f || fmtFp16 f || fmtBitPlane f

/-- Bytes of an element of a format that is neither raw nor bit-plane. -/
def fmtSize (f : BitVec 8) : Nat := if fmtFp16 f then 2 else 1

/-- The FP format of a format byte of 0x02 to 0x05. -/
def fmtFloat (f : BitVec 8) : Fmt :=
  if f = 0x02 then fpE4M3 else if f = 0x03 then fpE5M2 else if f = 0x04 then bf16 else fp16

/-- A sector with this descriptor is accepted by a formatted read (R82); `p` is the plane for bit-plane formats. -/
def fmtAccepts (f : BitVec 8) (p : Nat) (sector : BitVec 8) : Bool :=
  if fmtBitPlane f then sector == (if fmtDithered f then 0x90 else 0x10) + BitVec.ofNat 8 p
  else sector == f || (fmtFp16 f && sector == 0x00)

/-- A bit-plane view is a whole tensor (R86, R218): a sector-aligned base, the dense stride in every dimension, E a multiple of
512. -/
def planeViewOk (t : ShapeReg) : Bool :=
  (shapeBase t).toNat % 64 == 0 && viewCount t % 512 == 0 &&
    (List.range 6).all fun d => shapeStr t d == (((List.range d).map (shapeExt t)).prod : Int)

/-- The byte of plane p that holds bits of element L (R218). -/
def planeAddr (t : ShapeReg) (l p : Nat) : Word :=
  shapeBase t + BitVec.ofNat 64 ((7 - p) * (viewCount t / 8) + l / 8)

/-! ## The dither (R67) -/

def ditherD (k c : BitVec 32) : Int := ((hashH k c).extractLsb' 23 9).toInt

/-- 512 · Dither(t, o, i). -/
def dither512 (t : ShapeReg) (o i : Nat) : Int :=
  let k := (shapeSeed t).setWidth 32
  let oo := BitVec.ofNat 16 (o + (shapeOrgO t).toNat)
  let ii := BitVec.ofNat 16 (i + (shapeOrgI t).toNat)
  ditherD k (0x80000000#32 ||| oo.setWidth 32) + ditherD k (ii.setWidth 32)

/-- 512 times the dither of an element where its format is dithered, else 0. -/
def viewDither (t : ShapeReg) (o i : Nat) : Int := if fmtDithered (shapeFmt t) then dither512 t o i else 0

/-! ## Exact values of codes (R80, R85) -/

/-- n · 2^e as a value. -/
def intVal (n : Int) (e : Int) : FpVal := .num (decide (n < 0)) n.natAbs e

/-- The exact value of an 8-bit code under a scale byte in 1 to 254. -/
def codeVal (f : BitVec 8) (planes : Nat) (c : BitVec 8) (d512 : Int) (scale : Nat) : FpVal :=
  let s : Int := (scale : Int) - 127
  if fmtFp8 f then
    match fpVal (fmtFloat f) c.toNat with
    | .num n m e => .num n m (e + s)
    | .inf n => .inf n
    | .nan _ => .nan false
  else if fmtBitPlane f then
    let cp := c.toInt / (2 : Int) ^ (8 - planes)
    let mid : Int := if planes < 8 then cp * 2 ^ (8 - planes) + 2 ^ (7 - planes) else cp
    intVal (512 * mid - d512) (s - 9)
  else intVal (512 * c.toInt - d512) (s - 9)

/-- What a formatted read of one element gives: its exact value and whether its group is non-finite, or the address of the
sector that the format refuses (R82). -/
inductive ViewRead where
  | value (v : FpVal) (nonFinite : Bool)
  | refused (sector : Word)
  deriving DecidableEq, Repr

/-- A sector as a formatted read sees it (R83, R189). -/
def loadSector (r : Ref) : Op WinLine := do
  if r.win then windowRead r
  else if ← read (isRemote · r.fpa) then do
    let x ← ask r.sector 64 .sector
    pure (x.toLine r.key)
  else do
    let a := r.fpa / 64 * 64
    arrive .load a 64
    read fun s => { data := BitVec.ofNat 512 (memRead s r.key a 64), fmt := (sectorOf s (r.fpa / 64)).fmt,
                    scale := (sectorOf s (r.fpa / 64)).scale, key := r.key }

/-- Byte j of a sector. -/
def sectorByte (l : WinLine) (j : Nat) : BitVec 8 := l.data.extractLsb' (8 * j) 8

/-- The address of the sector of an address. -/
def sectorVa (a : Word) : Word := a - BitVec.ofNat 64 (a.toNat % 64)

/-- The value of a code in its group, e = 0 and e = 255 taken first (R80). -/
def groupVal (t : ShapeReg) (planes : Nat) (o i : Nat) (scale : BitVec 8) (c : BitVec 8) : ViewRead :=
  if scale = 0 then .value (.num false 0 0) false
  else if scale = 255 then .value (.nan false) true
  else .value (codeVal (shapeFmt t) planes c (viewDither t o i) scale.toNat) false

/-- The checks of the planes of element L, in the order given (R198, R219). -/
def checkPlanes (km : Bool) (t : ShapeReg) (l : Nat) : List Nat → Op (List Ref)
  | [] => pure []
  | p :: ps => do
    let r ← access .load km 1 (planeAddr t l p)
    let rs ← checkPlanes km t l ps
    pure (r :: rs)

/-- The planes of element L, checked before: the bits read so far, the scale of plane 7, or a refusal. -/
def readPlanes (t : ShapeReg) (l : Nat) (scale : BitVec 8) (acc : BitVec 8) :
    List (Nat × Ref) → Op (Except Word (BitVec 8 × BitVec 8))
  | [] => pure (.ok (scale, acc))
  | (p, r) :: ps => do
    let x ← loadSector r
    if fmtAccepts (shapeFmt t) p x.fmt then
      readPlanes t l (if p = 7 then x.scale else scale)
        (setBit acc p ((sectorByte x (r.fpa % 64)).getLsbD (l % 8))) ps
    else pure (.error (sectorVa (planeAddr t l p)))

/-- Reads element L of a view of a format other than raw, with checks of its access (R82, R84, R85); `planes` is how many
planes a bit-plane read takes. -/
def readView (km : Bool) (t : ShapeReg) (planes l : Nat) : Op ViewRead := do
  let f := shapeFmt t
  if fmtBitPlane f then
    let order := (List.range planes).map fun k => 7 - k
    let rs ← checkPlanes km t l order
    match ← readPlanes t l 0 0 (order.zip rs) with
    | .error a => pure (.refused a)
    | .ok (scale, c) => pure (groupVal t planes (viewOuter t l) (viewInner t l) scale c)
  else do
    let a := viewAddr t l
    let r ← access .load km (fmtSize f) a
    let x ← loadSector r
    if ! fmtAccepts f 0 x.fmt then pure (.refused (sectorVa a))
    else
      let off := r.fpa % 64
      if fmtFp16 f then
        pure (.value (fpVal (fmtFloat f) ((sectorByte x off).toNat + 256 * (sectorByte x (off + 1)).toNat)) false)
      else pure (groupVal t 8 (viewOuter t l) (viewInner t l) x.scale (sectorByte x off))

/-! ## Quantising a group (R88 to R90) -/

/-- ⌈log2⌉ of num/den · 2^e. -/
def ceilLog (num den : Nat) (e : Int) : Int :=
  let k := floorLog num den e
  if den * 2 ^ (k - e).toNat = num * 2 ^ (e - k).toNat then k else k + 1

/-- The magnitude that one code step below saturation stands for. -/
def fmtMax (f : BitVec 8) : Nat := if f = 0x02 then 448 else if f = 0x03 then 57344 else 126

/-- The unclamped scale that a nonzero magnitude asks for. -/
def wantScale (f : BitVec 8) (m : Nat) (e : Int) : Int := ceilLog m (fmtMax f) e + 127

/-- The largest unclamped scale over the nonzero values. -/
def groupScale (f : BitVec 8) (vs : List FpVal) : Option Int :=
  vs.foldl (fun acc v => match v with
    | .num _ m e => if m = 0 then acc else
        some (match acc with | none => wantScale f m e | some x => max x (wantScale f m e))
    | _ => acc) none

/-- The code of a value (R89): integer codes with the dither, FP8 codes without overflow. -/
def codeOf (f : BitVec 8) (d512 : Int) (scale : Int) : FpVal → BitVec 8
  | .num neg m e =>
    let e' := e - (scale - 127)
    if fmtFp8 f then
      let g := fmtFloat f
      let r := roundFp g 0 0 (.num neg m e')
      BitVec.ofNat 8 (if r.2 &&& flagOF ≠ 0 then g.maxBits + fpZero g neg else r.1)
    else
      match addNum 0 neg m e' (decide (d512 < 0)) d512.natAbs (-9) with
      | .num n k x =>
        let q := (roundGrid 0 n k 1 x 0).1
        BitVec.ofInt 8 (max (-128) (min (if n then -(q : Int) else q) 127))
      | _ => 0
  | _ => 0

/-- A value is below half a step of a scale. -/
def belowHalf (scale : Int) (m : Nat) (e : Int) : Bool :=
  decide (m * 2 ^ (e - (scale - 128)).toNat < 2 ^ (scale - 128 - e).toNat)

/-- The scale byte, the codes and the flags of a group of values with 512 times their dithers (R88 to R90). DESIGN CHOICE (log 83):
for UF the FP8 code 0x80, a zero of negative sign, counts as code 0, which R90 names alone. -/
def quantise (f : BitVec 8) (vs : List (FpVal × Int)) : BitVec 8 × List (BitVec 8) × BitVec 5 :=
  if vs.any fun v => match v.1 with | .num _ _ _ => false | _ => true then (255, vs.map fun _ => 0, flagNV)
  else match groupScale f (vs.map Prod.fst) with
    | none => (0, vs.map fun _ => 0, 0)
    | some want =>
      let e := max 1 (min want 254)
      let codes := vs.map fun v => codeOf f v.2 e v.1
      let under := decide (want < 1) && (vs.zip codes).any fun p => match p.1.1 with
        | .num _ m x => m != 0 && (if fmtDithered f then belowHalf e m x
            else p.2 == 0 || (fmtFp8 f && p.2 == 0x80))
        | _ => false
      (BitVec.ofInt 8 e, codes, if 254 < want then flagOF else if under then flagUF else 0)

/-! ## Writing whole units (R83, R220) -/

/-- The elements of a view that lie, with all or part of their bytes, in the sector at an address, rising. -/
def sectorElems (t : ShapeReg) (esize : Nat) (va : Word) : List Nat :=
  (List.range (viewCount t)).filter fun l =>
    decide (((viewAddr t l) - va).toNat < 64) || decide ((va - (viewAddr t l)).toNat < esize)

/-- Every byte of the sector is the location of exactly one element (R220). -/
def sectorCovered (t : ShapeReg) (esize : Nat) (va : Word) : Bool :=
  let es := sectorElems t esize va
  (List.range 64).all fun j =>
    es.countP (fun l => decide ((va + BitVec.ofNat 64 j - viewAddr t l).toNat < esize)) == 1

/-- The bytes of a sector as one number, byte 0 the least significant. -/
def packBytes (f : Nat → BitVec 8) : BitVec 512 := BitVec.ofNat 512 (leNat f 64)

/-- Writes one sector as one access, with its descriptor; lines of the Span's L1 are removed first (R83, R188). -/
def writeSector (km : Bool) (va : Word) (data : BitVec 512) (fmt scale : BitVec 8) : Op Unit := do
  let r ← access .store km 64 va
  update (l1Remove r.fpa 64)
  if ← read (isRemote · r.fpa) then update (sendPacket r 64 none (.put data fmt scale))
  else do
    arrive .store r.fpa 64
    update (sectorWrite r.key (r.fpa / 64) data fmt scale)

/-- Writes the sector at va of a view of 8-bit codes or of 16-bit floats, each element's exact value given; returns the
flags. 16-bit values are rounded under rm and flush, and a signalling NaN among them raises NV (R75). -/
def writeUnit (km : Bool) (t : ShapeReg) (rm flush : Nat) (va : Word) (val : Nat → FpVal) : Op (BitVec 5) := do
  let f := shapeFmt t
  let es := sectorElems t (fmtSize f) va
  if fmtFp16 f then
    let rs := es.map fun l => (((viewAddr t l) - va).toNat, roundFp (fmtFloat f) rm flush (val l))
    let byte (j : Nat) : BitVec 8 :=
      match rs.find? fun r => r.1 == j || r.1 + 1 == j with
      | some r => byteOf r.2.1 (j - r.1)
      | none => 0
    writeSector km va (packBytes byte) f 127
    pure (rs.foldl (fun fl r => fl ||| r.2.2) (if es.any (fun l => val l == .nan true) then flagNV else 0))
  else
    let q := quantise f (es.map fun l => (val l, viewDither t (viewOuter t l) (viewInner t l)))
    let cs := es.zip q.2.1
    let byte (j : Nat) : BitVec 8 :=
      match cs.find? fun c => ((viewAddr t c.1) - va).toNat == j with
      | some c => c.2
      | none => 0
    writeSector km va (packBytes byte) f q.1
    pure q.2.2

/-- Writes group g of a bit-plane view, its eight plane sectors from plane 7 down; returns the flags (R86, R220). -/
def writeGroup (km : Bool) (t : ShapeReg) (g : Nat) (val : Nat → FpVal) : Op (BitVec 5) := do
  let f := shapeFmt t
  let es := (List.range 512).map (512 * g + ·)
  let q := quantise f (es.map fun l => (val l, viewDither t (viewOuter t l) (viewInner t l)))
  forEach ((List.range 8).map fun k => 7 - k) fun p =>
    writeSector km (planeAddr t (512 * g) p)
      (packBytes fun j => BitVec.ofNat 8 (((List.range 8).map fun b =>
        if (q.2.1.getD (8 * j + b) 0).getLsbD p then 2 ^ b else 0).sum))
      ((if fmtDithered f then 0x90 else 0x10) + BitVec.ofNat 8 p) q.1
  pure q.2.2

/-- The unit of element L: the address of its sector, or the number of its bit-plane group. -/
inductive UnitId where
  | sector (va : Word)
  | group (g : Nat)
  deriving DecidableEq, Repr

def unitOf (t : ShapeReg) (l : Nat) : UnitId :=
  if fmtBitPlane (shapeFmt t) then .group (l / 512) else .sector (sectorVa (viewAddr t l))

/-- The units that elements touch, in order of first touch. -/
def unitsOf (t : ShapeReg) (ls : List Nat) : List UnitId :=
  ls.foldl (fun us l => if us.contains (unitOf t l) then us else us ++ [unitOf t l]) []

/-- Writes a unit. -/
def writeUnitId (km : Bool) (t : ShapeReg) (rm flush : Nat) (val : Nat → FpVal) : UnitId → Op (BitVec 5)
  | .sector va => writeUnit km t rm flush va val
  | .group g => writeGroup km t g val

/-- Every byte of a unit is the location of exactly one element; a bit-plane group of R218 always is. -/
def unitCovered (t : ShapeReg) : UnitId → Bool
  | .sector va => sectorCovered t (fmtSize (shapeFmt t)) va
  | .group _ => true

/-- The address of a unit's (first) sector. -/
def unitVa (t : ShapeReg) : UnitId → Word
  | .sector va => va
  | .group g => planeAddr t (512 * g) 7

/-- The sectors of a unit in the order of the checks, plane 7 first (R221). -/
def unitSectors (t : ShapeReg) : UnitId → List Word
  | .sector va => [va]
  | .group g => (List.range 8).map fun k => planeAddr t (512 * g) (7 - k)

/-! ## Bounding ranges (R226) -/

/-- A range of virtual addresses and whether it is written. -/
structure Range where
  lo : Int
  hi : Int
  wr : Bool
  deriving DecidableEq, Repr

def Range.overlaps (a b : Range) : Bool := decide (a.lo < b.hi ∧ b.lo < a.hi)

/-- The range from lo to hi − 1 of addresses mod 2^64: one range, or two where it passes the top. -/
def wrapRange (lo hi : Int) (wr : Bool) : List Range :=
  let top : Int := 2 ^ 64
  if top ≤ hi - lo then [⟨0, top, wr⟩]
  else
    let a := lo % top
    let b := a + (hi - lo)
    if b ≤ top then [⟨a, b, wr⟩] else [⟨a, top, wr⟩, ⟨0, b - top, wr⟩]

/-- The least range that holds addresses base + off mod 2^64 with off from a list of offsets, n bytes each. -/
def boundOf (base : Word) (offs : List Int) (n : Nat) (wr : Bool) : List Range :=
  match offs with
  | [] => []
  | o :: os => wrapRange (base.toNat + os.foldl min o) (base.toNat + os.foldl max o + n) wr

/-- A range widened to whole sectors. -/
def Range.sectors (r : Range) : Range := { r with lo := r.lo / 64 * 64, hi := (r.hi + 63) / 64 * 64 }

/-- The least and greatest offset of a view, without walking it: each dimension gives its end of either sign. -/
def viewSpan (t : ShapeReg) : Int × Int :=
  (List.range 6).foldl (fun (acc : Int × Int) d =>
    let x := ((shapeExt t d : Int) - 1) * shapeStr t d
    (acc.1 + min x 0, acc.2 + max x 0)) (0, 0)

/-- The bounding range of a whole view with elements of n bytes; for a bit-plane view that of its planes (R226). -/
def viewRange (t : ShapeReg) (n : Nat) (wr : Bool) : List Range :=
  let b : Int := (shapeBase t).toNat
  if viewCount t = 0 then []
  else if fmtBitPlane (shapeFmt t) then wrapRange b (b + viewCount t) wr
  else wrapRange (b + (viewSpan t).1) (b + (viewSpan t).2 + n) wr

end Sys2Proof.Machine
end

