-- ==== Sys2Proof/Machine/VecMem.lean ====
section
/-! DEFINITION. What each instruction of majors 0x36 to 0x3B does: vector loads and stores, vector atomics, tensor memory
(R198, R199, R207 to R221). -/

namespace Sys2Proof.Machine

/-! ## The oldest entry of the vector queue -/

def headOf (t : Thread) : Option VEntry := t.v.vq.head?

/-- Changes the oldest entry. -/
def withHead (f : VEntry → VEntry) (t : Thread) : Thread :=
  { t with v := { t.v with vq := match t.v.vq with | e :: es => f e :: es | [] => [] } }

def modHead (f : VEntry → VEntry) : Op Unit := modThr (withHead f)

/-! ## Elements at an address -/

/-- A load of one element by the vector stream (R198, R208). -/
def loadElement (km : Bool) (n : Nat) (va : Word) : Op Nat := do
  let r ← access .load km n va
  loadRef r n

/-- A load of one element for its place in the destination: its value, or where its home is on another die a request whose data
arrives later (R198, R208, R210). -/
def loadInto (c : LaneCtx) (i n : Nat) (va : Word) : Op (List VWrite × BitVec 5) := do
  let r ← access .load c.e.kernel n va
  if ! r.win && (← read (isRemote · r.fpa)) then do
    waitReads r.fpa n
    update (sendPacket r n (some ⟨c.f.d, i, c.w, c.e.long⟩) (.load n))
    pure ([], 0)
  else do
    let v ← loadRef r n
    pure (c.put i v 0)

/-- A store of an element waits for what the same entry or transfer has sent to its bytes before (R185, R209, R292). -/
def waitSent (n : Nat) (va : Word) : Op Unit := do
  let s ← read id
  let a := actingOf s.thr
  require (! s.packets.any fun p => ownPacket s.thr p && p.agent == a.agent && p.age == a.age
      && (⟨p.lo.toNat, p.lo.toNat + p.len, true⟩ : Range).overlaps ⟨va.toNat, va.toNat + n, true⟩) (.wait .other)

/-- A store of one element by the vector stream or the copy engine; the Span's L1 lines go first (R188, R198, R208). -/
def storeElement (km : Bool) (n : Nat) (va : Word) (v : Nat) : Op Unit := do
  let r ← access .store km n va
  waitSent n va
  update (l1Remove r.fpa n)
  storeRef r n v

/-- An atomic of one element, with the flags of a sum-word add (R205, R213). -/
def atomicElement (km : Bool) (va : Word) (op : AtomicOp) (v : Word) : Op (BitVec 5) := do
  let r ← access .atomic km (atomicSize op) va
  update (l1Remove r.fpa (atomicSize op))
  atomicRef r op v

/-- The first of some elements of an atomic whose access is refused, with its trap (R199, R214). -/
def firstRefused (km : Bool) (n : Nat) (addr : Nat → Word) : List Nat → Op (Option (Nat × HeldTrap))
  | [] => pure none
  | i :: is => fun s =>
    match access .atomic km n (addr i) s with
    | .ok _ s' => firstRefused km n addr is s'
    | .error (.trap c v) s' => .ok (some (i, ⟨c, v⟩)) s'
    | .error x s' => .error x s'

/-- An element of an atomic whose elements have been checked: the refused one traps. -/
def checkedElement (i : Nat) (m : Op (List VWrite × BitVec 5)) : Op (List VWrite × BitVec 5) := do
  match (← read fun s => (headOf s.thr).bind (·.stop)) with
  | some (k, h) => if k = i then trapOp h.cause h.val else m
  | none => m

/-- The check of the counter of `nbctr` before the first element (R212); the captured address 0 means none. -/
def checkCounter (c : LaneCtx) : Op Unit := do
  if c.e.nbctr = 0 then pure ()
  else do
    let _ ← access .store c.e.kernel 8 c.e.nbctr
    pure ()

/-- The precheck of an entry: that of its counter where the form is non-blocking. -/
def counterPre (nb : Bool) : LaneCtx → Op Unit := fun c => if nb then checkCounter c else pure ()

/-! ## Addresses (R207, R208, R213) -/

namespace LaneCtx

variable (c : LaneCtx)

/-- Bytes of an element. -/
def esz : Nat := c.w / 8

/-- The captured base with the nest offset (R282). -/
def base : Word := c.sa + c.e.nest

/-- The stride: s0 means SEW/8. -/
def stride : Word := if c.f.b = 0 then BitVec.ofNat 64 c.esz else c.sb

def stridedAddr (i : Nat) : Word := c.base + BitVec.ofNat 64 i * c.stride
def indexedAddr (i : Nat) : Word := c.base + (c.elem c.w c.f.b i).setWidth 64
def sumAddr (i : Nat) : Word := c.base + (c.elem c.w c.f.b i).setWidth 64 * 16

end LaneCtx

/-- A vector load (R208, R209). -/
def loadSpec (nb : Bool) (kb : FieldKind) (addr : LaneCtx → Nat → Word) : VSpec :=
  ⟨.vreg, .scalar, kb, anyState, .mem (counterPre nb) fun c i => loadInto c i c.esz (addr c i)⟩

/-- A vector store (R208, R209). -/
def storeSpec (nb : Bool) (kb : FieldKind) (addr : LaneCtx → Nat → Word) : VSpec :=
  ⟨.vreg, .scalar, kb, anyState, .mem (counterPre nb) fun c i => do
    storeElement c.e.kernel c.esz (addr c i) (c.elem c.w c.f.d i).toNat
    pure ([], 0)⟩

/-- SEW 32 or 64 (R213). -/
def atomicWidth : Thread → VFields → Bool := fun t _ => decide (32 ≤ vtSew t.u.vtype)

/-- A vector atomic on n bytes at an address for each element: every active element is checked, in order, before any performs
(R199, R214). -/
def atomicSpec (n : LaneCtx → Nat) (addr : LaneCtx → Nat → Word) (f : LaneCtx → Nat → Op (BitVec 5)) : VSpec :=
  ⟨.vreg, .scalar, .vreg, atomicWidth, .mem
    (fun c => do
      counterPre true c
      let x ← firstRefused c.e.kernel (n c) (addr c) ((List.range c.e.vl).filter c.active)
      modHead fun e => { e with stop := x })
    fun c i => checkedElement i do
      let fl ← f c i
      pure ([], fl)⟩

/-- `vld` (R208). -/
def specVld : VSpec := loadSpec false .scalar LaneCtx.stridedAddr

/-- `vld.nb` (R208, R211). -/
def specVldNb : VSpec := loadSpec true .scalar LaneCtx.stridedAddr

/-- `vst` (R208). -/
def specVst : VSpec := storeSpec false .scalar LaneCtx.stridedAddr

/-- `vst.nb` (R208, R211). -/
def specVstNb : VSpec := storeSpec true .scalar LaneCtx.stridedAddr

/-- `vldx` (R208). -/
def specVldx : VSpec := loadSpec false .vreg LaneCtx.indexedAddr

/-- `vldx.nb` (R208, R211). -/
def specVldxNb : VSpec := loadSpec true .vreg LaneCtx.indexedAddr

/-- `vstx` (R208). -/
def specVstx : VSpec := storeSpec false .vreg LaneCtx.indexedAddr

/-- `vstx.nb` (R208, R211). -/
def specVstxNb : VSpec := storeSpec true .vreg LaneCtx.indexedAddr

/-- `vaadd` (R213, R214). -/
def specVaadd : VSpec :=
  let op (c : LaneCtx) : AtomicOp := if c.w = 32 then .addw else .add
  atomicSpec (fun c => atomicSize (op c)) LaneCtx.indexedAddr fun c i =>
    atomicElement c.e.kernel (c.indexedAddr i) (op c) ((c.elem c.w c.f.d i).setWidth 64)

/-- `vafadd` (R213, R214): under FLUSH 2 a subnormal element is zero. -/
def specVafadd : VSpec :=
  let op (c : LaneCtx) : AtomicOp := if c.w = 64 then .fadd else .fadds
  atomicSpec (fun c => atomicSize (op c)) LaneCtx.sumAddr fun c i =>
    let f := if c.w = 64 then fp64 else fp32
    let x := if vtFlush c.e.vtype = 2 then flushIn f 2 (c.elem c.w c.f.d i).toNat else (c.elem c.w c.f.d i).toNat
    atomicElement c.e.kernel (c.sumAddr i) (op c) (BitVec.ofNat 64 x)

/-! ## Tensor memory (R215 to R221) -/

namespace LaneCtx

variable (c : LaneCtx)

/-- The view element of register element i (R216). -/
def viewElem (i : Nat) : Nat := c.sa.toNat + i

/-- The shape checks (R217). -/
def checkShape (store : Bool) : Op Unit :=
  let t := c.e.shape
  let f := shapeFmt t
  require (fmtAssigned f = true ∧ (fmtRaw f ∨ c.w ≠ 8) ∧
      (fmtBitPlane f → planeViewOk t ∧ (store → fmtPlanes f = 8)))
    (.trap (causeCode .format) (shapeBase t))

end LaneCtx

/-- A 16-bit element under FLUSH 2: a subnormal is read as zero (R219). -/
def flushHalf (flush : Nat) (f : Fmt) : FpVal → FpVal
  | .num n m e => if flush = 2 ∧ m ≠ 0 ∧ floorLog m 1 e < f.emin then .num n 0 0 else .num n m e
  | v => v

/-- The planes that a load of a bit-plane format reads (R218). -/
def loadPlanes (f : BitVec 8) : Nat := if fmtBitPlane f then fmtPlanes f else 8

/-- `tld` of one element (R219). -/
def tensorLoad (c : LaneCtx) (i : Nat) : Op (List VWrite × BitVec 5) := do
  let t := c.e.shape
  let f := shapeFmt t
  let l := c.viewElem i
  if viewCount t ≤ l then pure ([], 0)
  else if fmtRaw f then loadInto c i c.esz (viewAddr t l)
  else
    match ← readView c.e.kernel t (loadPlanes f) l with
    | .refused sec => trapC .format sec
    | .value v bad =>
      let x := if fmtFp16 f then flushHalf c.ctl.flush (fmtFloat f) v else v
      let nv := if bad || (fmtFp16 f && x == .nan true) then flagNV else 0
      let r := roundFp c.ctl.f c.ctl.rm c.ctl.flush x
      pure (c.put i r.1 (r.2 ||| nv))

/-- The active register elements that the view has, rising (R220's A). -/
def storedElems (c : LaneCtx) : List Nat :=
  ((List.range c.e.vl).filter c.active).filter fun i => decide (c.viewElem i < viewCount c.e.shape)

/-- The value of view element l for a quantising store: the register element of A that names it, else +0 (R220, R221). -/
def storedVal (c : LaneCtx) (a : List Nat) (l : Nat) : FpVal :=
  match a.find? fun i => c.viewElem i == l with
  | some i => fpIn c.ctl (c.elem c.w c.f.d i).toNat
  | none => .num false 0 0

/-- Writes units one after the other, gathering the flags. -/
def writeUnits (km : Bool) (t : ShapeReg) (rm flush : Nat) (val : Nat → FpVal) : List UnitId → BitVec 5 → Op (BitVec 5)
  | [], fl => pure fl
  | u :: us, fl => do
    let x ← writeUnitId km t rm flush val u
    writeUnits km t rm flush val us (fl ||| x)

/-- A `tst` of a format other than raw: every check in the order of R221, then the units (R220). -/
def tensorStoreWhole (nb : Bool) (c : LaneCtx) : Op (BitVec 5) := do
  counterPre nb c
  c.checkShape true
  let t := c.e.shape
  let f := shapeFmt t
  let a := storedElems c
  let us := unitsOf t (a.map c.viewElem)
  forEach a fun i =>
    let va := if fmtBitPlane f then planeAddr t (c.viewElem i) 7 else viewAddr t (c.viewElem i)
    require (fmtBitPlane f ∨ va.toNat % fmtSize f = 0) (.trap (causeCode .misaligned) va)
  forEach us fun u => require (unitCovered t u = true) (.trap (causeCode .format) (unitVa t u))
  forEach us fun u => forEach (unitSectors t u) fun va => do
    let _ ← access .store c.e.kernel 64 va
    pure ()
  writeUnits c.e.kernel t c.ctl.rm c.ctl.flush (storedVal c a) us 0

/-- `tst` of raw format, element by element (R220). -/
def tensorStoreElem (c : LaneCtx) (i : Nat) : Op (List VWrite × BitVec 5) := do
  if viewCount c.e.shape ≤ c.viewElem i then pure ([], 0)
  else do
    storeElement c.e.kernel c.esz (viewAddr c.e.shape (c.viewElem i)) (c.elem c.w c.f.d i).toNat
    pure ([], 0)

def tensorLoadSpec (nb : Bool) : VSpec :=
  ⟨.vreg, .scalar, .unused, anyState, .mem (fun c => do counterPre nb c; c.checkShape false) tensorLoad⟩

/-- A tensor store: the captured format decides whether it is one whole (R199, R220). -/
def tensorStoreSpec (nb : Bool) : VSpec :=
  ⟨.vreg, .scalar, .unused, wholeVector,
    .tensor (fun c => do counterPre nb c; c.checkShape true) tensorStoreElem (tensorStoreWhole nb)⟩

/-- `tld` (R219). -/
def specTld : VSpec := tensorLoadSpec false

/-- `tld.nb` (R219, R211). -/
def specTldNb : VSpec := tensorLoadSpec true

/-- `tst` (R220, R221). -/
def specTst : VSpec := tensorStoreSpec false

/-- `tst.nb` (R220, R221, R211). -/
def specTstNb : VSpec := tensorStoreSpec true

end Sys2Proof.Machine
end

