-- ==== Sys2Proof/Machine/Arit.lean ====
section
/-! DEFINITION. The address-range interlock table (R226 to R228, R273), computed from what is outstanding: vector entries,
transfers, Truss entries and packets of one thread, each with its place in program order, and what holds an access. -/

namespace Sys2Proof.Machine

/-! ## Ranges of what is outstanding -/

/-- The whole address space (R226: what a scatter or gather may touch). -/
def everywhere (wr : Bool) : List Range := [⟨0, 2 ^ 64, wr⟩]

/-- The bytes of a strided walk over positions lo to hi − 1. -/
def stridedRange (base stride : Word) (n lo hi : Nat) (wr : Bool) : List Range :=
  if hi ≤ lo then [] else boundOf base [(lo : Int) * stride.toInt, ((hi : Int) - 1) * stride.toInt] n wr

/-- The bytes, or whole sectors, of view elements l0 to l1 − 1 (R226); of a bit-plane view the plane sectors that a load reads, or
those of the groups that a store writes. -/
def viewPart (t : ShapeReg) (n l0 l1 : Nat) (whole wr : Bool) : List Range :=
  let hi := min l1 (viewCount t)
  if hi ≤ l0 then []
  else if fmtBitPlane (shapeFmt t) then
    let b : Int := (shapeBase t).toNat
    let last := if wr then 0 else 8 - loadPlanes (shapeFmt t)
    wrapRange (b + (l0 / 512 * 64 : Nat)) (b + ((7 - last) * (viewCount t / 8) + (hi - 1) / 512 * 64 + 64 : Nat)) wr
  else
    let rs := boundOf (shapeBase t) ((List.range (hi - l0)).map fun i => viewOffset t (l0 + i)) n wr
    if whole then rs.map Range.sectors else rs

/-- The repeats of an entry. -/
def entryCount (e : VEntry) : Nat := match e.rep with | some p => p.count | none => 1

/-- The base and the stride of one repeat of a unit-stride or strided entry; one from a queue is not known before it is popped.
`ra`, `rb` are the fields of the word. -/
def stridedWalk (e : VEntry) (ra rb : BitVec 7) (j : Nat) : Option (Word × Word) :=
  let c := e.caps.getD j (0, 0)
  let step := match e.rep with | some p => p | none => ⟨1, false, false, false, 0⟩
  let fa := ra.toNat + (if step.stepA then j * step.step else 0)
  let fb := rb.toNat + (if step.stepB then j * step.step else 0)
  if 120 ≤ fa ∨ 120 ≤ fb then none
  else some (c.1 + e.nest, if fb = 0 then BitVec.ofNat 64 (vtSew e.vtype / 8) else c.2)

/-- The ranges of one repeat of a unit-stride or strided entry. DESIGN CHOICE (log 87): R226 does not say what the range is where the
base or the stride comes from a queue and is not known at enqueue; it is the whole address space, as for an indexed word. -/
def stridedEntry (e : VEntry) (ra rb : BitVec 7) (wr : Bool) (j : Nat) : List Range :=
  match stridedWalk e ra rb j with
  | none => everywhere wr
  | some w => stridedRange w.1 w.2 (vtSew e.vtype / 8) (if j = e.first then e.start else 0) e.vl wr

/-- The ranges of a tensor entry: the whole view where the first element comes from a queue (log 87). -/
def tensorEntry (e : VEntry) (rs : BitVec 7) (wr : Bool) : List Range :=
  let t := e.shape
  let n := if fmtRaw (shapeFmt t) then vtSew e.vtype / 8 else fmtSize (shapeFmt t)
  let l0 := (e.caps.getD 0 (0, 0)).1.toNat
  if 120 ≤ rs.toNat then (if wr && ! fmtRaw (shapeFmt t) then (viewRange t n wr).map Range.sectors else viewRange t n wr)
  else viewPart t n (l0 + e.start) (l0 + e.vl) (wr && ! fmtRaw (shapeFmt t)) wr

/-- The ranges of a vector entry, over every repeat that it runs: it holds them until the last has performed (R226); no range for an
entry that makes no access. -/
def entryRanges (e : VEntry) : List Range :=
  let js := (List.range (entryCount e)).filter fun j => decide (e.first ≤ j)
  match e.ins with
  | .vld _ ra rb _ | .vldNb _ ra rb _ => (js.map (stridedEntry e ra rb false)).flatten
  | .vst _ ra rb _ | .vstNb _ ra rb _ => (js.map (stridedEntry e ra rb true)).flatten
  | .vldx .. | .vldxNb .. => everywhere false
  | .vstx .. | .vstxNb .. | .vaadd .. | .vafadd .. => everywhere true
  | .tld _ _ rs _ | .tldNb _ _ rs _ => tensorEntry e rs false
  | .tst _ _ rs _ | .tstNb _ _ rs _ => tensorEntry e rs true
  | _ => []

/-- Bytes of an element of one side of a copy (R288). -/
def copySize (converting : Bool) (f : BitVec 8) : Nat := if fmtRaw f then (if converting then 4 else 1) else fmtSize f

/-- The ranges of a transfer: its source and its destination walk. -/
def transferRanges (x : Transfer) : List Range :=
  viewRange x.src (copySize x.converting (shapeFmt x.src)) false ++
    viewRange x.dst (copySize x.converting (shapeFmt x.dst)) true

/-- The ranges of a Truss entry (R273). -/
def trussRanges (e : TEntry) : List Range :=
  match e.ins with
  | .mmav .. => viewRange e.shB (fmtSize (shapeFmt e.shB)) false
  | .mmat .. | .mmatG .. =>
    viewRange e.shB (fmtSize (shapeFmt e.shB)) false ++ viewRange e.shA (fmtSize (shapeFmt e.shA)) false
  | .mst .. => viewRange e.shA (if fmtRaw (shapeFmt e.shA) then 4 else fmtSize (shapeFmt e.shA)) true
  | _ => []

/-- The transfer still has elements or its counter to perform, and holds its ranges. -/
def transferLive (x : Transfer) : Bool :=
  x.state == .running || x.state == .stoppedFault || x.state == .stoppedMemory

def transferStopped (x : Transfer) : Bool := x.state == .stoppedFault || x.state == .stoppedMemory

/-- The ranges of a posted collective: its buffer, which the engine may write (R329). -/
def collRanges (c : Coll) : List Range := viewRange c.view (copySize false (shapeFmt c.view)) true

/-- The posted collectives of the current thread. -/
def ownColls (s : State) : List Coll := (myDie s).colls.filter fun c => c.owner == threadId s.thr

/-- The bytes of a request that the fabric carries: a load of an element, of a sector or of a line only reads. -/
def packetRange (p : Packet) : Range :=
  ⟨p.lo.toNat, p.lo.toNat + p.len,
    p.dest.isNone && (match p.cargo with | .load _ | .sector | .line _ | .code _ | .reg _ none => false | _ => true)⟩

/-! ## What holds an access -/

/-- Two accesses conflict when their ranges overlap and one of them writes (R226). -/
def Range.conflicts (a b : Range) : Bool := a.overlaps b && (a.wr || b.wr)

def conflict (as bs : List Range) : Bool := as.any fun a => bs.any a.conflicts

/-- The thread's entries in the queue, and those that a trap has saved from before what is launched at a place in program order, that
are older than it. -/
def olderEntries (t : Thread) (age : Nat) : List VEntry :=
  (t.v.vq.filter fun e => decide (e.age < age)) ++ savedEntries t age
where
  /-- Of the saved entries those that the place has passed in program order (R226, R244, log 96). -/
  savedEntries (t : Thread) (age : Nat) : List VEntry :=
    (t.v.parked.filter fun x => decide (x.entry.age < age ∧ age < x.before)).map (·.entry)
def olderTransfers (t : Thread) (age : Nat) : List Transfer := t.tr.filter fun x => transferLive x && decide (x.age < age)
def olderTruss (t : Thread) (age : Nat) : List TEntry := t.tq.filter fun e => decide (e.age < age) && e.push.isNone
def olderPackets (s : State) (age : Nat) : List Packet :=
  s.packets.filter fun p => ownPacket s.thr p && decide (p.age < age)

/-- Committed entries that still have requests out, older than a place in program order: each holds its range (R211, R226). -/
def olderOuts (s : State) (age : Nat) : List VEntry :=
  s.thr.v.outs.filter fun e => decide (e.age < age) && s.packets.any fun p => ownPacket s.thr p && p.age == e.age

/-- An older posted collective of the current thread holds ranges (R226, R329). -/
def heldByColl (s : State) (age : Nat) (rs : List Range) : Bool :=
  (ownColls s).any fun c => decide (c.age < age) && conflict rs (collRanges c)

/-- `kval` of *transfer fault* (R297). -/
def transferVal (x : Transfer) : Word := BitVec.ofNat 64 (x.id.toNat + x.k * 2 ^ 16)

/-- Takes *transfer fault* for the oldest stopped transfer of a list (R297). -/
def faultStopped (xs : List Transfer) : Op Unit :=
  match xs.find? transferStopped with
  | some x => trapC .transfer (transferVal x)
  | none => pure ()

/-- An access of the current thread at a place in its program order waits for every older conflicting access (R226); one
that a stopped transfer holds takes *transfer fault* (R297). -/
def interlock (age : Nat) (rs : List Range) : Op Unit := do
  let t ← read (·.thr)
  faultStopped ((olderTransfers t age).filter fun x => conflict rs (transferRanges x))
  require (! (olderEntries t age).any (fun e => conflict rs (entryRanges e))) (.wait .arit)
  require (! (olderTransfers t age).any (fun x => conflict rs (transferRanges x))
    && ! (olderTruss t age).any (fun e => conflict rs (trussRanges e))) (.wait .other)
  let ps ← read fun s => olderPackets s age
  let outs ← read fun s => olderOuts s age
  require ((! ps.any fun p => conflict rs [packetRange p]) && ! outs.any fun e => conflict rs (entryRanges e)) (.wait .other)
  let held ← read fun s => heldByColl s age rs
  require (held = false) (.wait .other)

/-- The entries of the table that a Truss entry takes (R273). -/
def trussEntries (e : TEntry) : Nat :=
  match e.ins with
  | .mmav .. | .mst .. => 1
  | .mmat .. | .mmatG .. => 2
  | _ => 0

/-- The places in program order of what the thread has outstanding on other dies and no longer in its queues: each holds its entry
until every request is acknowledged (R211, R226). -/
def packetAges (s : State) : List Nat :=
  (((s.packets.filter (ownPacket s.thr)).map (·.age)).eraseDups).filter fun a =>
    ! s.thr.v.vq.any (·.age == a) && ! s.thr.tr.any (fun x => transferLive x && x.age == a)
      && ! s.thr.tq.any fun e => e.push.isNone && e.age == a

/-- The entries that the thread's table holds (R226): a transfer takes two. -/
def aritUsed (s : State) : Nat :=
  (s.thr.v.vq.filter fun e => entryRanges e != []).length
    + 2 * (s.thr.tr.filter fun x => transferLive x && viewCount x.src != 0).length
    + ((s.thr.tq.filter fun e => e.push.isNone).map trussEntries).sum
    + (packetAges s).length
    + ((ownColls s).filter fun c => collRanges c != []).length

/-- Waits for room in the table (R226). -/
def aritRoom (n : Nat) : Op Unit := do
  let u ← read aritUsed
  require (u + n ≤ 64) (.wait .aritFull)

/-- An access of the scalar side: it takes an entry of the table, after everything that is outstanding. -/
def interlockScalar (va : Word) (n : Nat) (wr : Bool) : Op Unit := do
  let t ← read (·.thr)
  interlock t.issued [⟨va.toNat, va.toNat + n, wr⟩]
  aritRoom 1

/-! ## What fences cover (R229, R234) -/

/-- The home of an address lies within a scope of the thread. -/
def scopeCovers (s : State) (sc : Nat) (fpa : Nat) : Bool :=
  if sc < 2 then fpaPeer fpa == myPeer s else if sc = 2 then fpaNode fpa == myNode s else true

/-- The home of an address as the thread's translations give it now. -/
def homeOf (s : State) (va : Word) : Option Nat :=
  match translate va s with
  | .ok x s' =>
    (match x with
      | .window off => some (fpaOf (myPeer s') s'.thr.place.span 0 (off % 2 ^ 20))
      | .page p large => some (pteFpa p + (if large then va.toNat % 2 ^ 29 else va.toNat % 2 ^ 16)))
  | .error _ _ => none

/-- A scope covers an access at an address; one that does not translate now counts as covered (log 30). -/
def coversVa (s : State) (sc : Nat) (va : Word) : Bool := match homeOf s va with | some h => scopeCovers s sc h | none => true

/-- An access at an address is remote; one that does not translate now is not (log 30). -/
def remoteVa (s : State) (va : Word) : Bool := match homeOf s va with | some h => isRemote s h | none => false

/-- The bytes at which view elements stand: of a bit-plane view those of its planes. -/
def viewVas (t : ShapeReg) (ls : List Nat) : List Word :=
  if fmtBitPlane (shapeFmt t) then ls.flatMap fun l => (List.range 8).map (planeAddr t l) else ls.map (viewAddr t)

/-- The word is a vector or tensor load. -/
def isLoad (i : Instr) : Bool :=
  match i with
  | .vld .. | .vldNb .. | .vldx .. | .vldxNb .. | .tld .. | .tldNb .. => true
  | _ => false

/-- The addresses of the elements that an entry has still to access; none where they are not known yet. -/
def entryVas (e : VEntry) : Option (List Word) :=
  let js := (List.range (entryCount e)).filter fun j => decide (e.j ≤ j)
  let strided (ra rb : BitVec 7) : Option (List Word) :=
    (js.mapM fun j => (stridedWalk e ra rb j).map fun w =>
      ((List.range e.vl).filter fun i => decide (j ≠ e.j ∨ e.pos ≤ i)).map fun i => w.1 + BitVec.ofNat 64 i * w.2).map
        List.flatten
  let tensor (rs : BitVec 7) : Option (List Word) :=
    let l0 := (e.caps.getD 0 (0, 0)).1.toNat
    if 120 ≤ rs.toNat then none
    else some (viewVas e.shape (((List.range e.vl).filter fun i => decide (e.pos ≤ i)).filterMap fun i =>
      if l0 + i < viewCount e.shape then some (l0 + i) else none))
  match e.ins with
  | .vld _ ra rb _ | .vldNb _ ra rb _ | .vst _ ra rb _ | .vstNb _ ra rb _ => strided ra rb
  | .tld _ _ rs _ | .tldNb _ _ rs _ | .tst _ _ rs _ | .tstNb _ _ rs _ => tensor rs
  | _ => none

/-- The addresses of what a transfer has still to access: its elements, and its counter (R293). -/
def transferVas (x : Transfer) : List Word :=
  let ls := (List.range (viewCount x.src)).filter fun l => decide (x.k ≤ l)
  viewVas x.src ls ++ viewVas x.dst ls ++ (if x.ctr = 0 then [] else [x.ctr])

/-- The addresses of a Truss entry's accesses (R273). -/
def trussVas (e : TEntry) : List Word :=
  let all (t : ShapeReg) : List Word := viewVas t (List.range (viewCount t))
  match e.ins with
  | .mmav .. => all e.shB
  | .mmat .. | .mmatG .. => all e.shA ++ all e.shB
  | .mst .. => all e.shA
  | _ => []

/-- Which older accesses an operation waits for. -/
structure Waits where
  /-- Covered accesses of the scalar side. -/
  scalar : Bool
  /-- Covered accesses of the vector stream, copies and Truss accesses among them. -/
  vector : Bool
  /-- Loads, covered or not. -/
  loads : Bool
  /-- Remote accesses. -/
  remote : Bool
  deriving DecidableEq, Repr

/-- An access at an address of the vector stream, the copy engine or the Truss is waited for. -/
def waitsFor (s : State) (w : Waits) (sc : Nat) (va : Word) : Bool :=
  (w.vector && coversVa s sc va) || (w.remote && remoteVa s va)

/-- Vector entries that are waited for; one whose addresses are not known yet is. -/
def waitEntries (s : State) (w : Waits) (sc age : Nat) : List VEntry :=
  (olderEntries s.thr age).filter fun e =>
    entryRanges e != [] && ((w.loads && isLoad e.ins) || (match entryVas e with
      | some vas => vas.any (waitsFor s w sc)
      | none => w.vector || w.remote))

/-- Transfers that are waited for: each reads its source until its last element. -/
def waitTransfers (s : State) (w : Waits) (sc age : Nat) : List Transfer :=
  (olderTransfers s.thr age).filter fun x =>
    (w.loads && decide (x.k < viewCount x.src)) || (transferVas x).any (waitsFor s w sc)

/-- Truss entries that are waited for. -/
def waitTruss (s : State) (w : Waits) (sc age : Nat) : List TEntry :=
  (olderTruss s.thr age).filter fun e =>
    (w.loads && (match e.ins with | .mst .. => false | _ => trussEntries e != 0)) || (trussVas e).any (waitsFor s w sc)

/-- Counter increments that are waited for. -/
def waitCounters (s : State) (w : Waits) (sc age : Nat) : List Counter :=
  s.thr.v.nbq.filter fun c => decide (c.age < age)
    && ((w.vector && scopeCovers s sc c.loc.fpa) || (w.remote && isRemote s c.loc.fpa))

/-- Requests on their way that are waited for. -/
def waitPackets (s : State) (w : Waits) (sc age : Nat) : List Packet :=
  (olderPackets s age).filter fun p =>
    w.remote || (w.loads && ! (packetRange p).wr)
      || ((if p.agent == .scalar then w.scalar else w.vector) && scopeCovers s sc p.loc.fpa)

/-- Waits for accesses of the current thread that are older than a place in its program order (R231, R234); a stopped transfer
among them is *transfer fault* (R297). -/
def waitOlder (w : Waits) (sc age : Nat) : Op Unit := do
  let s ← read id
  faultStopped (waitTransfers s w sc age)
  require (waitTransfers s w sc age = [] ∧ waitEntries s w sc age = [] ∧ waitTruss s w sc age = []
    ∧ waitCounters s w sc age = [] ∧ waitPackets s w sc age = []) (.wait .other)

end Sys2Proof.Machine
end

