-- ==== Sys2Proof/Machine/VecArith.lean ====
section
/-! DEFINITION. What each instruction of majors 0x20 to 0x30 computes (R152 to R160). -/

namespace Sys2Proof.Machine

/-- An arithmetic word: vd a register, va and vb registers or broadcast scalars (R152). -/
def arithSpec (extra : Thread → VFields → Bool) (sem : VSem) : VSpec := ⟨.vreg, .vop, .vop, extra, sem⟩

/-- Shift amounts are taken modulo the element width (R154). -/
def shiftAmount {w : Nat} (b : BitVec w) : Nat := b.toNat % w

/-- A comparison word (R160). -/
def cmpSpec (extra : Thread → VFields → Bool) (g : LaneCtx → Nat → Bool × BitVec 5) : VSpec :=
  ⟨.cmpDest, .vop, .vop, extra, laneCmp g⟩

/-- An integer condition. -/
def cmpInt (p : (w : Nat) → BitVec w → BitVec w → Bool) : VSpec :=
  cmpSpec anyState fun c i => (p c.w (c.opA c.w i) (c.opB c.w i), 0)

/-- An FP condition; `quiet` raises NV for signalling NaNs only, the others for any NaN (R160). -/
def cmpFp (quiet : Bool) (p : FpVal → FpVal → Bool) : VSpec :=
  cmpSpec fpWidth fun c i =>
    let a := fpIn c.ctl (c.opA c.w i).toNat
    let b := fpIn c.ctl (c.opB c.w i).toNat
    let bad := if quiet then a == .nan true || b == .nan true
      else (match a with | .nan _ => true | _ => false) || (match b with | .nan _ => true | _ => false)
    (p a b, if bad then flagNV else 0)

/-- One of two values is a NaN. -/
def unordered (a b : FpVal) : Bool :=
  (match a with | .nan _ => true | _ => false) || (match b with | .nan _ => true | _ => false)

/-- `vadd` (R154). -/
def specVadd : VSpec := arithSpec anyState (lane2 fun _ a b => a + b)

/-- `vsub` (R154). -/
def specVsub : VSpec := arithSpec anyState (lane2 fun _ a b => a - b)

/-- `vmul` (R154). -/
def specVmul : VSpec := arithSpec anyState (lane2 fun _ a b => a * b)

/-- `vmulh` (R154). -/
def specVmulh : VSpec := arithSpec anyState (lane2 fun _ a b => mulHighS a b)

/-- `vmulhu` (R154). -/
def specVmulhu : VSpec := arithSpec anyState (lane2 fun _ a b => mulHighU a b)

/-- `vdiv` (R154). -/
def specVdiv : VSpec := arithSpec anyState (lane2 fun _ a b => divS a b)

/-- `vdivu` (R154). -/
def specVdivu : VSpec := arithSpec anyState (lane2 fun _ a b => divU a b)

/-- `vrem` (R154). -/
def specVrem : VSpec := arithSpec anyState (lane2 fun _ a b => remS a b)

/-- `vremu` (R154). -/
def specVremu : VSpec := arithSpec anyState (lane2 fun _ a b => remU a b)

/-- `vand` (R154). -/
def specVand : VSpec := arithSpec anyState (lane2 fun _ a b => a &&& b)

/-- `vor` (R154). -/
def specVor : VSpec := arithSpec anyState (lane2 fun _ a b => a ||| b)

/-- `vxor` (R154). -/
def specVxor : VSpec := arithSpec anyState (lane2 fun _ a b => a ^^^ b)

/-- `vsll` (R154). -/
def specVsll : VSpec := arithSpec anyState (lane2 fun _ a b => a <<< shiftAmount b)

/-- `vsrl` (R154). -/
def specVsrl : VSpec := arithSpec anyState (lane2 fun _ a b => a >>> shiftAmount b)

/-- `vsra` (R154). -/
def specVsra : VSpec := arithSpec anyState (lane2 fun _ a b => a.sshiftRight (shiftAmount b))

/-- `vmin` (R154). -/
def specVmin : VSpec := arithSpec anyState (lane2 fun _ a b => if a.slt b then a else b)

/-- `vminu` (R154). -/
def specVminu : VSpec := arithSpec anyState (lane2 fun _ a b => if a.ult b then a else b)

/-- `vmax` (R154). -/
def specVmax : VSpec := arithSpec anyState (lane2 fun _ a b => if a.slt b then b else a)

/-- `vmaxu` (R154). -/
def specVmaxu : VSpec := arithSpec anyState (lane2 fun _ a b => if a.ult b then b else a)

/-- `vfadd` (R155). -/
def specVfadd : VSpec := arithSpec fpWidth (laneF2 fpAdd)

/-- `vfsub` (R155). -/
def specVfsub : VSpec := arithSpec fpWidth (laneF2 fpSub)

/-- `vfmul` (R155). -/
def specVfmul : VSpec := arithSpec fpWidth (laneF2 fpMul)

/-- `vfdiv` (R155). -/
def specVfdiv : VSpec := arithSpec fpWidth (laneF2 fpDiv)

/-- `vfmin` (R157). -/
def specVfmin : VSpec := arithSpec fpWidth (laneF2 (fun c => fpMinMax c false))

/-- `vfmax` (R157). -/
def specVfmax : VSpec := arithSpec fpWidth (laneF2 (fun c => fpMinMax c true))

/-- `vfma` (R156). -/
def specVfma : VSpec := arithSpec fpWidth (laneF3 fun c a b d => fpFma c false false a b d)

/-- `vfms` (R156). -/
def specVfms : VSpec := arithSpec fpWidth (laneF3 fun c a b d => fpFma c false true a b d)

/-- `vfnma` (R156). -/
def specVfnma : VSpec := arithSpec fpWidth (laneF3 fun c a b d => fpFma c true true a b d)

/-- `vfnms` (R156). -/
def specVfnms : VSpec := arithSpec fpWidth (laneF3 fun c a b d => fpFma c true false a b d)

/-- `vfsign` (R158). -/
def specVfsign : VSpec := arithSpec fpWidth (laneF2 fun c a b => (fpSign c.f (fun _ b => b) a b, 0))

/-- `vfsignn` (R158). -/
def specVfsignn : VSpec := arithSpec fpWidth (laneF2 fun c a b => (fpSign c.f (fun _ b => ! b) a b, 0))

/-- `vfsignx` (R158). -/
def specVfsignx : VSpec := arithSpec fpWidth (laneF2 fun c a b => (fpSign c.f (fun a b => a != b) a b, 0))

/-- `vcmp` with condition eq (R160). -/
def specVcmpEq : VSpec := cmpInt fun _ a b => a == b

/-- `vcmp` with condition ne (R160). -/
def specVcmpNe : VSpec := cmpInt fun _ a b => a != b

/-- `vcmp` with condition lt (R160). -/
def specVcmpLt : VSpec := cmpInt fun _ a b => a.slt b

/-- `vcmp` with condition ltu (R160). -/
def specVcmpLtu : VSpec := cmpInt fun _ a b => a.ult b

/-- `vcmp` with condition le (R160). -/
def specVcmpLe : VSpec := cmpInt fun _ a b => ! b.slt a

/-- `vcmp` with condition leu (R160). -/
def specVcmpLeu : VSpec := cmpInt fun _ a b => ! b.ult a

/-- `vcmp` with condition gt (R160). -/
def specVcmpGt : VSpec := cmpInt fun _ a b => b.slt a

/-- `vcmp` with condition gtu (R160). -/
def specVcmpGtu : VSpec := cmpInt fun _ a b => b.ult a

/-- `vcmp` with condition feq (R160). -/
def specVcmpFeq : VSpec := cmpFp true fun a b => fpEqVal a b

/-- `vcmp` with condition fne (R160). -/
def specVcmpFne : VSpec := cmpFp true fun a b => ! fpEqVal a b

/-- `vcmp` with condition flt (R160). -/
def specVcmpFlt : VSpec := cmpFp false fun a b => fpLtVal a b

/-- `vcmp` with condition fle (R160). -/
def specVcmpFle : VSpec := cmpFp false fun a b => fpLtVal a b || fpEqVal a b

/-- `vcmp` with condition fgt (R160). -/
def specVcmpFgt : VSpec := cmpFp false fun a b => fpLtVal b a

/-- `vcmp` with condition fge (R160). -/
def specVcmpFge : VSpec := cmpFp false fun a b => fpLtVal b a || fpEqVal a b

/-- `vcmp` with condition funord (R160). -/
def specVcmpFunord : VSpec := cmpFp true fun a b => unordered a b

/-- `vcmp` with condition ford (R160). -/
def specVcmpFord : VSpec := cmpFp true fun a b => ! unordered a b

end Sys2Proof.Machine
end

