-- ==== Sys2Proof/Machine/VecLanes.lean ====
section
/-! DEFINITION. What each instruction of majors 0x31 to 0x35 computes: masks, cross-lane, unary and conversion,
reductions and scans, random numbers (R161 to R183). -/

namespace Sys2Proof.Machine

namespace LaneCtx

variable (c : LaneCtx)

/-- Positions 0 to vl − 1. -/
def positions : List Nat := List.range c.e.vl

/-- Active positions, rising. -/
def actives : List Nat := (List.range c.e.vl).filter c.active

end LaneCtx

/-! ## Masks (R167, R168) -/

def maskSpec (ka kb : FieldKind) (p : LaneCtx → Nat → Bool) : VSpec :=
  ⟨.mask, ka, kb, anyState, .lanes fun c i => ([.bit c.f.d i (p c i)], 0)⟩

/-- The least position below vl whose bit is set. -/
def firstSet (c : LaneCtx) : Option Nat := c.positions.find? fun i => c.maskBit c.f.a i

/-! ## Cross-lane (R169, R170) -/

def crossSpec (kb : FieldKind) (f : LaneCtx → List VWrite × BitVec 5) : VSpec := ⟨.vreg, .vreg, kb, wholeVector, .whole f⟩

/-- Writes element x of the source, or zero, to each position that is given. -/
def gatherTo (c : LaneCtx) (is : List Nat) (src : Nat → Option Nat) : List VWrite :=
  is.map fun i => .elem c.f.d i c.w (match src i with
    | some x => (c.elem c.w c.f.a x).setWidth 64
    | none => 0)

/-- The positions below vl whose bit is set in the mask that field b names. -/
def setPositions (c : LaneCtx) : List Nat := c.positions.filter fun i => c.maskBit c.f.b i

/-! ## Unary (R171 to R176) -/

def unarySpec (extra : Thread → VFields → Bool) (sem : VSem) : VSpec := ⟨.vreg, .vop, .unused, extra, sem⟩

/-- SEW 8, 16 or 32. -/
def narrowWidth (t : Thread) : Bool := decide (vtSew t.u.vtype ≤ 32)

/-- The wide operand in register field `wide` beside the narrow one in `narrow` (R46, R175): a pair in long mode, one
register and vl within half of VLMAX in short mode, and no register in common. -/
def wideOk (t : Thread) (wide narrow : Nat) : Bool :=
  if isLong t then wide % 2 == 0 && decide (wide + 1 < 48) && narrow != wide && narrow != wide + 1
  else decide (t.u.vl.toNat ≤ vlmax t / 2) && narrow != wide

def widenOk : Thread → VFields → Bool := fun t f => narrowWidth t && wideOk t f.d f.a

/-- A broadcast wide source names no register (R175). -/
def narrowOk : Thread → VFields → Bool := fun t f => narrowWidth t && (decide (64 ≤ f.a) || wideOk t f.a f.d)

/-- Where element i of a wide operand lies: register and position (R175). -/
def widePlace (c : LaneCtx) (r i : Nat) : Nat × Nat :=
  if c.e.long then (r + i / (c.vmax / 2), i % (c.vmax / 2)) else (r, i)

/-- Writes element i of a wide destination. -/
def putWide (c : LaneCtx) (i v : Nat) (fl : BitVec 5) : List VWrite × BitVec 5 :=
  ([.elem (widePlace c c.f.d i).1 (widePlace c c.f.d i).2 (2 * c.w) (BitVec.ofNat 64 v)], fl)

/-- Element i of a wide source, or the broadcast scalar at the wide width (R175). -/
def wideIn (c : LaneCtx) (i : Nat) : BitVec (2 * c.w) :=
  if c.f.a < 48 then elemOf (vreg c.t c.e.long (widePlace c c.f.a i).1) (2 * c.w) (widePlace c c.f.a i).2
  else c.sa.setWidth (2 * c.w)

/-- A signed value clamped to w bits (R176). -/
def clampS (w : Nat) (v : Int) : BitVec w :=
  BitVec.ofInt w (max (-(2 : Int) ^ (w - 1)) (min v ((2 : Int) ^ (w - 1) - 1)))

/-! ## Reductions and scans (R177 to R180) -/

/-- A reduction's result goes to element 0 of a register where vl ≥ 1, or into a queue. -/
def redOut (c : LaneCtx) (elem push : Word) (fl : BitVec 5) : List VWrite × BitVec 5 :=
  if c.f.d < 48 then ((if c.e.vl = 0 then [] else [.elem c.f.d 0 c.w elem]), fl)
  else ([.push (c.f.d - 120) push], fl)

def redSpec (extra : Thread → VFields → Bool) (f : LaneCtx → List VWrite × BitVec 5) : VSpec :=
  ⟨.vregOrQueue, .vop, .unused, fun t g => wholeVector t g && extra t g, .whole f⟩

/-- An integer reduction from its identity (R178); `signed` extends the pushed result by its sign. -/
def redInt (signed : Bool) (ident : (w : Nat) → BitVec w) (g : (w : Nat) → BitVec w → BitVec w → BitVec w) : VSpec :=
  redSpec anyState fun c =>
    let r := c.actives.foldl (fun r i => g c.w r (c.opA c.w i)) (ident c.w)
    redOut c (r.setWidth 64) (if signed then r.signExtend 64 else r.setWidth 64) 0

/-- Adds neighbours pairwise, with the flags (R179). -/
def pairUp (c : FpCtl) : List Nat → List Nat × BitVec 5
  | a :: b :: rest =>
    let r := fpAdd c a b
    let q := pairUp c rest
    (r.1 :: q.1, r.2 ||| q.2)
  | l => (l, 0)

/-- The pairwise tree over 2^n slots. -/
def treeSum (c : FpCtl) : Nat → List Nat → BitVec 5 → Nat × BitVec 5
  | 0, l, fl => (l.headD 0, fl)
  | n + 1, l, fl => let r := pairUp c l; treeSum c n r.1 (fl ||| r.2)

/-- ⌈log2 n⌉ for n ≥ 2. -/
def ceilLog2 (n : Nat) : Nat := (n - 1).log2 + 1

/-- The largest or the smallest number of the active elements (R179). -/
def redMinMax (wantMax : Bool) : VSpec :=
  redSpec fpWidth fun c =>
    let r := c.actives.foldl (fun (r : Nat × BitVec 5) i =>
      let x := fpMinMax c.ctl wantMax r.1 (c.opA c.w i).toNat
      (x.1, r.2 ||| x.2)) (c.ctl.f.nan, 0)
    let v := if c.actives = [] then fpInf c.ctl.f wantMax else r.1
    redOut c (BitVec.ofNat 64 v) (BitVec.ofNat 64 v) r.2

def scanSpec (extra : Thread → VFields → Bool) (f : LaneCtx → List VWrite × BitVec 5) : VSpec :=
  ⟨.vreg, .vop, .unused, fun t g => wholeVector t g && extra t g, .whole f⟩

/-- An integer scan, inclusive or exclusive (R180). -/
def scanInt (inclusive : Bool) : VSpec :=
  scanSpec anyState fun c =>
    ((c.actives.foldl (fun (acc : List VWrite × BitVec c.w) i =>
      let s := acc.2 + c.opA c.w i
      (acc.1 ++ [.elem c.f.d i c.w ((if inclusive then s else acc.2).setWidth 64)], s)) ([], 0)).1, 0)

/-! ## Random numbers (R181, R182) -/

/-- Key and counter of position i. -/
def randKey (c : LaneCtx) : BitVec 32 := c.sa.setWidth 32
def randCtr (c : LaneCtx) (i : Nat) : BitVec 32 := (c.sb + BitVec.ofNat 64 i).setWidth 32

/-- 64 raw bits of position i. -/
def rand64 (c : LaneCtx) (i : Nat) : Nat :=
  (hashH (randKey c ^^^ 0xFFFFFFFF#32) (randCtr c i)).toNat * 2 ^ 32 + (hashH (randKey c) (randCtr c i)).toNat

/-- n · 2^−k as a pattern, exact. -/
def exactPattern (f : Fmt) (n k : Nat) : Nat := (roundFp f 0 0 (.num false n (-(k : Int)))).1

def randSpec (kd : FieldKind) (extra : Thread → VFields → Bool) (f : LaneCtx → Nat → List VWrite × BitVec 5) : VSpec :=
  ⟨kd, .scalar, .scalar, extra, .lanes f⟩

/-- `mand` (R168). -/
def specMand : VSpec := maskSpec .mask .mask fun c i => c.maskBit c.f.a i && c.maskBit c.f.b i

/-- `mor` (R168). -/
def specMor : VSpec := maskSpec .mask .mask fun c i => c.maskBit c.f.a i || c.maskBit c.f.b i

/-- `mxor` (R168). -/
def specMxor : VSpec := maskSpec .mask .mask fun c i => c.maskBit c.f.a i != c.maskBit c.f.b i

/-- `mandn` (R168). -/
def specMandn : VSpec := maskSpec .mask .mask fun c i => c.maskBit c.f.a i && ! c.maskBit c.f.b i

/-- `mnot` (R168). -/
def specMnot : VSpec := maskSpec .mask .unused fun c i => ! c.maskBit c.f.a i

/-- `mset` (R168). -/
def specMset : VSpec := maskSpec .unused .unused fun _ _ => true

/-- `mclr` (R168). -/
def specMclr : VSpec := maskSpec .unused .unused fun _ _ => false

/-- `mpopc` (R162, R168). -/
def specMpopc : VSpec := ⟨.queue, .mask, .unused, wholeVector, .whole fun c =>
  ([.push (c.f.d - 120) (BitVec.ofNat 64 (c.positions.countP fun i => c.maskBit c.f.a i))], 0)⟩

/-- `mfirst` (R162, R168). -/
def specMfirst : VSpec := ⟨.queue, .mask, .unused, wholeVector, .whole fun c =>
  ([.push (c.f.d - 120) (match firstSet c with | some i => BitVec.ofNat 64 i | none => BitVec.allOnes 64)], 0)⟩

/-- `mfromv` (R168). -/
def specMfromv : VSpec := maskSpec .vreg .unused fun c i => (c.elem c.w c.f.a i).getLsbD 0

/-- `mtov` (R168). -/
def specMtov : VSpec := ⟨.vreg, .mask, .unused, anyState, .lanes fun c i =>
  c.put i (if c.maskBit c.f.a i then 1 else 0) 0⟩

/-- `msbf` (R168). -/
def specMsbf : VSpec := ⟨.mask, .mask, .unused, wholeVector, .whole fun c =>
  (c.positions.map fun i => .bit c.f.d i (decide (i < (firstSet c).getD c.e.vl)), 0)⟩

/-- `miota` (R168). -/
def specMiota : VSpec := ⟨.vreg, .mask, .unused, anyState, .lanes fun c i =>
  c.put i (((List.range i).countP fun j => c.maskBit c.f.a j) % 2 ^ c.w) 0⟩

/-- `vslideup` (R170). -/
def specVslideup : VSpec := crossSpec .scalar fun c =>
  (gatherTo c (c.positions.filter fun i => decide (c.sb.toNat ≤ i)) fun i => some (i - c.sb.toNat), 0)

/-- `vslidedn` (R170). -/
def specVslidedn : VSpec := crossSpec .scalar fun c =>
  (gatherTo c c.positions fun i => if i + c.sb.toNat < c.e.vl then some (i + c.sb.toNat) else none, 0)

/-- `vbfly` (R170). -/
def specVbfly : VSpec := crossSpec .scalar fun c =>
  (gatherTo c c.positions fun i => if i ^^^ c.sb.toNat < c.e.vl then some (i ^^^ c.sb.toNat) else some i, 0)

/-- `vperm` (R170). -/
def specVperm : VSpec := crossSpec .vreg fun c =>
  (gatherTo c c.positions fun i =>
    let x := (c.elem c.w c.f.b i).toNat
    if x < c.e.vl then some x else none, 0)

/-- `vcompress` (R170). -/
def specVcompress : VSpec := crossSpec .mask fun c =>
  (((setPositions c).zipIdx).map fun p => .elem c.f.d p.2 c.w ((c.elem c.w c.f.a p.1).setWidth 64), 0)

/-- `vexpand` (R170). -/
def specVexpand : VSpec := crossSpec .mask fun c =>
  (((setPositions c).zipIdx).map fun p => .elem c.f.d p.1 c.w ((c.elem c.w c.f.a p.2).setWidth 64), 0)

/-- `vid` (R170). -/
def specVid : VSpec := ⟨.vreg, .unused, .unused, anyState, .lanes fun c i => c.put i (i % 2 ^ c.w) 0⟩

/-- `vbcast` (R170). -/
def specVbcast : VSpec := crossSpec .scalar fun c =>
  (gatherTo c c.positions fun _ => if c.sb.toNat < c.e.vl then some c.sb.toNat else none, 0)

/-- `vextr` (R162, R170). -/
def specVextr : VSpec := ⟨.queue, .vreg, .scalar, wholeVector, .whole fun c =>
  ([.push (c.f.d - 120) (if c.sb.toNat < c.e.vl then (c.elem c.w c.f.a c.sb.toNat).setWidth 64 else 0)], 0)⟩

/-- `vinsr` (R170). -/
def specVinsr : VSpec := ⟨.vreg, .scalar, .scalar, wholeVector, .whole fun c =>
  ((if c.sb.toNat < c.e.vl then [.elem c.f.d c.sb.toNat c.w c.sa] else []), 0)⟩

/-- `vmerge` with mask k (R170). -/
def specVmerge (k : Nat) : VSpec := ⟨.vreg, .vreg, .vreg, anyState, .lanes fun c i =>
  c.put i (if c.maskBit k i then c.elem c.w c.f.b i else c.elem c.w c.f.a i).toNat 0⟩

/-- `vfsqrt` (R173). -/
def specVfsqrt : VSpec := unarySpec fpWidth (laneF1 fpSqrt)

/-- `vneg` (R172). -/
def specVneg : VSpec := unarySpec anyState (lane1 fun _ a => -a)

/-- `vnot` (R172). -/
def specVnot : VSpec := unarySpec anyState (lane1 fun _ a => ~~~a)

/-- `vclz` (R172). -/
def specVclz : VSpec := unarySpec anyState (lane1 fun w a => BitVec.ofNat w (leadingZeros a))

/-- `vctz` (R172). -/
def specVctz : VSpec := unarySpec anyState (lane1 fun w a => BitVec.ofNat w (trailingZeros a))

/-- `vpopc` (R172). -/
def specVpopc : VSpec := unarySpec anyState (lane1 fun w a => BitVec.ofNat w (onesCount a))

/-- `vfclass` (R173). -/
def specVfclass : VSpec := unarySpec fpWidth (laneF1 fun c a => (fpClass c.f a, 0))

/-- `vfrint` (R173). -/
def specVfrint : VSpec := unarySpec fpWidth (laneF1 fpRint)

/-- `vcvtFI` (R174). -/
def specVcvtFI : VSpec := unarySpec anyState (.lanes fun c i =>
  let r := fpOfInt c.ctl (c.opA c.w i).toInt; c.put i r.1 r.2)

/-- `vcvtFIu` (R174). -/
def specVcvtFIu : VSpec := unarySpec anyState (.lanes fun c i =>
  let r := fpOfInt c.ctl (c.opA c.w i).toNat; c.put i r.1 r.2)

/-- `vcvtIF` (R174). -/
def specVcvtIF : VSpec := unarySpec anyState (.lanes fun c i =>
  let r := fpToInt c.ctl true c.w (c.opA c.w i).toNat; c.put i (BitVec.ofInt c.w r.1).toNat r.2)

/-- `vcvtIuF` (R174). -/
def specVcvtIuF : VSpec := unarySpec anyState (.lanes fun c i =>
  let r := fpToInt c.ctl false c.w (c.opA c.w i).toNat; c.put i (BitVec.ofInt c.w r.1).toNat r.2)

/-- `vwidenI` (R176). -/
def specVwidenI : VSpec := unarySpec widenOk (.lanes fun c i =>
  putWide c i ((c.opA c.w i).signExtend (2 * c.w)).toNat 0)

/-- `vwidenIu` (R176). -/
def specVwidenIu : VSpec := unarySpec widenOk (.lanes fun c i =>
  putWide c i (c.opA c.w i).toNat 0)

/-- `vnarrowI` (R176). -/
def specVnarrowI : VSpec := unarySpec narrowOk (.lanes fun c i =>
  c.put i ((wideIn c i).setWidth c.w).toNat 0)

/-- `vnarrowIs` (R176). -/
def specVnarrowIs : VSpec := unarySpec narrowOk (.lanes fun c i =>
  c.put i (clampS c.w (wideIn c i).toInt).toNat 0)

/-- `vfwiden` (R176). -/
def specVfwiden : VSpec := unarySpec widenOk (.lanes fun c i =>
  let r := fpConvert c.ctl.f { c.ctl with f := fmtAt (2 * c.w) 0 } (c.opA c.w i).toNat
  putWide c i r.1 r.2)

/-- `vfnarrow` (R176). -/
def specVfnarrow : VSpec := unarySpec narrowOk (.lanes fun c i =>
  let r := fpConvert (fmtAt (2 * c.w) 0) c.ctl (wideIn c i).toNat
  c.put i r.1 r.2)

/-- `vrsum` (R178). -/
def specVrsum : VSpec := redInt true (fun w => 0#w) (fun _ r x => r + x)

/-- `vrmax` (R178). -/
def specVrmax : VSpec := redInt true (fun w => BitVec.intMin w) (fun _ r x => if r.slt x then x else r)

/-- `vrmin` (R178). -/
def specVrmin : VSpec := redInt true (fun w => BitVec.intMax w) (fun _ r x => if x.slt r then x else r)

/-- `vrmaxu` (R178). -/
def specVrmaxu : VSpec := redInt false (fun w => 0#w) (fun _ r x => if r.ult x then x else r)

/-- `vrminu` (R178). -/
def specVrminu : VSpec := redInt false (fun w => BitVec.allOnes w) (fun _ r x => if x.ult r then x else r)

/-- `vredand` (R178). -/
def specVredand : VSpec := redInt false (fun w => BitVec.allOnes w) (fun _ r x => r &&& x)

/-- `vredor` (R178). -/
def specVredor : VSpec := redInt false (fun w => 0#w) (fun _ r x => r ||| x)

/-- `vredxor` (R178). -/
def specVredxor : VSpec := redInt false (fun w => 0#w) (fun _ r x => r ^^^ x)

/-- `vfrsum` (R179). DEDUCED (log 73): a slot of padding is added as any other, so that under RDN a +0 beside it becomes −0 and under
FLUSH 1 a subnormal beside it is flushed, as the pseudocode has it; the sentence that −0 changes no value is not followed there. -/
def specVfrsum : VSpec := redSpec fpWidth fun c =>
  let n := ceilLog2 (max c.e.vl 2)
  let neg0 := c.ctl.f.signBit
  let r := treeSum c.ctl n ((List.range (2 ^ n)).map fun j => if c.active j then (c.opA c.w j).toNat else neg0) 0
  redOut c (BitVec.ofNat 64 r.1) (BitVec.ofNat 64 r.1) r.2

/-- `vfrmax` (R179). -/
def specVfrmax : VSpec := redMinMax true

/-- `vfrmin` (R179). -/
def specVfrmin : VSpec := redMinMax false

/-- `vscan` (R180). -/
def specVscan : VSpec := scanInt true

/-- `vscanx` (R180). -/
def specVscanx : VSpec := scanInt false

/-- `vfscan` (R180). -/
def specVfscan : VSpec := scanSpec fpWidth fun c =>
  let r := c.actives.foldl (fun (acc : List VWrite × Nat × BitVec 5) i =>
    let x := fpAdd c.ctl acc.2.1 (c.opA c.w i).toNat
    (acc.1 ++ [.elem c.f.d i c.w (BitVec.ofNat 64 x.1)], x.1, acc.2.2 ||| x.2)) ([], c.ctl.f.signBit, 0)
  (r.1, r.2.2)

/-- `vrand` (R182). -/
def specVrand : VSpec := randSpec .vreg anyState fun c i =>
  c.put i (if c.w = 64 then rand64 c i else (hashH (randKey c) (randCtr c i)).toNat / 2 ^ (32 - c.w)) 0

/-- `vrandf` (R182). -/
def specVrandf : VSpec := randSpec .vreg fpWidth fun c i =>
  let h := (hashH (randKey c) (randCtr c i)).toNat
  c.put i (if c.w = 64 then exactPattern fp64 (rand64 c i / 2 ^ 11) 53
    else if c.w = 32 then exactPattern fp32 (h / 2 ^ 8) 24
    else if vtFpsel c.e.vtype = 1 then exactPattern bf16 (h / 2 ^ 24) 8
    else exactPattern fp16 (h / 2 ^ 21) 11) 0

/-- `vrandm` (R182). -/
def specVrandm : VSpec := randSpec .mask anyState fun c i =>
  ([.bit c.f.d i ((hashH (randKey c) (randCtr c i)).ult c.e.rthr)], 0)

end Sys2Proof.Machine
end

