-- ==== Sys2Proof/Machine/VecTable.lean ====
section
/-! DEFINITION. Every word of the vector stream with what it does and its fields (R49, R152 to R221). -/

namespace Sys2Proof.Machine

/-- What a vector-stream word does, and its fields; none for a word that is no such word. The scalar field of a tensor word
is read at the place of the first source. -/
def vword : Instr → Option (VSpec × VFields)
  | .vadd rd ra rb m => some (specVadd, ⟨rd.toNat, ra.toNat, rb.toNat, m.toNat⟩)
  | .vsub rd ra rb m => some (specVsub, ⟨rd.toNat, ra.toNat, rb.toNat, m.toNat⟩)
  | .vmul rd ra rb m => some (specVmul, ⟨rd.toNat, ra.toNat, rb.toNat, m.toNat⟩)
  | .vmulh rd ra rb m => some (specVmulh, ⟨rd.toNat, ra.toNat, rb.toNat, m.toNat⟩)
  | .vmulhu rd ra rb m => some (specVmulhu, ⟨rd.toNat, ra.toNat, rb.toNat, m.toNat⟩)
  | .vdiv rd ra rb m => some (specVdiv, ⟨rd.toNat, ra.toNat, rb.toNat, m.toNat⟩)
  | .vdivu rd ra rb m => some (specVdivu, ⟨rd.toNat, ra.toNat, rb.toNat, m.toNat⟩)
  | .vrem rd ra rb m => some (specVrem, ⟨rd.toNat, ra.toNat, rb.toNat, m.toNat⟩)
  | .vremu rd ra rb m => some (specVremu, ⟨rd.toNat, ra.toNat, rb.toNat, m.toNat⟩)
  | .vand rd ra rb m => some (specVand, ⟨rd.toNat, ra.toNat, rb.toNat, m.toNat⟩)
  | .vor rd ra rb m => some (specVor, ⟨rd.toNat, ra.toNat, rb.toNat, m.toNat⟩)
  | .vxor rd ra rb m => some (specVxor, ⟨rd.toNat, ra.toNat, rb.toNat, m.toNat⟩)
  | .vsll rd ra rb m => some (specVsll, ⟨rd.toNat, ra.toNat, rb.toNat, m.toNat⟩)
  | .vsrl rd ra rb m => some (specVsrl, ⟨rd.toNat, ra.toNat, rb.toNat, m.toNat⟩)
  | .vsra rd ra rb m => some (specVsra, ⟨rd.toNat, ra.toNat, rb.toNat, m.toNat⟩)
  | .vmin rd ra rb m => some (specVmin, ⟨rd.toNat, ra.toNat, rb.toNat, m.toNat⟩)
  | .vminu rd ra rb m => some (specVminu, ⟨rd.toNat, ra.toNat, rb.toNat, m.toNat⟩)
  | .vmax rd ra rb m => some (specVmax, ⟨rd.toNat, ra.toNat, rb.toNat, m.toNat⟩)
  | .vmaxu rd ra rb m => some (specVmaxu, ⟨rd.toNat, ra.toNat, rb.toNat, m.toNat⟩)
  | .vfadd rd ra rb m => some (specVfadd, ⟨rd.toNat, ra.toNat, rb.toNat, m.toNat⟩)
  | .vfsub rd ra rb m => some (specVfsub, ⟨rd.toNat, ra.toNat, rb.toNat, m.toNat⟩)
  | .vfmul rd ra rb m => some (specVfmul, ⟨rd.toNat, ra.toNat, rb.toNat, m.toNat⟩)
  | .vfdiv rd ra rb m => some (specVfdiv, ⟨rd.toNat, ra.toNat, rb.toNat, m.toNat⟩)
  | .vfma rd ra rb m => some (specVfma, ⟨rd.toNat, ra.toNat, rb.toNat, m.toNat⟩)
  | .vfms rd ra rb m => some (specVfms, ⟨rd.toNat, ra.toNat, rb.toNat, m.toNat⟩)
  | .vfnma rd ra rb m => some (specVfnma, ⟨rd.toNat, ra.toNat, rb.toNat, m.toNat⟩)
  | .vfnms rd ra rb m => some (specVfnms, ⟨rd.toNat, ra.toNat, rb.toNat, m.toNat⟩)
  | .vfmin rd ra rb m => some (specVfmin, ⟨rd.toNat, ra.toNat, rb.toNat, m.toNat⟩)
  | .vfmax rd ra rb m => some (specVfmax, ⟨rd.toNat, ra.toNat, rb.toNat, m.toNat⟩)
  | .vfsign rd ra rb m => some (specVfsign, ⟨rd.toNat, ra.toNat, rb.toNat, m.toNat⟩)
  | .vfsignn rd ra rb m => some (specVfsignn, ⟨rd.toNat, ra.toNat, rb.toNat, m.toNat⟩)
  | .vfsignx rd ra rb m => some (specVfsignx, ⟨rd.toNat, ra.toNat, rb.toNat, m.toNat⟩)
  | .vcmpEq md ra rb m => some (specVcmpEq, ⟨md.toNat, ra.toNat, rb.toNat, m.toNat⟩)
  | .vcmpNe md ra rb m => some (specVcmpNe, ⟨md.toNat, ra.toNat, rb.toNat, m.toNat⟩)
  | .vcmpLt md ra rb m => some (specVcmpLt, ⟨md.toNat, ra.toNat, rb.toNat, m.toNat⟩)
  | .vcmpLtu md ra rb m => some (specVcmpLtu, ⟨md.toNat, ra.toNat, rb.toNat, m.toNat⟩)
  | .vcmpLe md ra rb m => some (specVcmpLe, ⟨md.toNat, ra.toNat, rb.toNat, m.toNat⟩)
  | .vcmpLeu md ra rb m => some (specVcmpLeu, ⟨md.toNat, ra.toNat, rb.toNat, m.toNat⟩)
  | .vcmpGt md ra rb m => some (specVcmpGt, ⟨md.toNat, ra.toNat, rb.toNat, m.toNat⟩)
  | .vcmpGtu md ra rb m => some (specVcmpGtu, ⟨md.toNat, ra.toNat, rb.toNat, m.toNat⟩)
  | .vcmpFeq md ra rb m => some (specVcmpFeq, ⟨md.toNat, ra.toNat, rb.toNat, m.toNat⟩)
  | .vcmpFne md ra rb m => some (specVcmpFne, ⟨md.toNat, ra.toNat, rb.toNat, m.toNat⟩)
  | .vcmpFlt md ra rb m => some (specVcmpFlt, ⟨md.toNat, ra.toNat, rb.toNat, m.toNat⟩)
  | .vcmpFle md ra rb m => some (specVcmpFle, ⟨md.toNat, ra.toNat, rb.toNat, m.toNat⟩)
  | .vcmpFgt md ra rb m => some (specVcmpFgt, ⟨md.toNat, ra.toNat, rb.toNat, m.toNat⟩)
  | .vcmpFge md ra rb m => some (specVcmpFge, ⟨md.toNat, ra.toNat, rb.toNat, m.toNat⟩)
  | .vcmpFunord md ra rb m => some (specVcmpFunord, ⟨md.toNat, ra.toNat, rb.toNat, m.toNat⟩)
  | .vcmpFord md ra rb m => some (specVcmpFord, ⟨md.toNat, ra.toNat, rb.toNat, m.toNat⟩)
  | .mand rd ra rb => some (specMand, ⟨rd.toNat, ra.toNat, rb.toNat, 0⟩)
  | .mor rd ra rb => some (specMor, ⟨rd.toNat, ra.toNat, rb.toNat, 0⟩)
  | .mxor rd ra rb => some (specMxor, ⟨rd.toNat, ra.toNat, rb.toNat, 0⟩)
  | .mandn rd ra rb => some (specMandn, ⟨rd.toNat, ra.toNat, rb.toNat, 0⟩)
  | .mnot rd ra => some (specMnot, ⟨rd.toNat, ra.toNat, 0, 0⟩)
  | .mset rd => some (specMset, ⟨rd.toNat, 0, 0, 0⟩)
  | .mclr rd => some (specMclr, ⟨rd.toNat, 0, 0, 0⟩)
  | .mpopc rd ra => some (specMpopc, ⟨rd.toNat, ra.toNat, 0, 0⟩)
  | .mfirst rd ra => some (specMfirst, ⟨rd.toNat, ra.toNat, 0, 0⟩)
  | .mfromv rd ra => some (specMfromv, ⟨rd.toNat, ra.toNat, 0, 0⟩)
  | .mtov rd ra => some (specMtov, ⟨rd.toNat, ra.toNat, 0, 0⟩)
  | .msbf rd ra => some (specMsbf, ⟨rd.toNat, ra.toNat, 0, 0⟩)
  | .miota rd ra => some (specMiota, ⟨rd.toNat, ra.toNat, 0, 0⟩)
  | .vslideup rd ra rb => some (specVslideup, ⟨rd.toNat, ra.toNat, rb.toNat, 0⟩)
  | .vslidedn rd ra rb => some (specVslidedn, ⟨rd.toNat, ra.toNat, rb.toNat, 0⟩)
  | .vbfly rd ra rb => some (specVbfly, ⟨rd.toNat, ra.toNat, rb.toNat, 0⟩)
  | .vperm rd ra rb => some (specVperm, ⟨rd.toNat, ra.toNat, rb.toNat, 0⟩)
  | .vcompress rd ra rb => some (specVcompress, ⟨rd.toNat, ra.toNat, rb.toNat, 0⟩)
  | .vexpand rd ra rb => some (specVexpand, ⟨rd.toNat, ra.toNat, rb.toNat, 0⟩)
  | .vid rd => some (specVid, ⟨rd.toNat, 0, 0, 0⟩)
  | .vbcast rd ra rb => some (specVbcast, ⟨rd.toNat, ra.toNat, rb.toNat, 0⟩)
  | .vextr rd ra rb => some (specVextr, ⟨rd.toNat, ra.toNat, rb.toNat, 0⟩)
  | .vinsr rd ra rb => some (specVinsr, ⟨rd.toNat, ra.toNat, rb.toNat, 0⟩)
  | .vmerge rd ra rb k => some (specVmerge k.toNat, ⟨rd.toNat, ra.toNat, rb.toNat, 0⟩)
  | .vfsqrt rd ra m => some (specVfsqrt, ⟨rd.toNat, ra.toNat, 0, m.toNat⟩)
  | .vneg rd ra m => some (specVneg, ⟨rd.toNat, ra.toNat, 0, m.toNat⟩)
  | .vnot rd ra m => some (specVnot, ⟨rd.toNat, ra.toNat, 0, m.toNat⟩)
  | .vclz rd ra m => some (specVclz, ⟨rd.toNat, ra.toNat, 0, m.toNat⟩)
  | .vctz rd ra m => some (specVctz, ⟨rd.toNat, ra.toNat, 0, m.toNat⟩)
  | .vpopc rd ra m => some (specVpopc, ⟨rd.toNat, ra.toNat, 0, m.toNat⟩)
  | .vfclass rd ra m => some (specVfclass, ⟨rd.toNat, ra.toNat, 0, m.toNat⟩)
  | .vfrint rd ra m => some (specVfrint, ⟨rd.toNat, ra.toNat, 0, m.toNat⟩)
  | .vcvtFI rd ra m => some (specVcvtFI, ⟨rd.toNat, ra.toNat, 0, m.toNat⟩)
  | .vcvtFIu rd ra m => some (specVcvtFIu, ⟨rd.toNat, ra.toNat, 0, m.toNat⟩)
  | .vcvtIF rd ra m => some (specVcvtIF, ⟨rd.toNat, ra.toNat, 0, m.toNat⟩)
  | .vcvtIuF rd ra m => some (specVcvtIuF, ⟨rd.toNat, ra.toNat, 0, m.toNat⟩)
  | .vwidenI rd ra m => some (specVwidenI, ⟨rd.toNat, ra.toNat, 0, m.toNat⟩)
  | .vwidenIu rd ra m => some (specVwidenIu, ⟨rd.toNat, ra.toNat, 0, m.toNat⟩)
  | .vnarrowI rd ra m => some (specVnarrowI, ⟨rd.toNat, ra.toNat, 0, m.toNat⟩)
  | .vnarrowIs rd ra m => some (specVnarrowIs, ⟨rd.toNat, ra.toNat, 0, m.toNat⟩)
  | .vfwiden rd ra m => some (specVfwiden, ⟨rd.toNat, ra.toNat, 0, m.toNat⟩)
  | .vfnarrow rd ra m => some (specVfnarrow, ⟨rd.toNat, ra.toNat, 0, m.toNat⟩)
  | .vrsum rd ra m => some (specVrsum, ⟨rd.toNat, ra.toNat, 0, m.toNat⟩)
  | .vrmax rd ra m => some (specVrmax, ⟨rd.toNat, ra.toNat, 0, m.toNat⟩)
  | .vrmin rd ra m => some (specVrmin, ⟨rd.toNat, ra.toNat, 0, m.toNat⟩)
  | .vrmaxu rd ra m => some (specVrmaxu, ⟨rd.toNat, ra.toNat, 0, m.toNat⟩)
  | .vrminu rd ra m => some (specVrminu, ⟨rd.toNat, ra.toNat, 0, m.toNat⟩)
  | .vredand rd ra m => some (specVredand, ⟨rd.toNat, ra.toNat, 0, m.toNat⟩)
  | .vredor rd ra m => some (specVredor, ⟨rd.toNat, ra.toNat, 0, m.toNat⟩)
  | .vredxor rd ra m => some (specVredxor, ⟨rd.toNat, ra.toNat, 0, m.toNat⟩)
  | .vfrsum rd ra m => some (specVfrsum, ⟨rd.toNat, ra.toNat, 0, m.toNat⟩)
  | .vfrmax rd ra m => some (specVfrmax, ⟨rd.toNat, ra.toNat, 0, m.toNat⟩)
  | .vfrmin rd ra m => some (specVfrmin, ⟨rd.toNat, ra.toNat, 0, m.toNat⟩)
  | .vscan rd ra m => some (specVscan, ⟨rd.toNat, ra.toNat, 0, m.toNat⟩)
  | .vfscan rd ra m => some (specVfscan, ⟨rd.toNat, ra.toNat, 0, m.toNat⟩)
  | .vscanx rd ra m => some (specVscanx, ⟨rd.toNat, ra.toNat, 0, m.toNat⟩)
  | .vrand rd ra rb => some (specVrand, ⟨rd.toNat, ra.toNat, rb.toNat, 0⟩)
  | .vrandf rd ra rb => some (specVrandf, ⟨rd.toNat, ra.toNat, rb.toNat, 0⟩)
  | .vrandm rd ra rb => some (specVrandm, ⟨rd.toNat, ra.toNat, rb.toNat, 0⟩)
  | .vld rd ra rb m => some (specVld, ⟨rd.toNat, ra.toNat, rb.toNat, m.toNat⟩)
  | .vldNb rd ra rb m => some (specVldNb, ⟨rd.toNat, ra.toNat, rb.toNat, m.toNat⟩)
  | .vst rd ra rb m => some (specVst, ⟨rd.toNat, ra.toNat, rb.toNat, m.toNat⟩)
  | .vstNb rd ra rb m => some (specVstNb, ⟨rd.toNat, ra.toNat, rb.toNat, m.toNat⟩)
  | .vldx rd ra rb m => some (specVldx, ⟨rd.toNat, ra.toNat, rb.toNat, m.toNat⟩)
  | .vldxNb rd ra rb m => some (specVldxNb, ⟨rd.toNat, ra.toNat, rb.toNat, m.toNat⟩)
  | .vstx rd ra rb m => some (specVstx, ⟨rd.toNat, ra.toNat, rb.toNat, m.toNat⟩)
  | .vstxNb rd ra rb m => some (specVstxNb, ⟨rd.toNat, ra.toNat, rb.toNat, m.toNat⟩)
  | .vaadd rd ra rb m => some (specVaadd, ⟨rd.toNat, ra.toNat, rb.toNat, m.toNat⟩)
  | .vafadd rd ra rb m => some (specVafadd, ⟨rd.toNat, ra.toNat, rb.toNat, m.toNat⟩)
  | .tld rd _ rs m => some (specTld, ⟨rd.toNat, rs.toNat, 0, m.toNat⟩)
  | .tst rd _ rs m => some (specTst, ⟨rd.toNat, rs.toNat, 0, m.toNat⟩)
  | .tldNb rd _ rs m => some (specTldNb, ⟨rd.toNat, rs.toNat, 0, m.toNat⟩)
  | .tstNb rd _ rs m => some (specTstNb, ⟨rd.toNat, rs.toNat, 0, m.toNat⟩)
  | _ => none

end Sys2Proof.Machine
end

