-- ==== Sys2Proof/Machine/VecEngine.lean ====
section
/-! DEFINITION. The vector stream at work: starting and writing element groups, committing entries, fence markers, link
entries of the Truss, counter increments, traps and interrupts of the stream (R101 to R108, R140 to R151, R184 to R186,
R199, R211, R212, R231, R232, R251). Only the oldest entry starts (log 4). -/

namespace Sys2Proof.Machine

/-! ## What the stream has out on other dies (R210, R211) -/

/-- The packets of the current thread's vector stream. -/
def streamPackets (s : State) : List Packet := s.packets.filter fun p => ownPacket s.thr p && p.agent == .stream

/-- Accesses of the entry at a place in program order are out. -/
def outFor (s : State) (age : Nat) : Bool := (streamPackets s).any fun p => p.age == age

/-- The register elements whose data is still to come. -/
def pendingDests (s : State) : List ElemDest := (streamPackets s).filterMap (·.dest)

/-! ## The oldest entry -/

/-- A wait for room in the vector queue or for an own vector entry is over, as an entry leaves the queue: the instruction tries
again. -/
def retryWait : Option Wait → Option Wait
  | some .vqFull | some .arit => some .other
  | w => w

/-- Removes the oldest entry. -/
def dropHead (t : Thread) : Thread := { t with wait := retryWait t.wait, v := { t.v with vq := t.v.vq.tail } }

/-- The oldest entry, while the stream is not stopped at a held trap (R104). -/
def liveHead : Op VEntry := do
  let t ← read (·.thr)
  enabled (t.v.held = none)
  orStop (headOf t) .absent

/-- `q4` or `q5` where a scalar field names it. -/
def queueField (k : FieldKind) (n : Nat) : Option Nat := if k = .scalar ∧ (n = 124 ∨ n = 125) then some (n - 120) else none

/-- The queues that a repeat pops, in the order of its fields (R42, R105). -/
def popsOf (v : VSpec) (f : VFields) : List Nat := (queueField v.ka f.a).toList ++ (queueField v.kb f.b).toList

/-- The first value of a queue, or the queue that is empty. -/
def peekQueue (q : Nat) : List Word → Except Nat (Word × List Word)
  | x :: rest => .ok (x, rest)
  | [] => .error q

/-- The values of the scalar fields of the repeat in progress, or the empty queue it waits for. -/
def scalarsOf (t : Thread) (e : VEntry) (v : VSpec) (f : VFields) : Except Nat (Word × Word) :=
  let c := e.caps.getD e.j (0, 0)
  match queueField v.ka f.a, queueField v.kb f.b with
  | none, none => .ok c
  | some q, none => (peekQueue q (queueAt t q)).map fun x => (x.1, c.2)
  | none, some q => (peekQueue q (queueAt t q)).map fun x => (c.1, x.1)
  | some q, some r =>
    match peekQueue q (queueAt t q) with
    | .error b => .error b
    | .ok (x, rest) => (peekQueue r (if r = q then rest else queueAt t r)).map fun y => (x, y.1)

/-- The entry's word and what it sees. -/
def headCtx (e : VEntry) : Op (VSpec × LaneCtx) := do
  let (v, f0) ← orStop (vword e.ins) .absent
  let t ← read (·.thr)
  let f := f0.atRepeat e.rep e.j
  match scalarsOf t e v f with
  | .ok (sa, sb) => pure (v, ⟨t, e, f, sa, sb⟩)
  | .error q => raise (.wait (.popEmpty q 0))

/-! ## Starting (R141, R198, R199) -/

/-- The position after the element group that holds a position, within the vector length. -/
def groupEnd (w pos vl : Nat) : Nat := max pos (min vl ((pos / (256 / w) + 1) * (256 / w)))

/-- The positions of the group in progress. -/
def groupPositions (w pos vl : Nat) : List Nat := (List.range (groupEnd w pos vl - pos)).map (pos + ·)

/-- Buffers the results of a group. -/
def pushBuf (ws : List VWrite) (fl : BitVec 5) (e : VEntry) : VEntry := { e with buf := e.buf ++ [(ws, fl)], checked := true }

/-- Adds results to the group in progress. -/
def extendBuf (ws : List VWrite) (fl : BitVec 5) (e : VEntry) : VEntry :=
  match e.buf.getLast? with
  | some g => { e with buf := e.buf.dropLast ++ [(g.1 ++ ws, g.2 ||| fl)] }
  | none => e

/-- For whom an entry makes its accesses, with the replies that have come for its element in progress (log 46) and its pages. -/
def entryActing (e : VEntry) : Acting := { agent := .stream, age := e.age, elem := 0, replies := e.replies, pages := e.pages }

/-- The pages that accesses of the oldest entry have translated stay with it (R197). -/
def keepHeadPages (before : Option Acting) (s : State) : State :=
  let ps := match s.thr.acting with | some a => a.pages | none => []
  { s with thr := withHead (fun e => { e with pages := ps }) { s.thr with acting := before } }

/-- Accesses of the oldest entry: it uses up its replies as they complete. -/
def asHead {α : Type} (m : Op α) : Op α := fun s =>
  match m { s with thr := { s.thr with acting := (headOf s.thr).map entryActing } } with
  | .ok x s' => .ok x { keepHeadPages s.thr.acting s' with
      thr := withHead (fun e => { e with replies := [] }) (keepHeadPages s.thr.acting s').thr }
  | .error x s' => .error x (keepHeadPages s.thr.acting s')

/-- Performs elements of a memory entry in order; `pos` names the element in progress, for which the replies have come. -/
def performElems (c : LaneCtx) (f : LaneCtx → Nat → Op (List VWrite × BitVec 5)) : List Nat → Op Unit
  | [] => pure ()
  | i :: is => do
    modHead fun e => { e with pos := i }
    if c.active i then do
      let r ← asHead (f c i)
      modHead (extendBuf r.1 r.2)
    performElems c f is

/-- A group of a memory entry, from the element in progress on; the checks that precede its first element come once. -/
def startMem (c : LaneCtx) (pre : LaneCtx → Op Unit) (f : LaneCtx → Nat → Op (List VWrite × BitVec 5)) : Op Unit := do
  if c.e.checked then pure () else asHead (pre c)
  modHead fun e => if c.e.opened then e else { pushBuf [] 0 e with opened := true }
  performElems c f (groupPositions c.w c.e.pos c.e.vl)
  modHead fun e => { e with pos := groupEnd c.w c.e.pos c.e.vl, opened := false }

/-- Starts what an entry's kind of work gives as its next group. -/
def startSem (c : LaneCtx) : VSem → Op Unit
  | .lanes f => do
    let rs := ((groupPositions c.w c.e.pos c.e.vl).filter c.active).map (f c)
    modHead fun e =>
      { pushBuf (rs.map Prod.fst).flatten (rs.foldl (fun fl r => fl ||| r.2) 0) e with
        pos := groupEnd c.w c.e.pos c.e.vl }
  | .whole f => do
    let r := f c
    modHead fun e => { pushBuf r.1 r.2 e with pos := max e.pos e.vl }
  | .mem pre f => startMem c pre f
  | .tensor pre f whole =>
    if fmtRaw (shapeFmt c.e.shape) then startMem c pre f
    else do
      let fl ← asHead (whole c)
      modHead fun e => { pushBuf [] fl e with pos := max e.pos e.vl }
  | .marker | .link => raise .absent

/-- The entry commits when its accesses are sent (R211, R213). -/
def nonBlocking (e : VEntry) : Bool :=
  match e.ins with
  | .vldNb .. | .vstNb .. | .vldxNb .. | .vstxNb .. | .vaadd .. | .vafadd .. | .tldNb .. | .tstNb .. => true
  | _ => false

/-- Checks the counter of a non-blocking entry before its first element and keeps where it lies (R212). -/
def noteCounter (e : VEntry) : Op Unit := do
  if nonBlocking e && e.nbctr != 0 && ! e.checked then do
    let r ← asHead (access .store e.kernel 8 e.nbctr)
    modThr fun t => withHead (fun e => { e with ctr := some ⟨e.nbctr, ⟨r.fpa, r.key⟩, r.page t.k.ctxid, e.age⟩ }) t
  else pure ()

/-- The vector registers that a repeat of a word names, with what a pair adds. -/
def namedRegs (v : VSpec) (f : VFields) : List Nat :=
  let regs (k : FieldKind) (n : Nat) : List Nat :=
    if (k = .vreg ∨ k = .vop ∨ k = .vregOrQueue) ∧ n < 48 then [n, n + 1] else []
  regs v.kd f.d ++ regs v.ka f.a ++ regs v.kb f.b

/-- Registers wait for data that committed loads have still to get (R144, R211). -/
def waitLanded (long : Bool) (rs : List Nat) : Op Unit := do
  let out ← read pendingDests
  require (! out.any fun d => d.long == long && rs.contains d.reg) (.wait .other)

/-- The element groups that the result buffer holds (R142); a thread in long mode whose groups are being changed goes on as with one
(log 71). -/
def bufferRoom (t : Thread) (e : VEntry) : Nat := if e.long then 16 * max 1 t.v.lg else 4

/-- The oldest entry starts its next element group, or goes on with it (R141): its sources are available, the interlock lets a
memory entry go, and there is room in the result buffer. DESIGN CHOICE (log 85): a non-blocking entry's counter is checked before its
shape and its first element, of which R212 gives no order. -/
def startGroup : Op Unit := do
  let e ← liveHead
  let t ← read (·.thr)
  enabled (e.opened = true ∨ ((e.checked = false ∨ e.pos < e.vl) ∧ e.buf.length < bufferRoom t e))
  let (v, c) ← headCtx e
  if e.checked then pure () else waitLanded e.long (namedRegs v c.f)
  interlock e.age (entryRanges e)
  noteCounter e
  startSem c v.sem

/-! ## Writing and committing (R142, R144, R149, R162) -/

/-- The vector registers that a word writes: none for a store, a pair for a wide result in long mode. -/
def destRegs (i : Instr) (v : VSpec) (f : VFields) (long : Bool) : List Nat :=
  match i with
  | .vst .. | .vstNb .. | .vstx .. | .vstxNb .. | .vaadd .. | .vafadd .. | .tst .. | .tstNb .. => []
  | .vwidenI .. | .vwidenIu .. | .vfwiden .. => if long then [f.d, f.d + 1] else [f.d]
  | _ => if (v.kd = .vreg ∨ v.kd = .vregOrQueue) ∧ f.d < 48 then [f.d] else []

/-- Marks every element group of registers landed, or none. -/
def setLanded (b : Bool) (rs : List Nat) (t : Thread) : Thread :=
  { t with v := { t.v with landed := rs.foldl (fun l r => vset l r (if b then 0xFFFFFFFF else 0)) t.v.landed } }

/-- The element groups whose data is still to come have not landed (R211). -/
def unland (out : List ElemDest) (t : Thread) : Thread :=
  { t with v := { t.v with
    landed := out.foldl (fun l d => vset l d.reg (setBit (vget l d.reg 0) (d.elem * d.sew / 256) false)) t.v.landed } }

/-- The repeat in progress is done: its queues are popped, its counter is due, and the next repeat or entry follows
(R185, R211, R212). -/
def commitRepeat (e : VEntry) (t : Thread) : Thread :=
  match vword e.ins with
  | none => dropHead t
  | some (v, f0) =>
    let f := f0.atRepeat e.rep e.j
    let t1 := (popsOf v f).foldl (fun u q => setQueue q (queueAt u q).tail u) t
    let t2 := setLanded true (destRegs e.ins v f e.long) t1
    let t3 := { t2 with v := { t2.v with nbq := t2.v.nbq ++ e.ctr.toList } }
    if e.j + 1 < entryCount e then
      withHead (fun e => { e with
        j := e.j + 1, pos := 0, wpos := 0, vstart := 0, checked := false, opened := false, buf := [], replies := [], pages := [],
        stop := none, ctr := none }) t3
    else dropHead t3

/-- A non-blocking entry that commits holds its range while it has requests out; those with none out no longer do (R211, R226). -/
def holdRange (e : VEntry) (s : State) : State :=
  if nonBlocking e && decide (entryCount e ≤ e.j + 1) then
    { s with thr := { s.thr with v := { s.thr.v with outs := (s.thr.v.outs ++ [e]).filter fun x => outFor s x.age } } }
  else s

/-- The oldest entry writes its oldest buffered group, with its flags; after the last group it commits, a blocking one when all its
accesses have performed (R211), and a queue result is pushed as it does. -/
def writeElems : Op Unit := do
  let e ← liveHead
  match e.buf with
  | [] => raise .absent
  | (ws, fl) :: rest => do
    enabled (e.opened = false ∨ rest ≠ [])
    let t ← read (·.thr)
    let out ← read (outFor · e.age)
    require (rest ≠ [] ∨ e.pos < e.vl ∨ nonBlocking e ∨ out = false) (.wait .other)
    forEach ws fun w => match w with
      | .push q _ => require ((queueAt t q).length < 16) (.wait (.pushFull q))
      | _ => pure ()
    let e' := { e with buf := rest, wpos := groupEnd (vtSew e.vtype) e.wpos e.vl }
    modThr fun t => withHead (fun _ => e') (addFlags fl (ws.foldl (applyWrite e.long) t))
    if rest = [] ∧ e.vl ≤ e.pos then update fun s => holdRange e' { s with thr := commitRepeat e' s.thr } else pure ()
    let ds ← read pendingDests
    modThr (unland ds)

/-! ## Markers, links, counters -/

/-- A fence marker commits when its condition holds (R231, R232). -/
def markerStep (e : VEntry) : Op Unit := do
  match e.ins with
  | .fenceSv sc => do
    waitOlder ⟨true, false, false, false⟩ sc.toNat e.age
    modThr dropHead
  | .fenceVv sc => do
    waitOlder ⟨false, true, false, false⟩ sc.toNat e.age
    modThr dropHead
  | _ => raise .absent

/-- The Truss entry of a link entry. -/
def linkedEntry (t : Thread) (seq : BitVec 16) : Option TEntry := t.tq.find? fun x => x.seq == seq && x.push.isNone

/-- The registers and the mask that a link entry copies for its Truss entry (R251). -/
def stagedOperands (t : Thread) (e : VEntry) (sn : Word) : List VReg × MReg :=
  let mask (m : BitVec 4) : MReg := if m = 0 then 0 else mreg t e.long (m.toNat - 1)
  match e.ins with
  | .mmav _ _ va _ m =>
    ((List.range (2 ^ (sn.extractLsb' 7 2).toNat)).map fun k => vreg t e.long (va.toNat + k), mask m)
  | .mmat _ _ _ _ m | .mmatG _ _ _ _ m => ([], mask m)
  | .mwr _ va _ => ([vreg t e.long va.toNat], 0)
  | _ => ([], 0)

/-- A long register takes a whole new content (R270: every landed bit set, all 32 groups dirty). -/
def writeWhole (r : Nat) (x : VReg) (t : Thread) : Thread :=
  match t.v.long with
  | some c => setLanded true [r] { t with v := { t.v with long := some { c with
      regs := vset c.regs r x, dirty := vset c.dirty r true, hw := vset c.hw r 31 } } }
  | none => t

/-- The vector registers that a link entry reads or writes (R251). -/
def linkRegs (t : Thread) (i : Instr) (seq : BitVec 16) : List Nat :=
  match i with
  | .mmav _ _ va _ _ =>
    let sn := match linkedEntry t seq with | some x => x.sn | none => 0
    (List.range (2 ^ (sn.extractLsb' 7 2).toNat)).map (va.toNat + ·)
  | .mwr _ va _ => [va.toNat]
  | .mrd vd _ _ => [vd.toNat]
  | _ => []

/-- A link entry: it stages operands, or writes what an `mrd` delivered, and commits; the entry of a discarded Truss entry
commits with no effect (R251, R264). -/
def linkStep (e : VEntry) (seq : BitVec 16) : Op Unit := do
  let t ← read (·.thr)
  waitLanded e.long (linkRegs t e.ins seq)
  match e.ins, e.delivered with
  | .mrd vd _ _, some (some x) => modThr fun t => dropHead (writeWhole vd.toNat x t)
  | .mrd vd _ _, _ =>
    require (linkedEntry t seq = none ∨ e.delivered.isSome) (.wait .other)
    modThr fun t => dropHead (setLanded true [vd.toNat] t)
  | _, _ =>
    modThr fun t => dropHead { t with tq := t.tq.map fun x =>
      if x.seq == seq && x.push.isNone then
        let o := stagedOperands t e x.sn
        { x with staged := true, regs := o.1, mask := o.2 }
      else x }

/-- LINK_ENTRY_STAGING (R251). -/
def stageLink : Op Unit := do
  let e ← liveHead
  let seq ← orStop e.link .absent
  linkStep e seq

/-- Where a counter lies, as an access through its translation reaches it. -/
def Counter.ref (c : Counter) : Ref :=
  { fpa := c.loc.fpa, key := c.loc.key, win := false, va := c.va, leaf := c.page.head?.map fun e => (e.pte, e.large) }

/-- The oldest counter increment that committed entries have left, once every access of its entry has performed (R211, R212): one
atomic that releases the entry's accesses. -/
def incrementCounter : Op Unit := do
  let t ← read (·.thr)
  match t.v.nbq with
  | [] => raise .absent
  | p :: rest => do
    let out ← read (outFor · p.age)
    require (out = false) (.wait .other)
    update (l1Remove p.loc.fpa 8)
    let _ ← actFor { agent := .stream, age := p.age, elem := 0, replies := [], pages := [] } (atomicRef p.ref .add 1)
    modThr fun t => { t with v := { t.v with nbq := rest } }

def isMarker (e : VEntry) : Bool := match e.ins with | .fenceSv _ | .fenceVv _ => true | _ => false

/-- The oldest counter increment can be made. -/
def counterReady (s : State) : Bool := match s.thr.v.nbq with | c :: _ => ! outFor s c.age | [] => false

/-- What the stream of the current thread does next. -/
def streamStep : Op Unit := do
  if ← read counterReady then incrementCounter
  else do
    let e ← liveHead
    match e.link with
    | some seq => linkStep e seq
    | none => if isMarker e then markerStep e else if e.buf = [] ∨ e.opened then startGroup else writeElems

/-! ## Traps and interrupts of the stream (R103, R104, R150, R186, R199) -/

/-- Writes every buffered group. -/
def flushBuf (t : Thread) : Thread :=
  match headOf t with
  | none => t
  | some e =>
    let ws := (e.buf.map Prod.fst).flatten
    let fl := e.buf.foldl (fun fl g => fl ||| g.2) 0
    withHead (fun e => { e with buf := [] }) (addFlags fl (ws.foldl (applyWrite e.long) t))

/-- The element of a load has a location: any but the elements of a tensor load beyond its view (R216). -/
def loadsElem (c : LaneCtx) (i : Nat) : Bool :=
  match c.e.ins with
  | .tld .. | .tldNb .. => decide (c.viewElem i < viewCount c.e.shape)
  | _ => true

/-- The active elements of a load's destination at and above the faulting one hold undefined values (R199, log 10). -/
def spoilLoad (e : VEntry) (s : State) : State :=
  match vword e.ins with
  | some (v, f0) =>
    if isLoad e.ins && e.checked then
      let f := f0.atRepeat e.rep e.j
      let sa := match scalarsOf s.thr e v f with | .ok x => x.1 | .error _ => 0
      let c : LaneCtx := ⟨s.thr, e, f, sa, 0⟩
      let is := ((List.range e.vl).filter c.active).filter fun i => decide (e.pos ≤ i) && loadsElem c i
      { s with
        fresh := s.fresh + 1
        thr := is.foldl (fun t i => writeElem e.long c.f.d i c.w (Config.loadElem s.fresh c.f.d i) t) s.thr }
    else s
  | none => s

/-- The oldest entry goes back to an element, with nothing buffered. -/
def rewindHead (k : Nat) : Thread → Thread :=
  withHead fun e => { e with
    first := e.j, start := k, vstart := k, pos := k, wpos := k, buf := [], checked := false, opened := false, replies := [],
    pages := [], stop := none, ctr := none }

/-- The oldest entry restarts at an element; `vstart` and `rep` say where (R137, R150, R186). -/
def restartAt (k : Nat) (t : Thread) : Thread :=
  match headOf t with
  | none => t
  | some e =>
    let u := { t.u with vstart := BitVec.ofNat 11 k, rep := if e.rep.isSome then BitVec.ofNat 6 e.j else t.u.rep }
    rewindHead k { t with u := u }

/-- A trap of the vector stream at the element that `pos` names: taken, or held while the thread is in kernel mode
(R104, R374). -/
def streamTrap (cause : BitVec 8) (val : Word) (s : State) : State :=
  match headOf s.thr with
  | none => s
  | some e =>
    let s1 := spoilLoad e { s with thr := flushBuf s.thr }
    if s1.thr.k.km then
      let t := rewindHead e.pos s1.thr
      { s1 with thr := { t with v := { t.v with held := some ⟨cause, val⟩ } } }
    else takeTrap true cause val { s1 with thr := restartAt e.pos s1.thr }

/-- The stream stops at a group boundary for an interrupt: a memory entry has written what it performed, any other keeps its
unwritten groups for the replay (R150). -/
def stopStream (t : Thread) : Thread :=
  match headOf t with
  | none => t
  | some e => if entryRanges e ≠ [] then restartAt e.pos (flushBuf t) else if e.link.isSome || isMarker e then restartAt 0 t
    else restartAt e.wpos t

/-- The trap of a stream that stops in user mode, or the held trap at the boundary after `eret` (R104). -/
def takeHeld (s : State) : State :=
  match s.thr.v.held, headOf s.thr with
  | some h, some e =>
    takeTrap true h.cause h.val
      { s with thr := { restartAt e.pos s.thr with v := { (restartAt e.pos s.thr).v with held := none } } }
  | _, _ => s

/-- How far the oldest entry is with its elements. -/
def headProgress (s : State) : Option (Nat × Nat × Bool) := (headOf s.thr).map fun e => (e.pos, e.buf.length, e.opened)

/-- A step that ends in a wait keeps the elements that it has performed. -/
def keepProgress (s s' : State) : Option State := if headProgress s' = headProgress s then none else some s'

/-- The scalar side waits for no reply and has none to use, and no `ctxsave` waits for its stores (log 46). -/
def scalarQuiet (s : State) : Bool := s.thr.replies.isEmpty && s.thr.saving.isNone && ! asking s .scalar

/-- The thread can leave its stream at the oldest entry: nothing that this entry or the scalar side has sent is out (R103, R150). -/
def canLeave (s : State) : Bool :=
  scalarQuiet s && match headOf s.thr with | some e => ! outFor s e.age | none => true

/-- How a step of the stream of the current thread ends, if it moves. A trap waits for what the elements before the trapping one
have sent (R103, R199). -/
def streamEnd (s : State) : EStateM.Result Stop State Unit → Option State
  | .ok _ s' => some s'
  | .error (.trap c v) s' => if canLeave s' then some (streamTrap c v s') else keepProgress s s'
  | .error (.trapKeep c v) s' => if canLeave s' then some (streamTrap c v s') else keepProgress s s'
  | .error (.fatal c a) s' => some (fatalHere c a s')
  | .error (.request q) s' =>
    match headOf s'.thr with
    | some e => if asking s .stream then keepProgress s s' else some (sendRequest (entryActing e) q s')
    | none => none
  | .error (.wait _) s' => keepProgress s s'
  | .error (.waitKeep _) s' => keepProgress s s'
  | .error (.waitDone _) s' => keepProgress s s'
  | .error .absent _ => none

/-- One step of the stream of the current thread, if it can move. -/
def streamTurn (s : State) : Option State := streamEnd s (streamStep s)

/-- The stream moves until it waits, at most n steps (log 4). -/
def settle : Nat → State → State
  | 0, s => s
  | n + 1, s => match streamTurn s with
    | some s' => settle n s'
    | none => s

/-! ## What the stream waits on (R102, R105, R106) -/

/-- The queue that the stream waits on and whether it waits to push. -/
def streamWaits (s : State) : Option (Nat × Bool) :=
  match streamStep s with
  | .error (.wait (.popEmpty q _)) _ => some (q, false)
  | .error (.wait (.pushFull q)) _ => some (q, true)
  | _ => none

end Sys2Proof.Machine
end

