-- ==== Sys2Proof/Machine/VecExec.lean ====
section
/-! DEFINITION. Issuing vector-stream words (R101), the prefix `rep` (R53, R54, R184, R185), the prefix `loop` (R56, R281 to
R284), vector control (R131, R132, R139), `qstat` (R106) and queue deadlock (R108, R268). -/

namespace Sys2Proof.Machine

open Host (Outcome)

/-! ## Enqueuing (R101) -/

/-- The nest offset of the body word in execution (R282). -/
def ownNest (t : Thread) : Word :=
  match t.loop with
  | some l => if (lctlNmask t.u.lctl).getLsbD (lctlPos t.u.lctl) then nestOffset l.nest t.u.li else 0
  | none => 0

/-- The value that a scalar field gives at enqueue: s0 to s119, or s0 to s63 broadcast (R43, R101). -/
def captured (t : Thread) (k : FieldKind) (n : Nat) : Option Word :=
  match k with
  | .scalar => if n < 120 then some (scalar t (BitVec.ofNat 7 n)) else none
  | .vop => if 64 ≤ n ∧ n < 128 then some (scalar t (BitVec.ofNat 7 (n - 64))) else none
  | _ => none

/-- The captured values of each repeat, and how many there are (R371). -/
def captures (t : Thread) (v : VSpec) (f : VFields) (p : Option RepPrefix) (n : Nat) : List (Word × Word) × Nat :=
  let cs := (List.range n).map fun j =>
    let g := f.atRepeat p j
    (captured t v.ka g.a, captured t v.kb g.b)
  (cs.map fun c => (c.1.getD 0, c.2.getD 0), (cs.map fun c => c.1.toList.length + c.2.toList.length).sum)

/-- The shape register that a tensor word captures, its base moved by the nest offset (R215, R282). -/
def shapeOf (t : Thread) (i : Instr) : ShapeReg :=
  match i with
  | .tld _ n _ _ | .tst _ n _ _ | .tldNb _ n _ _ | .tstNb _ n _ _ =>
    let x := vget t.shp n.toNat 0
    x.extractLsb' 64 448 ++ (shapeBase x + ownNest t)
  | _ => 0

/-- The entry that a word becomes. -/
def newEntry (t : Thread) (i : Instr) (p : Option RepPrefix) (caps : List (Word × Word)) (nscal : Nat) : VEntry where
  ins := i
  age := t.issued
  pc := ownPc t
  rep := p
  vl := vecLen t
  vtype := t.u.vtype
  long := isLong t
  vstart := t.u.vstart.toNat
  caps := caps
  nscal := nscal
  nest := match i with | .tld .. | .tst .. | .tldNb .. | .tstNb .. => 0 | _ => ownNest t
  shape := shapeOf t i
  nbctr := t.u.nbctr
  rthr := t.u.rthr
  kernel := t.k.km
  link := none
  delivered := none
  first := if p.isSome then t.u.rep.toNat else 0
  start := t.u.vstart.toNat
  j := if p.isSome then t.u.rep.toNat else 0
  pos := t.u.vstart.toNat
  wpos := t.u.vstart.toNat
  buf := []
  checked := false
  opened := false
  replies := []
  pages := []
  stop := none
  ctr := none

/-- Puts an entry into the vector queue, when there is room for it and its scalars (R101, R371). -/
def enqueue (e : VEntry) (dests : List Nat) : Op Unit := do
  let t ← read (·.thr)
  require (fitsBlock (t.v.vq ++ [e]) = true) (.wait .vqFull)
  if entryRanges e ≠ [] then aritRoom 1 else pure ()
  modThr fun t => setLanded false dests { t with
    issued := t.issued + 1
    u := { t.u with vstart := 0, rep := if e.rep.isSome then 0 else t.u.rep }
    v := { t.v with vq := t.v.vq ++ [e] } }

/-- The checks of every repeat, and the entry's way into the queue. DEDUCED (log 22): a failed check reports the repeated word as
`kval`, as R72 has it for the failing word; also where `rep` stands at or above the count (R184), which names no word. -/
def enqueueWord (i : Instr) (p : Option RepPrefix) : Op Unit := do
  let t ← read (·.thr)
  let (v, f) ← orStop (vword i) .absent
  let n := match p with | some p => p.count | none => 1
  let stepped := match p with
    | none => true
    | some p => (! p.stepD || steppedOk v.kd f.d n p.step) && (! p.stepA || steppedOk v.ka f.a n p.step)
        && (! p.stepB || steppedOk v.kb f.b n p.step) && decide (t.u.rep.toNat < n)
  checkWord i false false (stepped && (List.range n).all fun j => v.fieldsOk t (f.atRepeat p j))
  let c := captures t v f p n
  let e := newEntry t i p c.1 c.2
  enqueue e (((List.range n).drop e.first).flatMap fun j => destRegs i v (f.atRepeat p j) (isLong t))

/-- The stream moves on with the instruction that fed it, unless the turn defers it (log 4). -/
def runStream : Op Unit := update fun s => if s.turn.defer then s else settle 4096 s

/-- A vector-stream word. -/
def vectorOp (i : Instr) (s : State) : Outcome State Fault Refusal :=
  finish (do enqueueWord i none; modThr retire; runStream) s

/-! ## `rep` (R53, R54, R185) -/

/-- The words that `rep` may repeat. -/
def decodeRepeated (w : IWord) : Option Instr :=
  let r := match (fldMajor w).toNat with
    | 0x30 => decodeVcmp w
    | 0x32 => decodeCross w
    | 0x33 => decodeVunary w
    | 0x34 => decodeVreduce w
    | 0x36 | 0x37 | 0x38 | 0x39 | 0x3A => decodeVmem w
    | n => if 0x20 ≤ n ∧ n ≤ 0x2F then decodeVarith w else .error .reservedMajor
  match r with | .ok i => some i | .error _ => none

/-- The flags that R54 forbids for a word. -/
def repFlagsOk (i : Instr) (fd fb : Bool) : Bool :=
  let m := majorOf i
  let noB := m == 0x33 || m == 0x34 || (match i with | .vexpand .. | .vcompress .. => true | _ => false)
  ! (m == 0x30 && fd) && ! (fb && noB)

/-- `rep` with the word after it (R53, R54). -/
def execRep (cnt : BitVec 6) (fd fa fb : Bool) (st : BitVec 2) (s : State) : Outcome State Fault Refusal :=
  finish (do
    checkWord (.rep cnt fd fa fb st) false false true
    let t ← read (·.thr)
    let w ← fetchWord (t.pc + 4)
    let bad : Stop := .trap (causeCode .illegalInstruction) (w.setWidth 64)
    let i ← orStop (decodeRepeated w) bad
    require (repFlagsOk i fd fb = true) bad
    enqueueWord i (some ⟨cnt.toNat + 1, fd, fa, fb, 2 ^ st.toNat⟩)
    modThr fun t => { t with pc := t.pc + 8, wait := none, replies := [], pages := [] }
    runStream) s

/-! ## `loop` (R56, R281 to R284) -/

/-- The majors of body words, and of nest-relative ones (R56). -/
def bodyMajor (n : Nat) : Bool :=
  decide (1 ≤ n ∧ n ≤ 8) || n == 0x0A || n == 0x0B || n == 0x14 || n == 0x15 || decide (0x20 ≤ n ∧ n ≤ 0x3E)
def nestMajor (n : Nat) : Bool := n == 0x14 || n == 0x15 || decide (0x36 ≤ n ∧ n ≤ 0x39) || n == 0x3B

/-- Fetches and checks body words, the first at an address (R56). -/
def fetchBody (nm : BitVec 13) : Nat → Nat → Word → Op (List IWord)
  | 0, _, _ => pure []
  | n + 1, k, va => do
    let w ← fetchWord va
    let m := (fldMajor w).toNat
    require ((bodyMajor m && (! nm.getLsbD k || nestMajor m)) = true) (.trap (causeCode .illegalInstruction) (w.setWidth 64))
    let ws ← fetchBody nm n (k + 1) (va + 4)
    pure (w :: ws)

/-- `loop`: it checks its body and hands over to the body words, which run at this address until the nest is done. DESIGN CHOICE (log
81): where NMASK has a bit at or above the number of body words, R56 names no failing word; `kval` is the loop word. -/
def execLoop (t len : BitVec 4) (nm : BitVec 13) (s : State) : Outcome State Fault Refusal :=
  finish (do
    let i : Instr := .loop t len nm
    checkWord i false false true
    require (nm.toNat < 2 ^ (len.toNat + 1)) (.trap (causeCode .illegalInstruction) (wordVal i))
    let th ← read (·.thr)
    let ws ← fetchBody nm (len.toNat + 1) 0 (th.pc + 4)
    let nest := vget th.shp t.toNat 0
    let l := th.u.lctl
    require (! lctlActive l ∨
        (lctlTs l = t ∧ l.extractLsb' 0 4 = len ∧ lctlNmask l = nm ∧ lctlPos l ≤ len.toNat
          ∧ (List.range 6).all fun d => decide ((vget th.u.li d 0).toNat < shapeExt nest d)))
      (.trap (causeCode .illegalOperand) (wordVal i))
    let li : Vector (BitVec 16) 6 := if lctlActive l then th.u.li else .replicate 6 0
    let pos := if lctlActive l then lctlPos l else 0
    if viewCount nest = 0 then
      modThr fun t => { t with
        pc := t.pc + BitVec.ofNat 64 (4 * (len.toNat + 2)), wait := none, replies := [], pages := [], u := { t.u with li := li } }
    else
      modThr fun u => { u with
        wait := none
        replies := []
        pages := []
        loop := some ⟨nest, ws⟩
        u := { u.u with li := li, lctl := lctlOf len t nm pos } }) s

/-! ## Vector control (R131, R132, R139) -/

/-- The lane groups and the contexts that threads of a Span hold. -/
def groupsHeld (s : State) (peer span : Nat) : Nat :=
  (((allThreads s).filter fun t => t.status == .running && t.place.peer == peer && t.place.span == span).map fun t => t.v.lg).sum
def contextsHeld (s : State) (peer span : Nat) : Nat :=
  ((allThreads s).filter fun t => t.status == .running && t.place.peer == peer && t.place.span == span && isLong t).length

/-- The first of the waiters, if what it needs is free (R132). -/
def grantable (s : State) (peer span : Nat) : Option (Nat × Nat) :=
  match (spanOf s peer span).waiters with
  | (slot, g, needCtx) :: _ =>
    if groupsHeld s peer span + g ≤ 8
      ∧ (! needCtx ∨ contextsHeld s peer span < partNctx (partOf (spanOf s peer span))) then some (slot, g) else none
  | [] => none

/-- A long context at entry: every register and mask zero (R131, R151). -/
def freshContext : LongCtx where
  regs := .replicate 48 0
  masks := .replicate 12 0
  dirty := .replicate 48 false
  hw := .replicate 48 0
  hws := .replicate 48 0

/-- `vl` within VLMAX. -/
def clampVl (t : Thread) : Thread :=
  { t with u := { t.u with vl := if vlmax t < t.u.vl.toNat then BitVec.ofNat 11 (vlmax t) else t.u.vl } }

/-- The thread receives its lane groups, and a context if it had none; its `vmode.l` goes on. -/
def enterLong (g : Nat) (t : Thread) : Thread :=
  clampVl { t with
    wait := none
    v := { t.v with lg := g, long := match t.v.long with | some c => some c | none => some freshContext } }

/-- Grants the first waiter of a Span (R132). -/
def grantLong (peer span : Nat) : Op Unit := do
  let (slot, g) ← orStop (← read (grantable · peer span)) .absent
  update fun s => modThreads (fun t => t.status == .running && t.place == ⟨peer, span, slot⟩) (enterLong g)
    (modSpan peer span (fun x => { x with waiters := x.waiters.tail }) s)

/-- `vmode.l` (R131). DESIGN CHOICE (log 71): a trap or interrupt that takes the thread out of this wait, its owned groups released,
leaves MODE 1 and LG 0, and vector words then run in long mode; the rule does not say. -/
def execVmodeL (ra : BitVec 7) (s : State) : Outcome State Fault Refusal :=
  finish (do
    let i : Instr := .vmodeL ra
    checkWord i false false (srcS ra)
    let g ← readS ra
    require (g = 1 ∨ g = 2 ∨ g = 4 ∨ g = 8) (.trap (causeCode .illegalOperand) (wordVal i))
    let t ← read (·.thr)
    require (partNctx t.u.part ≠ 0) (.trap (causeCode .poolCapacity) (t.u.part.setWidth 64))
    let out ← read pendingDests
    require (t.v.vq = [] ∧ t.v.nbq = [] ∧ out = []) (.wait .other)
    if t.v.long.isSome ∧ t.v.lg = g.toNat then modThr retire
    else do
      update fun u => modMySpan (fun x =>
        { x with waiters := x.waiters.filter (fun w => w.1 != t.place.slot) ++ [(t.place.slot, g.toNat, t.v.long.isNone)] })
        { u with thr := { u.thr with v := { u.thr.v with lg := 0 } } }
      let w ← read fun s => grantable s t.place.peer t.place.span
      if w = some (t.place.slot, g.toNat) then do
        grantLong t.place.peer t.place.span
        modThr retire
      else
        update fun u => { u with thr := { s.thr with wait := some .longMode, v := { s.thr.v with lg := 0 } } }) s

/-- The pending matrix error of the thread (R264). -/
def matrixError (t : Thread) : Bool := t.u.mstat.getLsbD 5

/-- Raises *matrix error* while ERR = 1 (R264). -/
def raiseMatrix : Op Unit := do
  let t ← read (·.thr)
  require (matrixError t = false) (.trap (causeCode .matrix) ((t.u.mstat.extractLsb' 16 16).setWidth 64))

/-- The thread's vector stream and its Truss have nothing out on other dies. -/
def streamsQuiet (s : State) : Bool :=
  ! s.packets.any fun p => ownPacket s.thr p && (p.agent == .stream || p.agent == .truss)

/-- Every vector and Truss entry of the current thread has completed: its status entry is pushed and its stores are acknowledged
(R131, R269, R270). -/
def streamsIdle (s : State) : Bool :=
  s.thr.v.vq.isEmpty && s.thr.v.nbq.isEmpty && s.thr.tq.isEmpty && streamsQuiet s

/-- `vmode.s` (R131, R264). -/
def execVmodeS (s : State) : Outcome State Fault Refusal :=
  scalarOp .vmodeS true (do
    require ((← read streamsIdle) = true) (.wait .other)
    raiseMatrix
    modThr fun t => clampVl { t with v := { t.v with long := none, lg := 0 } }) s

/-- Sets `vl` and returns it. -/
def setVl (rd : BitVec 7) (n : Nat) : Op Unit := do
  modThr fun t => { t with u := { t.u with vl := BitVec.ofNat 11 n } }
  writeS rd (BitVec.ofNat 64 n)

/-- `setvl` (R139). -/
def execSetvl (rd ra : BitVec 7) (s : State) : Outcome State Fault Refusal :=
  scalarOp (.setvl rd ra) (dstS rd && srcS ra) (do
    let a ← readS ra
    let t ← read (·.thr)
    setVl rd (min a.toNat (vlmax t))) s

/-- `setvl.d` (R139). -/
def execSetvlD (rd ra rb : BitVec 7) (s : State) : Outcome State Fault Refusal :=
  scalarOp (.setvlD rd ra rb) (dstS rd && srcS ra && srcS rb) (do
    let a ← readS ra
    let b ← readS rb
    let t ← read (·.thr)
    setVl rd (min (min a.toNat (vlmax t)) b.toNat)) s

/-- Sets the nine bits of `vtype`, refusing a value that R77 does not accept. -/
def setVtype (word : Word) (nv : BitVec 9) : Op Unit := do
  require (vtypeOk nv = true) (.trap (causeCode .illegalOperand) word)
  modThr fun t => clampVl { t with u := { t.u with vtype := nv } }

/-- `setvt` (R139). -/
def execSetvt (ra : BitVec 7) (s : State) : Outcome State Fault Refusal :=
  scalarOp (.setvt ra) (srcS ra) (do
    let a ← readS ra
    setVtype (wordVal (.setvt ra)) (a.setWidth 9)) s

/-! ## `vcp`, `qstat` and queue deadlock (R102, R106, R108, R268) -/

/-- The address of the oldest uncommitted entry, or 0: while entries are saved, of the oldest saved one (log 27). -/
def vcpOf (s : State) : Word :=
  match (if s.thr.k.vqn = 0 then .ok [] s else restoreQueue s : EStateM.Result Stop State (List VEntry)) with
  | .ok (e :: _) _ => e.pc
  | _ => match s.thr.v.vq with | e :: _ => e.pc | [] => 0

/-- What the scalar side waits on, as `qstat` codes it: queue and cause. -/
def scalarBlock : Option Wait → Option (Nat × Nat)
  | some (.popEmpty q _) => some (q, 0)
  | some (.pushFull q) => some (q, 1)
  | some .vqFull => some (0, 2)
  | some .arit | some .aritFull => some (0, 3)
  | _ => none

/-- `qstat` (R106). -/
def qstatOf (s : State) : Word :=
  let occ := (List.range 8).foldl (fun n k => n + (queueAt s.thr k).length * 2 ^ (5 * k)) 0
  let sb := match scalarBlock s.thr.wait with | some (q, c) => 2 ^ 40 + q * 2 ^ 42 + c * 2 ^ 45 | none => 0
  let vb := match streamWaits s with
    | some (q, push) => 2 ^ 41 + q * 2 ^ 47 + (if push then 2 ^ 50 else 0)
    | none => 0
  BitVec.ofNat 64 (occ + sb + vb)

/-- The queues that an entry names as destination or source, over all its repeats (R108, R185). -/
def namedQueues (e : VEntry) : List Nat × List Nat :=
  match vword e.ins with
  | none => ([], [])
  | some (v, f) =>
    let fs := (List.range (entryCount e)).map (f.atRepeat e.rep)
    (fs.filterMap fun g => if (v.kd = .queue ∨ v.kd = .vregOrQueue) ∧ 120 ≤ g.d then some (g.d - 120) else none,
     fs.flatMap (popsOf v))

/-- The Truss entry will push q6. -/
def pushesStatus (e : TEntry) : Bool := e.notify || e.push.isSome

/-- The link entry of a Truss entry stands in the vector queue, at or after its head. -/
def linkWaiting (t : Thread) (e : TEntry) : Bool := t.v.vq.any fun v => v.link == some e.seq

/-- The condition of R268, the stream waiting at the head X of the vector queue: no pushing entry has started, and each, or
an older entry ahead of it, waits on a link entry. -/
def trussStuck (t : Thread) : Bool :=
  (List.range t.tq.length).all fun k =>
    match t.tq[k]? with
    | none => true
    | some e => ! pushesStatus e ||
        (! e.started && e.push.isNone && (t.tq.take (k + 1)).any (fun x => ! x.staged && linkWaiting t x))

/-- The thread is in queue deadlock (R108, R268). -/
def deadlocked (s : State) : Bool :=
  let t := s.thr
  let vw := streamWaits s
  match t.wait with
  | some (.popEmpty q held) =>
    if held < (queueAt t q).length then false
    else if q < 4 then
      (match vw with | some (_, push) => ! push | none => false) || ! t.v.vq.any fun e => (namedQueues e).1.contains q
    else if q = 6 then
      ! t.tq.any pushesStatus || (vw.isSome && trussStuck t)
    else if q = 7 then ! t.tr.any fun x => x.push.isSome || (x.notify && transferLive x)
    else false
  | some (.pushFull q) =>
    if (queueAt t q).length < 16 then false
    else if q = 4 ∨ q = 5 then
      (match vw with | some (_, push) => push | none => false) || ! t.v.vq.any fun e => (namedQueues e).2.contains q
    else false
  | some .vqFull => vw.isSome
  | some .arit => vw.isSome && t.v.vq.any fun e => entryRanges e != []
  | _ => false

end Sys2Proof.Machine
end

