-- ==== Sys2Proof/Machine/LoadStore.lean ====
section
/-! DEFINITION. Scalar loads and stores (majors 0x14, 0x15; R62, R123 to R125, R188 to R192), with the L1 data cache, the
interlock, and memory-mapped registers (R192, R224). -/

namespace Sys2Proof.Machine

open Host (Outcome)

/-! ## Loads -/

/-- The L1 may hold the line (R188): local HBM, and read-only window pages. -/
def cacheable (s : State) (r : Ref) : Bool := ! s.thr.host && (r.win || (homeKind r.fpa == .hbm && fpaPeer r.fpa == myPeer s))

/-- A request for a line of the L1 is on its way (R188); it takes the place of one for the line under another key id. -/
def startFill (r : Ref) (l : WinLine) (s : State) : State :=
  modMySpan (fun x => { x with
    fills := (x.fills.filter fun f => f.line != r.fpa / 64) ++ [⟨r.fpa / 64, l.data, l.fmt, l.scale, r.key⟩] }) s

/-- The line that the Span's L1 holds, or that a fill in flight brings it: a load joins the fill (R188, R225, log 39). -/
def heldLine (r : Ref) (s : State) : Option (BitVec 512) :=
  match (nget (mySpan s).l1 (r.fpa / 64)).filter fun l => l.key == r.key with
  | some l => some l.data
  | none => ((mySpan s).fills.find? fun f => f.line == r.fpa / 64 && f.key == r.key).map (·.data)

/-- n bytes of a line at an address. -/
def lineBytes (d : BitVec 512) (a n : Nat) : Nat := d.toNat / 2 ^ (8 * (a % 64)) % 2 ^ (8 * n)

/-- An ordinary scalar load: the L1's copy if it holds the line, else the home's value, which a fill then brings. -/
def cachedLoad (r : Ref) (n : Nat) : Op Nat := do
  match ← read (heldLine r) with
  | some d => pure (lineBytes d r.fpa n)
  | none => do
    let l ← loadSector r
    update (startFill r l)
    pure (lineBytes l.data r.fpa n)

/-- The address of a load or store word (R123, R282). -/
def lsAddress (t : Thread) (a : Word) (imm : BitVec 9) (n : Nat) : Word :=
  a + ownNest t + imm.signExtend 64 * BitVec.ofNat 64 n

/-- A scalar load of n bytes at an address. DESIGN CHOICE (logs 4, 46): accesses that do not overlap may perform in any order (R125,
R228); here one whose home is on the own die performs as the instruction issues, in program order, and one whose home is on another
die when its request arrives there, the thread waiting for the reply. -/
def scalarLoad (l1 : Bool) (n : Nat) (va : Word) : Op Nat := do
  let t ← read (·.thr)
  let r ← access (.scalarLoad n) t.k.km n va
  interlockScalar va n false
  if homeKind r.fpa = .mmio then mmioLoad r n
  else do
    let c ← read (cacheable · r)
    if l1 && c then cachedLoad r n else loadRef r n

/-- A load word: the value is extended to 64 bits by `ext`. -/
def loadOp (i : Instr) (rd ra : BitVec 7) (imm : BitVec 9) (l1 : Bool) (n : Nat) (ext : Nat → Word) (s : State) :
    Outcome State Fault Refusal :=
  scalarOp i (dstS rd && srcS ra) (do
    let a ← readS ra
    let t ← read (·.thr)
    roomFor rd
    let v ← scalarLoad l1 n (lsAddress t a imm n)
    writeS rd (ext v)) s

/-! ## Stores -/

/-- A plain store of the scalar side: it performs at its home, or leaves as a request; the Span's L1 follows (R188). -/
def plainStore (r : Ref) (n v : Nat) : Op Unit := do
  let far ← read (isRemote · r.fpa)
  storeRef r n v
  update fun s => if far then s else l1Store r.fpa n v s

/-- A store to TLBINV performs when its invalidation is complete (R380, R381). -/
def storeTlbinv (r : Ref) (v : Word) : Op Unit := do
  if ← read (isRemote · r.fpa) then do
    let x ← ask r 8 (.reg 8 (some v.toNat))
    require (x.val = 0) (.waitDone .inval)
  else do
    arrive .store r.fpa 8
    let o ← read fun s => tryInval (fpaPeer r.fpa) s.thr.place v s
    update fun _ => o.2
    require (o.1 = true) (.waitKeep .inval)
  modThr retire

/-- A scalar store of n bytes at an address; the step to the next word comes with it. -/
def scalarStore (n : Nat) (va : Word) (v : Nat) : Op Unit := do
  let t ← read (·.thr)
  let r ← access (.scalarStore n) t.k.km n va
  interlockScalar va n true
  if isTlbinv r.fpa then storeTlbinv r (BitVec.ofNat 64 v)
  else do
    if homeKind r.fpa = .mmio then mmioStore r n v else plainStore r n v
    modThr retire

/-- A store word: rd names the data. -/
def storeOp (i : Instr) (rd ra : BitVec 7) (imm : BitVec 9) (n : Nat) (s : State) : Outcome State Fault Refusal :=
  finish (do
    checkWord i false false (srcS rd && srcS ra)
    let a ← readS ra
    let d ← readS rd
    let t ← read (·.thr)
    scalarStore n (lsAddress t a imm n) (d.toNat % 2 ^ (8 * n))) s


/-- `lb` (R123). -/
def execLb (rd ra : BitVec 7) (imm : BitVec 9) (s : State) : Outcome State Fault Refusal :=
  loadOp (.lb rd ra imm) rd ra imm true 1 (fun v => (BitVec.ofNat 8 v).signExtend 64) s

/-- `lbu` (R123). -/
def execLbu (rd ra : BitVec 7) (imm : BitVec 9) (s : State) : Outcome State Fault Refusal :=
  loadOp (.lbu rd ra imm) rd ra imm true 1 (fun v => (BitVec.ofNat 8 v).setWidth 64) s

/-- `lh` (R123). -/
def execLh (rd ra : BitVec 7) (imm : BitVec 9) (s : State) : Outcome State Fault Refusal :=
  loadOp (.lh rd ra imm) rd ra imm true 2 (fun v => (BitVec.ofNat 16 v).signExtend 64) s

/-- `lhu` (R123). -/
def execLhu (rd ra : BitVec 7) (imm : BitVec 9) (s : State) : Outcome State Fault Refusal :=
  loadOp (.lhu rd ra imm) rd ra imm true 2 (fun v => (BitVec.ofNat 16 v).setWidth 64) s

/-- `lw` (R123). -/
def execLw (rd ra : BitVec 7) (imm : BitVec 9) (s : State) : Outcome State Fault Refusal :=
  loadOp (.lw rd ra imm) rd ra imm true 4 (fun v => (BitVec.ofNat 32 v).signExtend 64) s

/-- `lwu` (R123). -/
def execLwu (rd ra : BitVec 7) (imm : BitVec 9) (s : State) : Outcome State Fault Refusal :=
  loadOp (.lwu rd ra imm) rd ra imm true 4 (fun v => (BitVec.ofNat 32 v).setWidth 64) s

/-- `ld` (R123). -/
def execLd (rd ra : BitVec 7) (imm : BitVec 9) (s : State) : Outcome State Fault Refusal :=
  loadOp (.ld rd ra imm) rd ra imm true 8 (BitVec.ofNat 64) s

/-- `ldb` (R123). -/
def execLdb (rd ra : BitVec 7) (imm : BitVec 9) (s : State) : Outcome State Fault Refusal :=
  loadOp (.ldb rd ra imm) rd ra imm false 8 (BitVec.ofNat 64) s

/-- `sb` (R124). -/
def execSb (rd ra : BitVec 7) (imm : BitVec 9) (s : State) : Outcome State Fault Refusal :=
  storeOp (.sb rd ra imm) rd ra imm 1 s

/-- `sh` (R124). -/
def execSh (rd ra : BitVec 7) (imm : BitVec 9) (s : State) : Outcome State Fault Refusal :=
  storeOp (.sh rd ra imm) rd ra imm 2 s

/-- `sw` (R124). -/
def execSw (rd ra : BitVec 7) (imm : BitVec 9) (s : State) : Outcome State Fault Refusal :=
  storeOp (.sw rd ra imm) rd ra imm 4 s

/-- `sd` (R124). -/
def execSd (rd ra : BitVec 7) (imm : BitVec 9) (s : State) : Outcome State Fault Refusal :=
  storeOp (.sd rd ra imm) rd ra imm 8 s

end Sys2Proof.Machine
end

