-- ==== Sys2Proof/Machine/Sync.lean ====
section
/-! DEFINITION. Sync accesses and atomics of major 0x16 (R202 to R206) and the fences of major 0x17 (R229 to R232). -/

namespace Sys2Proof.Machine

open Host (Outcome)

/-! ## Acquire loads and release stores (R203, R204) -/

/-- Removes the copies that an acquire of a scope removes (R229). On a host core every scope acts as package scope or wider, and what
it removes are the window lines of its package's shared cache (R394). -/
def removeCopies (sc : Nat) : Op Unit := do
  let t ← read (·.thr)
  update fun s =>
    if t.host then modPkg (myNode s) (fun p => { p with hostLines := [] })
      (keepNoLines false (fun x => isHostPlace x.place && x.place.peer == myPeer s) s)
    else if sc = 0 then s else if sc = 1 then l1Clear s else windowClear (l1Clear s)

/-- An acquire load: it reads neither the L1 nor a window line. -/
def acquireLoad (i : Instr) (rd ra : BitVec 7) (sc : Nat) (s : State) : Outcome State Fault Refusal :=
  scalarOp i (dstS rd && srcS ra) (do
    let a ← readS ra
    let t ← read (·.thr)
    roomFor rd
    let r ← access .syncLoad t.k.km 8 a
    interlockScalar a 8 false
    let v ← loadRef { r with sync := true } 8
    removeCopies sc
    writeS rd (BitVec.ofNat 64 v)) s

/-- `lda.s` (R204). -/
def execLdaS (rd ra : BitVec 7) (s : State) : Outcome State Fault Refusal := acquireLoad (.ldaS rd ra) rd ra 0 s

/-- `lda.d` (R204). -/
def execLdaD (rd ra : BitVec 7) (s : State) : Outcome State Fault Refusal := acquireLoad (.ldaD rd ra) rd ra 1 s

/-- `lda.p` (R204). -/
def execLdaP (rd ra : BitVec 7) (s : State) : Outcome State Fault Refusal := acquireLoad (.ldaP rd ra) rd ra 3 s

/-- A release store (R204, R233, R234). -/
def releaseStore (i : Instr) (ra rb : BitVec 7) (sc : Nat) (s : State) : Outcome State Fault Refusal :=
  scalarOp i (srcS ra && srcS rb) (do
    let a ← readS ra
    let b ← readS rb
    let t ← read (·.thr)
    let r ← access .store t.k.km 8 a
    waitOlder ⟨true, true, false, sc == 3⟩ sc t.issued
    interlockScalar a 8 true
    plainStore { r with sync := true } 8 b.toNat) s

/-- `str.s` (R204). -/
def execStrS (ra rb : BitVec 7) (s : State) : Outcome State Fault Refusal := releaseStore (.strS ra rb) ra rb 0 s

/-- `str.d` (R204). -/
def execStrD (ra rb : BitVec 7) (s : State) : Outcome State Fault Refusal := releaseStore (.strD ra rb) ra rb 1 s

/-- `str.p` (R204). -/
def execStrP (ra rb : BitVec 7) (s : State) : Outcome State Fault Refusal := releaseStore (.strP ra rb) ra rb 3 s

/-! ## Atomics (R203, R205, R206) -/

/-- A no-return atomic: here at its home, or as a request. The Span's L1 lines go first (R188). -/
def atomicOp (i : Instr) (ra rb : BitVec 7) (op : AtomicOp) (s : State) : Outcome State Fault Refusal :=
  scalarOp i (srcS ra && srcS rb) (do
    let a ← readS ra
    let b ← readS rb
    let t ← read (·.thr)
    let n := atomicSize op
    let r ← access .atomic t.k.km n a
    interlockScalar a n true
    update fun s => if t.host then s else l1Remove r.fpa n s
    let fl ← atomicRef r op b
    modThr (addFlags fl)) s

/-- `aadd` (R203). -/
def execAadd (ra rb : BitVec 7) (s : State) : Outcome State Fault Refusal := atomicOp (.aadd ra rb) ra rb .add s

/-- `aand` (R203). -/
def execAand (ra rb : BitVec 7) (s : State) : Outcome State Fault Refusal := atomicOp (.aand ra rb) ra rb .and s

/-- `aor` (R203). -/
def execAor (ra rb : BitVec 7) (s : State) : Outcome State Fault Refusal := atomicOp (.aor ra rb) ra rb .or s

/-- `axor` (R203). -/
def execAxor (ra rb : BitVec 7) (s : State) : Outcome State Fault Refusal := atomicOp (.axor ra rb) ra rb .xor s

/-- `amin` (R203). -/
def execAmin (ra rb : BitVec 7) (s : State) : Outcome State Fault Refusal := atomicOp (.amin ra rb) ra rb .min s

/-- `amax` (R203). -/
def execAmax (ra rb : BitVec 7) (s : State) : Outcome State Fault Refusal := atomicOp (.amax ra rb) ra rb .max s

/-- `aminu` (R203). -/
def execAminu (ra rb : BitVec 7) (s : State) : Outcome State Fault Refusal := atomicOp (.aminu ra rb) ra rb .minu s

/-- `amaxu` (R203). -/
def execAmaxu (ra rb : BitVec 7) (s : State) : Outcome State Fault Refusal := atomicOp (.amaxu ra rb) ra rb .maxu s

/-- `afadd` (R203, R206). -/
def execAfadd (ra rb : BitVec 7) (s : State) : Outcome State Fault Refusal := atomicOp (.afadd ra rb) ra rb .fadd s

/-- `afadds` (R203, R206). -/
def execAfadds (ra rb : BitVec 7) (s : State) : Outcome State Fault Refusal := atomicOp (.afadds ra rb) ra rb .fadds s

/-- A value-returning atomic of 8 bytes on a sync page (R203): rd gets what stood there. The Span's L1 line goes first (R188). -/
def fetchWordOp (rd : BitVec 7) (a : Word) (op : FetchOp) : Op Unit := do
  let t ← read (·.thr)
  roomFor rd
  let r ← checkAccess .atomic t.k.km 8 8 true a
  interlockScalar a 8 true
  update fun s => if t.host then s else l1Remove r.fpa 8 s
  let old ← fetchRef r op
  writeS rd (BitVec.ofNat 64 old)

/-- `afetch` (R203). -/
def execAfetch (rd ra rb : BitVec 7) (s : State) : Outcome State Fault Refusal :=
  scalarOp (.afetch rd ra rb) (dstS rd && srcS ra && srcS rb) (do
    let a ← readS ra
    let b ← readS rb
    fetchWordOp rd a (.add b)) s

/-- `aswap` (R203). -/
def execAswap (rd ra rb : BitVec 7) (s : State) : Outcome State Fault Refusal :=
  scalarOp (.aswap rd ra rb) (dstS rd && srcS ra && srcS rb) (do
    let a ← readS ra
    let b ← readS rb
    fetchWordOp rd a (.swap b)) s

/-- `acas` (R46, R202, R203): the pair rb, rb+1 is the comparand and the new value. -/
def execAcas (rd ra rb : BitVec 7) (s : State) : Outcome State Fault Refusal :=
  scalarOp (.acas rd ra rb) (dstS rd && srcS ra && pairS rb) (do
    let a ← readS ra
    let t ← read (·.thr)
    let want := scalar t rb
    let new := scalar t (rb + 1)
    fetchWordOp rd a (.cas want new)) s

/-- A read of a sum word, rounded (R95, R203). -/
def sumRead (i : Instr) (rd ra : BitVec 7) (f : Fmt) (s : State) : Outcome State Fault Refusal :=
  scalarOp i (dstS rd && srcS ra) (do
    let a ← readS ra
    let t ← read (·.thr)
    roomFor rd
    let r ← access .syncLoad t.k.km 16 a
    interlockScalar a 16 false
    let w ← loadRef { r with sync := true } 16
    writeS rd (BitVec.ofNat 64 (sumRound f (BitVec.ofNat 128 w)))) s

/-- `sumrd` (R203). -/
def execSumrd (rd ra : BitVec 7) (s : State) : Outcome State Fault Refusal := sumRead (.sumrd rd ra) rd ra fp64 s

/-- `sumrds` (R203). -/
def execSumrds (rd ra : BitVec 7) (s : State) : Outcome State Fault Refusal := sumRead (.sumrds rd ra) rd ra fp32 s

/-! ## Fences (R230 to R232) -/

/-- A scope as the issuer's agent reads it: below package scope a host core's acts as package scope (R394). -/
def effScope (t : Thread) (sc : BitVec 2) : Nat := if t.host then max 2 sc.toNat else sc.toNat

/-- A fence that holds the scalar side. -/
def holdFence (i : Instr) (sc : BitVec 2) (w : Waits) (acquires : Bool) (s : State) : Outcome State Fault Refusal :=
  scalarOp i true (do
    let t ← read (·.thr)
    waitOlder w (effScope t sc) t.issued
    if acquires then removeCopies (effScope t sc) else pure ()) s

/-- A fence that enters the vector queue as a marker (R232); a host core has no vector stream for it to hold. DESIGN CHOICE (log 84):
R137 does not say whether a marker captures `vstart`; it leaves it as it stands for the next word. -/
def markerFence (i : Instr) (s : State) : Outcome State Fault Refusal :=
  finish (do
    checkWord i false false true
    let t ← read (·.thr)
    if t.host then modThr retire
    else do
      require (t.v.vq.length < 64) (.wait .vqFull)
      modThr fun t => retire { t with
        issued := t.issued + 1
        v := { t.v with vq := t.v.vq ++ [{ newEntry t i none [] 0 with start := 0, vstart := 0, pos := 0, wpos := 0 }] } }
      runStream) s

/-- `fence.sv` (R231). -/
def execFenceSv (sc : BitVec 2) (s : State) : Outcome State Fault Refusal := markerFence (.fenceSv sc) s

/-- `fence.vs` (R231). -/
def execFenceVs (sc : BitVec 2) (s : State) : Outcome State Fault Refusal :=
  holdFence (.fenceVs sc) sc ⟨false, true, false, false⟩ false s

/-- `fence.vv` (R231). -/
def execFenceVv (sc : BitVec 2) (s : State) : Outcome State Fault Refusal := markerFence (.fenceVv sc) s

/-- `fence.all` (R231). -/
def execFenceAll (sc : BitVec 2) (s : State) : Outcome State Fault Refusal :=
  holdFence (.fenceAll sc) sc ⟨true, true, true, false⟩ true s

/-- `fence.acq` (R231). -/
def execFenceAcq (sc : BitVec 2) (s : State) : Outcome State Fault Refusal :=
  holdFence (.fenceAcq sc) sc ⟨false, false, true, false⟩ true s

/-- `fence.rel` (R231). -/
def execFenceRel (sc : BitVec 2) (s : State) : Outcome State Fault Refusal :=
  holdFence (.fenceRel sc) sc ⟨true, true, false, false⟩ false s

/-- `fence.rem` (R231): every SCOPE behaves the same. -/
def execFenceRem (sc : BitVec 2) (s : State) : Outcome State Fault Refusal :=
  holdFence (.fenceRem sc) sc ⟨false, false, false, true⟩ false s

end Sys2Proof.Machine
end

