-- ==== Sys2Proof/Machine/Copy.lean ====
section
/-! DEFINITION. The copy engine (R285 to R301): launching a transfer by a read of `ce.launch`, its units, its completion,
stops, `ceresume`, `cecancel`, `cestat`, `ceprom`, promises. -/

namespace Sys2Proof.Machine

open Host (Outcome)

/-! ## Checks of a launch (R287, R289) -/

/-- A shape with another base. -/
def withBase (t : ShapeReg) (b : Word) : ShapeReg := t.extractLsb' 64 448 ++ b

/-- The sector condition of a plain copy. -/
def sectorCondition (t : ShapeReg) : Bool :=
  let n := copySize false (shapeFmt t)
  shapeStr t 0 == (n : Int) && shapeExt t 0 * n % 64 == 0 && (shapeBase t).toNat % 64 == 0
    && ((List.range 5).map (· + 1)).all fun d => decide (shapeExt t d ≤ 1) || shapeStr t d % 64 == 0

/-- Step 4 or 5 of R289 for one side. -/
def copySideOk (converting : Bool) (t : ShapeReg) : Bool :=
  (converting || fmtRaw (shapeFmt t) || sectorCondition t) && (! fmtBitPlane (shapeFmt t) || planeViewOk t)

/-- Step 6 of R289. -/
def convertedOk (t : ShapeReg) : Bool :=
  fmtRaw (shapeFmt t) ||
    ((! fmtBitPlane (shapeFmt t) || fmtPlanes (shapeFmt t) == 8)
      && (unitsOf t (List.range (viewCount t))).all (unitCovered t))

/-- The format checks, in order (R289). -/
def checkFormats (word : Word) (converting : Bool) (ts td : ShapeReg) : Op Unit := do
  let fault (t : ShapeReg) : Stop := .trap (causeCode .format) (shapeBase t)
  require (fmtAssigned (shapeFmt ts) = true) (fault ts)
  require (fmtAssigned (shapeFmt td) = true) (fault td)
  require (converting = true ∨ shapeFmt ts = shapeFmt td) (.trap (causeCode .illegalOperand) word)
  require (copySideOk converting ts = true) (fault ts)
  require (copySideOk converting td = true) (fault td)
  require (converting = false ∨ convertedOk td = true) (fault td)

/-! ## Bytes, slots and promises (R285, R300) -/

/-- The elements of a transfer that have performed, from the lowest on: those below its element in progress and below every element
with a request that is not acknowledged (R292, R299). -/
def performedElems (s : State) (p : Place) (x : Transfer) : Nat :=
  ((s.packets.filter fun q => q.place == p && q.agent == .copy x.order && q.elem < x.k).map (·.elem)).foldl min x.k

/-- The larger of the bytes that a transfer reads and those that it writes with its last n elements. -/
def copyBytes (x : Transfer) (n : Nat) : Nat :=
  let side (write : Bool) (f : BitVec 8) : Nat :=
    if fmtBitPlane f ∧ x.converting ∧ ! write then n * fmtPlanes f / 8 else n * copySize x.converting f
  max (side false (shapeFmt x.src)) (side true (shapeFmt x.dst))

/-- Every transfer of the current thread's Span, with its place. -/
def spanTransfers (s : State) : List (Place × Transfer) :=
  ((allThreads s).filter fun t => t.status == .running && t.place.peer == myPeer s && t.place.span == s.thr.place.span).flatMap
    fun t => t.tr.map fun x => (t.place, x)

/-- A transfer that still needs its slot for more than its status. -/
def slotBusy (x : Transfer) : Bool := transferLive x || x.push.isSome

/-- The grant of an entry of the activity budgets (R390). -/
def grantOf (s : State) (peer res cls ten : Nat) : Nat :=
  ((nget (dieOf s peer).grants (128 * res + 16 * cls + ten)).getD 0).toNat

/-- The number of the Viaduct port of a die toward another compute die of its package (R390). -/
def portToward (a b : Nat) : Nat := 2 + (if a % 4 < b % 4 then b % 4 - 1 else b % 4)

/-- The copy-class grants that serve a page with its home at an address (R300). -/
def pageGrants (s : State) (h : Nat) : List Nat :=
  let me := myPeer s
  let ten := s.thr.k.ktenant.toNat
  (if homeKind h = .hbm then [grantOf s (fpaPeer h) (fpaStack h) 2 ten] else [])
    ++ (if fpaPeer h = me then []
        else if fpaNode h = me / 4 then
          [grantOf s me (portToward me (fpaPeer h)) 2 ten, grantOf s (fpaPeer h) (portToward (fpaPeer h) me) 2 ten]
        else [grantOf s me 5 2 ten])

/-- Lat of a home (R300). -/
def pageLat (s : State) (h : Nat) : Nat :=
  if fpaPeer h = myPeer s then 250 else if fpaNode h = myNode s then 450 else 1200

/-- The promise of a transfer launched or resumed now (R300). DESIGN CHOICE (log 90): for a zero-extent copy with CTR = 0, older
transfers with CTR = 0 count as being on the same CTR. -/
def promiseOf (s : State) (x : Transfer) : Word :=
  let older := (spanTransfers s).filter fun y => transferLive y.2 && decide (y.2.order < x.order)
  if viewCount x.src = 0 then
    ((older.filter fun y => y.1 == s.thr.place && y.2.ctr == x.ctr).map fun y => y.2.promise).foldl
      (fun a p => if a.toNat < p.toNat then p else a)
      (if older.any fun y => y.1 == s.thr.place && y.2.ctr == x.ctr then 0 else BitVec.ofNat 64 s.time)
  else
    match homeOf s (shapeBase x.src), homeOf s (shapeBase x.dst) with
    | some a, some b =>
      let gs := pageGrants s a ++ pageGrants s b
      let g := match gs with | [] => 600000 | g :: rest => rest.foldl min g
      let work := (older.map fun y => copyBytes y.2 (viewCount y.2.src - performedElems s y.1 y.2)).sum + copyBytes x (viewCount x.src - x.k)
      if g = 0 then BitVec.allOnes 64
      else BitVec.ofNat 64 (s.time + max (pageLat s a) (pageLat s b) + 1000 * ((work + g - 1) / g))
    | _, _ => Config.blindPromise x.order

/-- The engine reuses the slot of the oldest finished transfer of the Span where all 32 hold something (R299). -/
def reuseSlot (s : State) : State :=
  let all := spanTransfers s
  if all.length < 32 then s
  else
    match (all.filter fun y => ! slotBusy y.2).foldl
        (fun (o : Option (Place × Transfer)) y => match o with
          | none => some y
          | some z => some (if y.2.order < z.2.order then y else z)) none with
    | none => s
    | some z => modThreads (fun t => t.status == .running && t.place == z.1)
        (fun t => { t with tr := t.tr.filter fun x => x.order != z.2.order }) s

/-! ## The read of `ce.launch` (R287) -/

/-- Launches a transfer and returns the value read. -/
def launchCopy (word : Word) : Op Word := do
  let t ← read (·.thr)
  let c := t.ce
  let ts := withBase (vget t.shp (c.sh.extractLsb' 0 4).toNat 0) c.src
  let td := withBase (vget t.shp (c.sh.extractLsb' 4 4).toNat 0) c.dst
  let bad : Stop := .trap (causeCode .illegalOperand) word
  let kind := (c.mode.extractLsb' 0 2).toNat
  require (kind < 2) bad
  require (viewCount ts = viewCount td) bad
  require (viewCount ts < 2 ^ 48) bad
  let x : Transfer := {
    id := c.nextId, age := t.issued, order := 0, src := ts, dst := td, ctr := c.ctr, inc := c.inc, converting := kind == 1,
    notify := c.mode.getLsbD 2, kernel := t.k.km, k := 0, state := .running, cause := 0, flags := 0, flagged := false,
    replies := [], added := false, failed := false, promise := 0, missed := false, irq := false, held := false, push := none }
  if viewCount ts = 0 then pure ()
  else do
    checkFormats word x.converting ts td
    require (! (viewRange ts (copySize x.converting (shapeFmt ts)) false).any (fun a =>
      (viewRange td (copySize x.converting (shapeFmt td)) true).any a.overlaps)) bad
  if c.ctr = 0 then pure ()
  else do
    let _ ← access .store t.k.km 8 c.ctr
    pure ()
  let busy ← read fun s => ((spanTransfers s).filter fun y => slotBusy y.2).length
  require (busy < 32) (.wait .other)
  if viewCount ts = 0 then pure () else aritRoom 2
  update reuseSlot
  let p ← read fun s => promiseOf s { x with order := s.fresh }
  let last : Word := p.extractLsb' 0 48 ++ c.nextId
  update fun s => { s with
    fresh := s.fresh + 1
    thr := { s.thr with
      issued := s.thr.issued + 1
      ce := { s.thr.ce with last := last, nextId := c.nextId + 1 }
      tr := s.thr.tr ++ [{ x with order := s.fresh, promise := p }] } }
  pure last

/-! ## Elements and units (R288 to R292) -/

/-- The exact value of source element l for a converting copy; a refused descriptor stops the transfer with cause 0x0A. -/
def copyValue (x : Transfer) (l : Nat) : Op (FpVal × Bool) := do
  let f := shapeFmt x.src
  if fmtRaw f then do
    let v ← loadElement x.kernel 4 (viewAddr x.src l)
    pure (fpVal fp32 v, false)
  else
    match ← readView x.kernel x.src (loadPlanes f) l with
    | .refused sec => trapC .format sec
    | .value v bad => pure (v, bad)

/-- The exact values of elements, in order. -/
def copyValues (x : Transfer) : List Nat → Op (List (Nat × FpVal × Bool))
  | [] => pure []
  | l :: ls => do
    let v ← copyValue x l
    let rest ← copyValues x ls
    pure ((l, v.1, v.2) :: rest)

/-- The elements of a unit, rising. -/
def unitElems (t : ShapeReg) : UnitId → List Nat
  | .sector va => sectorElems t (fmtSize (shapeFmt t)) va
  | .group g => (List.range 512).map (512 * g + ·)

/-- NV where a 16-bit or FP32 source value is a signalling NaN (R75). A non-finite group reads as the canonical quiet NaN,
for which the copy's rule raises nothing at the source (R80). -/
def valuesFlag (vs : List (Nat × FpVal × Bool)) : BitVec 5 :=
  if vs.any fun v => v.2.1 == .nan true then flagNV else 0

/-- A converting copy performs element l: an FP32 element alone, any other with its whole unit, at the unit's lowest
element (R291): its source and the unit's destination are checked before the sources of the unit's other elements (R296). -/
def convertElem (x : Transfer) (l : Nat) : Op (BitVec 5) := do
  if fmtRaw (shapeFmt x.dst) then do
    let v ← copyValue x l
    let r := roundFp fp32 0 0 v.1
    storeElement x.kernel 4 (viewAddr x.dst l) r.1
    pure (r.2 ||| valuesFlag [(l, v.1, v.2)])
  else do
    let u := unitOf x.dst l
    let es := unitElems x.dst u
    if es.head? = some l then do
      let v ← copyValue x l
      forEach (unitSectors x.dst u) fun va => do
        let _ ← access .store x.kernel 64 va
        pure ()
      let rest ← copyValues x es.tail
      let vs := (l, v.1, v.2) :: rest
      let fl ← writeUnitId x.kernel x.dst 0 0
        (fun n => match vs.find? fun v => v.1 == n with | some v => v.2.1 | none => .num false 0 0) u
      pure (fl ||| valuesFlag vs)
    else pure 0

/-- Copies one sector with its descriptor (R81, R290). -/
def copySector (km : Bool) (src dst : Word) : Op Unit := do
  let r ← access .load km 64 src
  let d ← loadSector r
  waitSent 64 dst
  writeSector km dst d.data d.fmt d.scale

/-- The source sector of which a destination sector becomes the whole image, and the first element of that image: every byte is
last written from the byte of the source sector at the same place (R290, R292). -/
def wholeSector (x : Transfer) (va : Word) : Option (Nat × Word) :=
  let n := copySize false (shapeFmt x.dst)
  let es := (sectorElems x.dst n va).map fun l => (l, viewAddr x.dst l - va)
  let writer (j : Nat) : Option (Nat × Word) := (es.filter fun e => decide ((BitVec.ofNat 64 j - e.2).toNat < n)).getLast?
  match (List.range 64).mapM writer with
  | none | some [] => none
  | some ((l0, off) :: ws) =>
    let src := viewAddr x.src l0 - off
    if src.toNat % 64 = 0 ∧ ws.all (fun e => viewAddr x.src e.1 - src == e.2) then
      some (ws.foldl (fun m e => min m e.1) l0, src) else none

/-- A plain copy performs element l: its plane sectors, the whole sector whose image begins with it, or its bytes; the other elements
of the image come with the sector (R288, R290). -/
def plainElem (x : Transfer) (l : Nat) : Op Unit := do
  let n := copySize false (shapeFmt x.dst)
  if fmtBitPlane (shapeFmt x.dst) then
    if l % 512 = 0 then
      forEach ((List.range 8).map fun k => 7 - k) fun p =>
        copySector x.kernel (planeAddr x.src l p) (planeAddr x.dst l p)
    else pure ()
  else
    let va := sectorVa (viewAddr x.dst l)
    let bytes : Op Unit := do
      let v ← loadElement x.kernel n (viewAddr x.src l)
      storeElement x.kernel n (viewAddr x.dst l) v
    match wholeSector x va with
    | some (l0, src) => if l = l0 then copySector x.kernel src va else if l0 < l then pure () else bytes
    | none => bytes

/-- One element of a transfer, with its flags. -/
def copyElem (x : Transfer) (l : Nat) : Op (BitVec 5) := do
  if x.converting then convertElem x l
  else do
    plainElem x l
    pure 0

/-! ## The engine at work (R285, R293, R296) -/

/-- Changes a transfer of the current thread. -/
def modTransfer (order : Nat) (f : Transfer → Transfer) (s : State) : State :=
  { s with thr := { s.thr with tr := s.thr.tr.map fun x => if x.order = order then f x else x } }

/-- A stop at the transfer's element (R296): by a fault, or by a memory error, which raises the interrupt 0x82. -/
def stopTransfer (order : Nat) (memory : Bool) (cause : BitVec 8) : State → State :=
  modTransfer order fun x => { x with
    replies := []
    added := false
    failed := false
    state := if memory then .stoppedMemory else .stoppedFault
    cause := if memory then 0 else cause
    irq := x.irq || memory }

/-- Accesses of a transfer of the current thread are out on other dies (R292). -/
def copyOut (s : State) (order : Nat) : Bool := s.packets.any fun p => ownPacket s.thr p && p.agent == .copy order

/-- For whom a transfer makes its accesses, with the replies for its unit in progress (log 46). -/
def copyActing (x : Transfer) : Acting := { agent := .copy x.order, age := x.age, elem := x.k, replies := x.replies, pages := [] }

/-- A fault of a transfer stops it, once the elements before have performed (R296). -/
def faultCopy (order : Nat) (memory : Bool) (cause : BitVec 8) (s s' : State) : State :=
  if copyOut s order then s else stopTransfer order memory cause s'

/-- Performs elements from k on, at most n; a fault stops the transfer there, and an element waits for the replies to its
requests. -/
def runCopy (order : Nat) : Nat → State → State
  | 0, s => s
  | n + 1, s =>
    match s.thr.tr.find? fun x => x.order == order with
    | none => s
    | some x =>
      if x.failed then faultCopy order true 0 s s
      else if viewCount x.src ≤ x.k then s
      else
        match actFor (copyActing x) (copyElem x x.k) s with
        | .ok fl s' =>
          runCopy order n (modTransfer order (fun x => { x with k := x.k + 1, flags := x.flags ||| fl, replies := [] }) s')
        | .error (.trap c _) s' => faultCopy order false c s s'
        | .error (.trapKeep c _) s' => faultCopy order false c s s'
        | .error (.fatal .memoryError _) s' => faultCopy order true 0 s s'
        | .error (.fatal c a) s' => fatalHere c a s'
        | .error (.request q) _ => sendRequest (copyActing x) q s
        | .error _ _ => s

/-- Nothing older of the thread holds the transfer: its conflicting accesses have performed, no older fence marker stands in
the vector queue or is saved from it, and no older completion entry waits for room in q7 (R107, R226, R231). -/
def copyFree (s : State) (x : Transfer) : Bool :=
  let t := s.thr
  let rs := transferRanges x
  ! (olderEntries t x.age).any (fun e => isMarker e || conflict rs (entryRanges e))
    && ! (olderOuts s x.age).any (fun e => conflict rs (entryRanges e))
    && ! (olderTransfers t x.age).any (fun y => conflict rs (transferRanges y))
    && ! (olderTruss t x.age).any (fun e => conflict rs (trussRanges e))
    && ! (olderPackets s x.age).any (fun p => conflict rs [packetRange p])
    && ! heldByColl s x.age rs
    && ! t.tr.any fun y => decide (y.order < x.order) && y.push.isSome

/-- The transfer that the engine serves next for the current thread: the oldest that can move. -/
def nextCopy (s : State) : Option Transfer :=
  s.thr.tr.find? fun x => x.state == .running && ! x.held
    && (if x.failed then ! copyOut s x.order else decide (x.k < viewCount x.src) && copyFree s x)

/-- The next of eight slots, from a turn on, round-robin. -/
def nextSlot (turn : Nat) (ready : Nat → Bool) : Option Nat :=
  ((List.range 8).map fun k => (turn + k) % 8).find? ready

/-- The slot that the engine of a Span serves next (R285). -/
def copySlot (s : State) (peer span : Nat) : Option Nat :=
  nextSlot (spanOf s peer span).copyTurn fun k =>
    match focus ⟨peer, span, k⟩ s with
    | some u => (nextCopy u).isSome
    | none => false

/-- COPY_UNIT (R285): 256 bytes of a transfer of the current thread. -/
def copyUnit (id : BitVec 16) : Op Unit := do
  let p ← read fun s => s.thr.place
  let slot ← read fun s => copySlot s p.peer p.span
  enabled (slot = some p.slot)
  let x ← orStop (← read nextCopy) .absent
  enabled (x.id = id)
  let n := max (copySize x.converting (shapeFmt x.src)) (copySize x.converting (shapeFmt x.dst))
  let s ← get
  let u := runCopy x.order (256 / n) s
  enabled (u.thr.tr ≠ s.thr.tr ∨ u.packets.length ≠ s.packets.length ∨ u.thr.status ≠ s.thr.status)
  update fun _ => modSpan p.peer p.span (fun y => { y with copyTurn := (p.slot + 1) % 8 }) u

/-- Every older transfer on the counter has added its increment, or never will (R293, R298). -/
def incrementTurn (t : Thread) (x : Transfer) : Bool :=
  ! t.tr.any fun y => decide (y.order < x.order) && transferLive y && y.ctr == x.ctr && y.ctr != 0

/-- The transfer can complete: its stores are acknowledged (R292). -/
def canComplete (s : State) (x : Transfer) : Bool :=
  x.state == .running && ! x.held && ! x.failed && decide (viewCount x.src ≤ x.k) && incrementTurn s.thr x && ! copyOut s x.order
    && ! s.thr.tr.any fun y => decide (y.order < x.order) && y.push.isSome

def nextCompletion (s : State) : Option Transfer := s.thr.tr.find? (canComplete s)

/-- The completion entry (R295). -/
def completionEntry (x : Transfer) (cancelled : Bool) : Word :=
  BitVec.ofNat 64 (x.id.toNat + x.flags.toNat * 2 ^ 16 + (if cancelled then 2 ^ 21 else 0))

/-- The counter add of a completion (R293 step 2). -/
def addToCounter (km : Bool) (ctr inc : Word) : Op Unit := do
  let r ← access .atomic km 8 ctr
  update (l1Remove r.fpa 8)
  let _ ← atomicRef r .add inc
  pure ()

/-- Pushes the oldest completion entry that waits, if q7 has room (R107). -/
def pushCompletion (t : Thread) : Thread :=
  match t.tr.find? fun x => x.push.isSome with
  | some x =>
    if (queueAt t 7).length < 16 then
      { setQueue 7 (queueAt t 7 ++ x.push.toList) t with
        tr := t.tr.map fun y => if y.order = x.order then { y with push := none } else y }
    else t
  | none => t

/-- The transfer ends, completed or cancelled. -/
def endTransfer (order : Nat) (cancelled : Bool) (s : State) : State :=
  let s1 := modTransfer order (fun x => { x with
    state := if cancelled then .cancelled else .complete
    cause := 0
    push := if x.notify then some (completionEntry x cancelled) else none }) s
  { s1 with thr := pushCompletion s1.thr }

/-- TRANSFER_COMPLETION (R293): where the counter lies on another die, its add is sent first, and the transfer ends when it is
acknowledged. -/
def completeTransfer (id : BitVec 16) : Op Unit := do
  let x ← orStop (← read fun s => s.thr.tr.find? fun x => x.id == id && canComplete s x) .absent
  update fun s => modTransfer x.order (fun x => { x with flagged := true })
    { s with thr := if x.flagged then s.thr else addFlags x.flags s.thr }
  let s ← get
  if x.ctr = 0 ∨ x.added then update (endTransfer x.order false)
  else
    match actFor (copyActing x) (addToCounter x.kernel x.ctr x.inc) s with
    | .ok _ s' => update fun _ =>
        if copyOut s' x.order then modTransfer x.order (fun x => { x with added := true }) s' else endTransfer x.order false s'
    | .error (.trap c _) s' => update fun _ => stopTransfer x.order false c s'
    | .error (.fatal .memoryError _) s' => update fun _ => stopTransfer x.order true 0 s'
    | .error (.fatal c a) _ => raise (.fatal c a)
    | .error _ _ => raise .absent

/-! ## `ceresume`, `cecancel`, `cestat`, `ceprom` (R298, R299) -/

/-- The latest transfer of the thread with an identifier. -/
def transferOf (t : Thread) (v : Word) : Option Transfer :=
  t.tr.reverse.find? fun x => x.id == v.extractLsb' 0 16

/-- `ceresume` (R298). -/
noncomputable def execCeresume (ra : BitVec 7) (s : State) : Outcome State Fault Refusal :=
  scalarOp (.ceresume ra) (srcS ra) (do
    let a ← readS ra
    let t ← read (·.thr)
    match transferOf t a with
    | some x =>
      if transferStopped x then do
        let p ← read (promiseOf · x)
        update (modTransfer x.order fun x => { x with state := .running, cause := 0, promise := p, missed := false })
      else pure ()
    | none => pure ()) s

/-- `cecancel` (R298). DEDUCED (log 97): a transfer whose counter's add is on its way to another die is completing, and the cancel has
no effect. -/
noncomputable def execCecancel (ra : BitVec 7) (s : State) : Outcome State Fault Refusal :=
  scalarOp (.cecancel ra) (srcS ra) (do
    let a ← readS ra
    let t ← read (·.thr)
    match transferOf t a with
    | some x => if transferLive x && ! x.added then update (endTransfer x.order true) else pure ()
    | none => pure ()) s

/-- The number of a state (R299). -/
def stateCode : TransferState → Nat
  | .running => 1
  | .stoppedFault => 2
  | .stoppedMemory => 3
  | .complete => 4
  | .cancelled => 5

/-- The status word (R299). -/
def statusOf (s : State) : Option Transfer → Word
  | none => 0
  | some x => BitVec.ofNat 64 (stateCode x.state + x.cause.toNat % 16 * 2 ^ 4 + x.flags.toNat * 2 ^ 8
      + (if x.missed then 2 ^ 13 else 0) + performedElems s s.thr.place x * 2 ^ 16)

/-- `cestat` (R299). -/
noncomputable def execCestat (rd ra : BitVec 7) (s : State) : Outcome State Fault Refusal :=
  scalarOp (.cestat rd ra) (dstS rd && srcS ra) (do
    let a ← readS ra
    writeS rd (← read fun s => statusOf s (transferOf s.thr a))) s

/-- `ceprom` (R298): 0 for a transfer that is complete, cancelled or unknown. -/
noncomputable def execCeprom (rd ra : BitVec 7) (s : State) : Outcome State Fault Refusal :=
  scalarOp (.ceprom rd ra) (dstS rd && srcS ra) (do
    let a ← readS ra
    let t ← read (·.thr)
    writeS rd (match transferOf t a with
      | some x => if transferLive x then x.promise else 0
      | none => 0)) s

/-! ## The engine's own steps as rows -/

/-- `CE_LAUNCH` (R287): the effect of a read of `ce.launch`, by itself. -/
def execCeLaunch (s : State) : Outcome State Fault Refusal :=
  finish (do
    let _ ← launchCopy (wordVal (.csrrs 0 0 0x026))
    modThr fun t => { t with pages := s.thr.pages }) s

/-- `COPY_UNIT` (R285). -/
def execCopyUnit (id : BitVec 16) (s : State) : Outcome State Fault Refusal := finish (copyUnit id) s

/-- `TRANSFER_COMPLETION` (R293). -/
def execTransferCompletion (id : BitVec 16) (s : State) : Outcome State Fault Refusal := finish (completeTransfer id) s

end Sys2Proof.Machine
end

