-- ==== Sys2Proof/Machine/Csr.lean ====
section
/-! DEFINITION. Control and status registers (R70, R71): their values, the writes with their checks (R77, R112, R136, R137,
R212, R266, R368, R369, R390), `csrrw` and `csrrs` (R126), and the writes of registers as steps of their own. -/

namespace Sys2Proof.Machine

open Host (Outcome)

/-! ## Values -/

/-- The timer condition of the current thread (R375). -/
def timerDue (s : State) : Bool :=
  ! s.thr.host && decide ((vget (mySpan s).timers s.thr.place.slot (BitVec.allOnes 64)).toNat ≤ s.time)

/-- A transfer's memory error is pending (R375). -/
def memoryIrq (t : Thread) : Bool := t.tr.any (·.irq)

/-- A host message is pending as an interrupt (R375, R397). -/
def messageIrq (s : State) : Bool :=
  ! s.thr.host && (vget (mySpan s).hmsg s.thr.place.slot HostMsg.empty).irq

/-- `kstatus` (R368); on a host core the fields of R392. -/
def kstatusOf (s : State) : Word :=
  let k := s.thr.k
  if s.thr.host then BitVec.ofNat 64 (k.km.toNat + k.pkm.toNat * 2 + k.ie.toNat * 4 + k.pie.toNat * 8)
  else BitVec.ofNat 64 (k.km.toNat + k.pkm.toNat * 2 + k.ie.toNat * 4 + k.pie.toNat * 8 + k.ne.toNat * 16
    + k.vkm.toNat * 32 + k.saved.toNat * 64 + k.pvt.toNat * 2 ^ 8 + k.vqn * 2 ^ 24 + k.ip0.toNat * 2 ^ 32
    + (timerDue s).toNat * 2 ^ 33 + (memoryIrq s.thr).toNat * 2 ^ 34 + (messageIrq s).toNat * 2 ^ 35)

/-- `vtype` with LG and MODE (R134). -/
def vtypeWord (t : Thread) : Word :=
  BitVec.ofNat 64 (t.u.vtype.toNat + t.v.lg * 2 ^ 12 + (isLong t).toNat * 2 ^ 16)

/-- `mstat` in reading order (R266): reserved bits 2, 7, [15:12] and [63:48] are zero. -/
def mstatMask : Word := 0x0000FFFFFFFF0F7B

/-- The selection of `kbsel` (R390). -/
def kbRes (k : KernelCsrs) : Nat := (k.kbsel.extractLsb' 0 4).toNat
def kbClass (k : KernelCsrs) : Nat := (k.kbsel.extractLsb' 4 3).toNat
def kbTen (k : KernelCsrs) : Nat := (k.kbsel.extractLsb' 8 4).toNat
def kbDie (k : KernelCsrs) : Nat := (k.kbsel.extractLsb' 12 2).toNat
def kbValid (k : KernelCsrs) : Bool := decide (kbRes k < 6) && decide (kbClass k < 6)
def kbIndex (k : KernelCsrs) : Nat := 128 * kbRes k + 16 * kbClass k + kbTen k
def kbPeer (s : State) : Nat := 4 * myNode s + kbDie s.thr.k

/-- `kbgrant`, 0 where the selection is reserved. -/
def kbGrant (s : State) : Word :=
  if kbValid s.thr.k then ((nget (dieOf s (kbPeer s)).grants (kbIndex s.thr.k)).getD 0).setWidth 64 else 0

/-- `kbused` (R390, R391): of a port the bytes that the packets of the tenant and class that left over it in this period are charged.
Of an HBM stack a free value once the period has begun: which requests reach a stack depends on what the L2 holds (log 35). -/
def kbUsed (s : State) : Word :=
  let i := kbIndex s.thr.k
  if kbValid s.thr.k = false then 0
  else if 2 ≤ kbRes s.thr.k then (BitVec.ofNat 32 ((nget (dieOf s (kbPeer s)).used i).getD 0)).setWidth 64
  else if s.time = s.period then 0
  else (Config.charged (kbPeer s) i s.period (s.time - s.period)).setWidth 64

/-- `cycle` (R7); on a host core the cycles of its 3 GHz since the package reset (R392, log 47). -/
def cycleOf (s : State) : Word :=
  BitVec.ofNat 64 (if s.thr.host then 3 * (s.time - (pkgOf s (myNode s)).bootTick) else (mySpan s).cycle)

/-- The value of a kernel CSR. -/
def kernelCsr (s : State) (c : Nat) : Option Word :=
  let k := s.thr.k
  match c with
  | 0x800 => some (kstatusOf s)
  | 0x801 => some k.kepc
  | 0x802 => some (k.kcause.setWidth 64)
  | 0x803 => some k.kval
  | 0x804 => some k.ktvec
  | 0x805 => some k.kscratch
  | 0x806 => if s.thr.host then none else some k.ksave
  | 0x807 => some k.ptbr
  | 0x808 => some (k.ctxid.setWidth 64)
  | 0x809 => some (k.keysel.setWidth 64)
  | 0x80A => if s.thr.host then none else some k.kvq
  | 0x810 => some (k.kprio.setWidth 64)
  | 0x811 => some (k.kplace.setWidth 64)
  | 0x812 => some k.kvqbase
  | 0x813 => some (k.ktenant.setWidth 64)
  | 0x814 => some (k.kbsel.setWidth 64)
  | 0x815 => some (kbGrant s)
  | 0x816 => some (kbUsed s)
  | n => if 0x817 ≤ n ∧ n < 0x820 ∧ ! s.thr.host then some 0 else none

/-- The value of a user CSR; `ce.launch` reads as `ce.last` before its side effect; the thread that reads `qstat` waits on nothing. -/
def userCsr (s : State) (c : Nat) : Option Word :=
  let t := s.thr
  match c with
  | 0x000 => some (t.u.vl.setWidth 64)
  | 0x001 => some (vtypeWord t)
  | 0x002 => some (t.u.vstart.setWidth 64)
  | 0x003 => some (vcpOf s)
  | 0x004 => some (t.u.rep.setWidth 64)
  | 0x005 => some (t.u.fflags.setWidth 64)
  | 0x006 => some (BitVec.ofNat 64 t.sc.wb)
  | 0x007 => some t.u.nbctr
  | 0x008 => some (t.u.rthr.setWidth 64)
  | 0x009 => some (t.u.mbth.setWidth 64)
  | 0x00A => some (t.u.mstat &&& mstatMask)
  | 0x00B => some (qstatOf { s with thr := { t with wait := none } })
  | 0x010 => some ((vget t.u.li 0 0).setWidth 64)
  | 0x011 => some ((vget t.u.li 1 0).setWidth 64)
  | 0x012 => some ((vget t.u.li 2 0).setWidth 64)
  | 0x013 => some ((vget t.u.li 3 0).setWidth 64)
  | 0x014 => some ((vget t.u.li 4 0).setWidth 64)
  | 0x015 => some ((vget t.u.li 5 0).setWidth 64)
  | 0x016 => some (t.u.lctl.setWidth 64)
  | 0x020 => some t.ce.src
  | 0x021 => some t.ce.dst
  | 0x022 => some (t.ce.sh.setWidth 64)
  | 0x023 => some t.ce.ctr
  | 0x024 => some t.ce.inc
  | 0x025 => some (t.ce.mode.setWidth 64)
  | 0x026 => some t.ce.last
  | 0x027 => some t.ce.last
  | 0x030 => some (BitVec.ofNat 64 s.time)
  | 0x031 => some (cycleOf s)
  | 0x032 => some t.u.tid
  | 0x033 => some t.u.nthr
  | 0x034 => some t.u.lid
  | 0x035 => some (BitVec.ofNat 64 (t.place.span + t.place.peer % 4 * 256))
  | 0x036 => some (BitVec.ofNat 64 t.place.peer)
  | 0x037 => some (t.u.part.setWidth 64)
  | 0x038 => some t.u.arg
  | 0x039 => some (BitVec.ofNat 64 (mySpan s).poolcap)
  | _ => none

/-- The value of a CSR; none where the number is not listed for the agent (R71, R392). -/
def csrValue (s : State) (c : Nat) : Option Word :=
  if 0x800 ≤ c then kernelCsr s c
  else if s.thr.host then
    (match c with
      | 0x030 => some (BitVec.ofNat 64 s.time)
      | 0x031 => some (cycleOf s)
      | 0x036 => some (BitVec.ofNat 64 (4 * myNode s))
      | _ => none)
  else userCsr s c

/-- A CSR that the vector stream updates (R71). -/
def streamCsr (c : Nat) : Bool := c == 0x000 || c == 0x002 || c == 0x004 || c == 0x005 || c == 0x007

/-! ## Writes -/

def modU (f : UserCsrs → UserCsrs) : Op Unit := modThr fun t => { t with u := f t.u }
def modCe (f : CopyCsrs → CopyCsrs) : Op Unit := modThr fun t => { t with ce := f t.ce }
def modK (f : KernelCsrs → KernelCsrs) : Op Unit := modThr fun t => { t with k := f t.k }

/-- A write of `vl` (R136). -/
def writeVl (word v : Word) : Op Unit := do
  let t ← read (·.thr)
  require ((v.extractLsb' 0 11).toNat ≤ vlmax t) (.trap (causeCode .illegalOperand) word)
  modU fun u => { u with vl := v.extractLsb' 0 11 }

/-- A write of `vtype` (R77, R134). -/
def writeVtype (word v : Word) : Op Unit := setVtype word (v.extractLsb' 0 9)

/-- A write of `vstart` (R137). -/
def writeVstart (word v : Word) : Op Unit := do
  let t ← read (·.thr)
  require ((v.extractLsb' 0 11).toNat ≤ vlmax t) (.trap (causeCode .illegalOperand) word)
  modU fun u => { u with vstart := v.extractLsb' 0 11 }

/-- A write of `wb` (R112). -/
def writeWb (v : Word) : Op Unit := do
  require (v.toNat ≤ 336 ∧ v.toNat % 16 = 0) (.trap (causeCode .window) v)
  modThr fun t => { t with sc := { t.sc with wb := v.toNat } }

/-- A write of `nbctr` (R212). -/
def writeNbctr (v : Word) : Op Unit := do
  require (v.toNat % 8 = 0) (.trap (causeCode .misaligned) v)
  modU fun u => { u with nbctr := v &&& 0x007FFFFFFFFFFFF8 }

/-- A write of `mstat` (R266): ones clear; with ERR go ECODE and ESEQ. -/
def writeMstat (v : Word) : Op Unit :=
  modU fun u => { u with mstat :=
    u.mstat &&& ~~~ ((v &&& 0x7B) ||| (if v.getLsbD 5 then 0xFFFF0F00 else 0)) }

/-- A write of `kstatus` (R368, R392). -/
def writeKstatus (v : Word) : Op Unit := modThr fun t =>
  { t with k :=
    let k : KernelCsrs := { t.k with pkm := v.getLsbD 1, ie := v.getLsbD 2, pie := v.getLsbD 3 }
    if t.host then k
    else { k with ne := v.getLsbD 4, vkm := v.getLsbD 5, pvt := v.extractLsb' 8 9, vqn := min 64 (v.extractLsb' 24 7).toNat } }

/-- The link entry of a Truss entry is among those that a trap has saved (R103). -/
def linkParked (t : Thread) (e : TEntry) : Bool := t.v.parked.any fun x => x.entry.link == some e.seq

/-- A Truss entry waits on a link entry that is stopped: with the stream at a held trap one in the vector queue, or one that a trap has
saved (R103, R104). -/
def linkStopped (t : Thread) (e : TEntry) : Bool :=
  ! e.staged && ((t.v.held.isSome && linkWaiting t e) || linkParked t e)

/-- The vector entries older than a place in program order that do not move before the handler returns: with the stream at a held trap
those of the vector queue, and those that a trap has saved (R103, R104). -/
def stoppedEntries (t : Thread) (age : Nat) : List VEntry :=
  if t.v.held.isSome then olderEntries t age else olderEntries.savedEntries t age

/-- An access waits for a stopped entry, or for one of some accesses that do, each with its place in program order. -/
def waitsStopped (t : Thread) (old : List (Nat × List Range)) (age : Nat) (rs : List Range) : Bool :=
  (stoppedEntries t age).any (fun v => isMarker v || conflict rs (entryRanges v))
    || old.any fun y => decide (y.1 < age) && conflict rs y.2

/-- The Truss entries from the first on that waits for what is stopped. -/
def stoppedTruss (t : Thread) (old : List (Nat × List Range)) : List TEntry :=
  t.tq.dropWhile fun e => e.started || e.push.isSome
    || ! (linkStopped t e || (trussRanges e != [] && waitsStopped t old e.age (trussRanges e)))

/-- The running transfers that wait for what is stopped. -/
def stoppedTransfers (t : Thread) (old : List (Nat × List Range)) : List Transfer :=
  t.tr.filter fun x => x.state == .running && waitsStopped t old x.age (transferRanges x)

/-- The Truss entries and transfers that wait for a stopped entry, at most so many accesses removed from it. -/
def stoppedAccesses (t : Thread) : Nat → List (Nat × List Range)
  | 0 => []
  | n + 1 =>
    (stoppedTruss t (stoppedAccesses t n)).map (fun e => (e.age, trussRanges e))
      ++ (stoppedTransfers t (stoppedAccesses t n)).map fun x => (x.age, transferRanges x)

/-- Every vector entry, Truss entry and transfer of the current thread has completed or is stopped (R369): with the stream at a held
trap the entries of the vector queue, and Truss entries and transfers that wait for those, or for what a trap has saved. -/
def workSettled (s : State) : Bool :=
  let t := s.thr
  let old := stoppedAccesses t (t.tq.length + t.tr.length)
  t.v.nbq.isEmpty && streamsQuiet s && (t.v.held.isSome || t.v.vq.isEmpty)
    && decide ((stoppedTruss t old).length = t.tq.length)
    && t.tr.all fun x => x.state != .running || waitsStopped t old x.age (transferRanges x)

/-- A write of `ptbr`, `ctxid` or `keysel` waits until older work has completed or stopped (R369). -/
def waitWork : Op Unit := do
  require ((← read workSettled) = true) (.wait .other)

/-- A write of `ptbr`, `ctxid` or `keysel`, by number. -/
def writeSpace (c : Nat) (v : Word) : Op Unit := do
  waitWork
  modK fun k =>
    if c = 0x807 then { k with ptbr := v &&& 0x01FFFFFFFFFF0000 }
    else if c = 0x808 then { k with ctxid := v.setWidth 16 }
    else { k with keysel := v.setWidth 3 }

/-- The capacity of a resource per period (R390). -/
def capacity (res : Nat) : Nat := if res < 2 then 3200000 else if res < 5 then 2000000 else 1000000

/-- The grants of a resource other than one entry's. -/
def otherGrants (d : Die) (res index : Nat) : Nat :=
  (d.grants.map fun e => if e.1 / 128 = res ∧ e.1 ≠ index then e.2.toNat else 0).sum

/-- A write of `kbgrant` (R390). -/
def writeKbgrant (word v : Word) : Op Unit := do
  let k ← read (·.thr.k)
  require (k.ctxid = 0) (.trap (causeCode .privilege) word)
  if kbValid k then do
    let p ← read kbPeer
    let d ← read (dieOf · p)
    require (otherGrants d (kbRes k) (kbIndex k) + (v.extractLsb' 0 32).toNat ≤ capacity (kbRes k))
      (.trap (causeCode .illegalOperand) word)
    update (modDie p fun d => { d with grants := nset d.grants (kbIndex k) (v.extractLsb' 0 32) })
  else pure ()

/-- A write of a user CSR that has no behaviour of its own; a read-only one discards it. -/
def writePlainUser (c : Nat) (v : Word) : Op Unit :=
  match c with
  | 0x004 => modU fun u => { u with rep := v.setWidth 6 }
  | 0x005 => modU fun u => { u with fflags := v.setWidth 5 }
  | 0x008 => modU fun u => { u with rthr := v.setWidth 32 }
  | 0x009 => modU fun u => { u with mbth := v.setWidth 7 }
  | 0x010 | 0x011 | 0x012 | 0x013 | 0x014 | 0x015 => modU fun u => { u with li := vset u.li (c - 0x010) (v.setWidth 16) }
  | 0x016 => modU fun u => { u with lctl := v.setWidth 26 }
  | 0x020 => modCe fun u => { u with src := v }
  | 0x021 => modCe fun u => { u with dst := v }
  | 0x022 => modCe fun u => { u with sh := v.setWidth 8 }
  | 0x023 => modCe fun u => { u with ctr := v }
  | 0x024 => modCe fun u => { u with inc := v }
  | 0x025 => modCe fun u => { u with mode := v.setWidth 3 }
  | _ => pure ()

/-- A write of a kernel CSR that has no behaviour of its own. DESIGN CHOICE (log 55): bit 7 of `kbsel`, which the table of R390 does
not list, is kept as written. -/
def writePlainKernel (c : Nat) (v : Word) : Op Unit :=
  match c with
  | 0x801 => modK fun k => { k with kepc := v &&& ~~~ 3#64 }
  | 0x802 => modK fun k => { k with kcause := v.setWidth 8 }
  | 0x803 => modK fun k => { k with kval := v }
  | 0x804 => modK fun k => { k with ktvec := v &&& ~~~ 3#64 }
  | 0x805 => modK fun k => { k with kscratch := v }
  | 0x806 => modK fun k => { k with ksave := v &&& ~~~ 0xFFFF#64 }
  | 0x80A => modK fun k => { k with kvq := v &&& ~~~ 0x1FFF#64 }
  | 0x810 => modK fun k => { k with kprio := v.setWidth 2 }
  | 0x811 => modK fun k => { k with kplace := v.setWidth 48 }
  | 0x812 => modK fun k => { k with kvqbase := v &&& ~~~ 0x1FFF#64 }
  | 0x813 => modK fun k => { k with ktenant := v.setWidth 4 }
  | 0x814 => modK fun k => { k with kbsel := v.setWidth 14 }
  | _ => pure ()

/-- A CSR whose write has behaviour of its own. -/
def ownWrite (c : Nat) : Bool :=
  c == 0x000 || c == 0x001 || c == 0x002 || c == 0x006 || c == 0x007 || c == 0x00A || c == 0x026
    || c == 0x800 || c == 0x807 || c == 0x808 || c == 0x809 || c == 0x815

/-- A write of a CSR; `word` is what *illegal operand* and *privilege* report. -/
def writeCsr (word : Word) (c : Nat) (v : Word) : Op Unit :=
  match c with
  | 0x000 => writeVl word v
  | 0x001 => writeVtype word v
  | 0x002 => writeVstart word v
  | 0x006 => writeWb v
  | 0x007 => writeNbctr v
  | 0x00A => writeMstat v
  | 0x800 => writeKstatus v
  | 0x807 => writeSpace 0x807 v
  | 0x808 => writeSpace 0x808 v
  | 0x809 => writeSpace 0x809 v
  | 0x815 => writeKbgrant word v
  | n => if 0x800 ≤ n then writePlainKernel n v else writePlainUser n v

/-! ## `csrrw`, `csrrs` (R71, R126) -/

/-- The checks of a CSR instruction: number, privilege, fields (R47), and the wait for older vector entries (R71). -/
def csrChecks (i : Instr) (rd ra : BitVec 7) (c : BitVec 12) : Op Unit := do
  let known ← read fun s => (csrValue s c.toNat).isSome
  require (known = true) (.trap (causeCode .illegalInstruction) (wordVal i))
  checkWord i (decide (0x800 ≤ c.toNat)) false (dstS rd && srcS ra)
  let t ← read (·.thr)
  require (! streamCsr c.toNat ∨ t.v.vq = []) (.wait .other)

/-- The operand and the old value, with the side effect of a read of `ce.launch`. The value is that before the operand's pop, which
takes effect as the instruction completes (R42, R71, R105). -/
def readCsr (word : Word) (ra : BitVec 7) (c : BitVec 12) : Op (Word × Word) := do
  let v ← read fun s => csrValue s c.toNat
  let a ← readS ra
  if c = 0x026 then do
    let x ← launchCopy word
    pure (a, x)
  else pure (a, v.getD 0)

/-- `csrrw` (R71). -/
def execCsrrw (rd ra : BitVec 7) (c : BitVec 12) (s : State) : Outcome State Fault Refusal :=
  let i : Instr := .csrrw rd ra c
  finish (do
    csrChecks i rd ra c
    let (a, old) ← readCsr (wordVal i) ra c
    writeS rd old
    writeCsr (wordVal i) c.toNat a
    modThr retire) s

/-- `csrrs` (R71): with s0 it writes nothing. -/
def execCsrrs (rd ra : BitVec 7) (c : BitVec 12) (s : State) : Outcome State Fault Refusal :=
  let i : Instr := .csrrs rd ra c
  finish (do
    csrChecks i rd ra c
    let (a, old) ← readCsr (wordVal i) ra c
    writeS rd old
    if ra = 0 then pure () else writeCsr (wordVal i) c.toNat (old ||| a)
    modThr retire) s

/-! ## Writes of registers as steps of their own: the thread does not go on to its next word -/

/-- The word that a CSR write reports where it is taken by itself: `csrrw s0, c, s0`. -/
def csrWord (c : BitVec 12) : Word := wordVal (.csrrw 0 0 c)

/-- A CSR write of the current thread, in kernel mode where the register asks for it. -/
def csrStep (c : BitVec 12) (v : Word) (s : State) : Outcome State Fault Refusal :=
  finish (do
    enabled ((csrValue s c.toNat).isSome ∧ (c.toNat < 0x800 ∨ s.thr.k.km))
    writeCsr (csrWord c) c.toNat v) s

/-- `VTYPE_WRITE` (R77). -/
def execVtypeWrite (v : Word) (s : State) : Outcome State Fault Refusal := csrStep 0x001 v s

/-- `VL_WRITE` (R136). -/
def execVlWrite (v : Word) (s : State) : Outcome State Fault Refusal := csrStep 0x000 v s

/-- `VSTART_WRITE` (R137). -/
def execVstartWrite (v : Word) (s : State) : Outcome State Fault Refusal := csrStep 0x002 v s

/-- `WB_WRITE` (R112). -/
def execWbWrite (v : Word) (s : State) : Outcome State Fault Refusal := csrStep 0x006 v s

/-- `NBCTR_WRITE` (R212). -/
def execNbctrWrite (v : Word) (s : State) : Outcome State Fault Refusal := csrStep 0x007 v s

/-- `MSTAT_WRITE` (R266). -/
def execMstatWrite (v : Word) (s : State) : Outcome State Fault Refusal := csrStep 0x00A v s

/-- `KSTATUS_WRITE` (R368). -/
def execKstatusWrite (v : Word) (s : State) : Outcome State Fault Refusal := csrStep 0x800 v s

/-- `PTBR_WRITE` (R369): of `ptbr`, `ctxid` or `keysel`, as the number says. -/
def execPtbrWrite (c : BitVec 12) (v : Word) (s : State) : Outcome State Fault Refusal :=
  if c = 0x807 ∨ c = 0x808 ∨ c = 0x809 then csrStep c v s else .fault .notEnabled

/-- `KBGRANT_WRITE` (R390). -/
def execKbgrantWrite (v : Word) (s : State) : Outcome State Fault Refusal := csrStep 0x815 v s

/-- An MMIO register whose write has behaviour of its own: HMSG, TLBINV, DETECT, TIMEOUT, word 0 of a communicator, DEVMSG. -/
def ownMmioWrite (a : Nat) : Bool :=
  if fpaSpan a < 192 then
    isTlbinv a || decide (0x300 ≤ fpaOffset a ∧ fpaOffset a < 0x340)
  else decide (fpaOffset a < 0x10) || fpaOffset a == 0x80001000
    || (decide (0x20000 ≤ fpaOffset a ∧ fpaOffset a < 0x21000) && fpaOffset a / 8 % 8 == 0)

/-- `REGISTER_WRITE` (R71): a CSR of the current thread, or an MMIO register. -/
def execRegisterWrite (r : RegName) (v : Word) (s : State) : Outcome State Fault Refusal :=
  match r with
  | .csr c => if ownWrite c.toNat then .fault .notEnabled else csrStep c v s
  | .mmio a => finish (do
      enabled (homeKind a = .mmio ∧ a % 8 = 0 ∧ ownMmioWrite a = false)
      writeReg s.thr.place a v) s

/-- `TLBINV` (R380): the invalidation of a die begins for the current thread's write. -/
def execTlbinv (peer : Nat) (v : Word) (s : State) : Outcome State Fault Refusal :=
  finish (do
    enabled (fpaNode (peer * 2 ^ 45) < Config.podNodes)
    update (beginInval peer s.thr.place v)) s

/-- `INVALIDATION_COMPLETE` (R381): the oldest invalidation of a die whose earlier accesses have performed. -/
def execInvalidationComplete (peer : Nat) (s : State) : Outcome State Fault Refusal :=
  finish (do
    let x ← orStop (← read fun s => (dieOf s peer).invals.find? (invalDone s peer)) .absent
    update (endInval peer x)) s

/-- `HMSG_WRITE` (R397). -/
def execHmsgWrite (peer span slot : Nat) (v : Word) (s : State) : Outcome State Fault Refusal :=
  finish (do
    enabled (span < 192 ∧ slot < 8)
    update (writeHmsg peer span slot v)) s

/-- `HMSG_READ` (R397): the side effect of a load. -/
def execHmsgRead (peer span slot : Nat) (s : State) : Outcome State Fault Refusal :=
  finish (do
    enabled (span < 192 ∧ slot < 8)
    update (readHmsg peer span slot)) s

/-- `DEVMSG` (R396). -/
def execDevmsg (v : Word) (s : State) : Outcome State Fault Refusal := finish (postDevmsg (myNode s) s.thr.place v) s

/-- `HEVQD` (R395): the side effect of a load. -/
def execHevqd (node : Nat) (s : State) : Outcome State Fault Refusal := finish (update (popEvent node)) s

/-- `DETECT_WRITE` (R314). -/
def execDetectWrite (peer : Nat) (v : Word) (s : State) : Outcome State Fault Refusal := finish (update (writeDetect peer v)) s

/-- `TIMEOUT_WRITE` (R323). -/
def execTimeoutWrite (peer : Nat) (v : Word) (s : State) : Outcome State Fault Refusal := finish (update (writeTimeout peer v)) s

/-- `COMMUNICATOR_WORD0_WRITE` (R325). -/
def execCommunicatorWord0Write (peer comm : Nat) (v : Word) (s : State) : Outcome State Fault Refusal :=
  finish (do
    enabled (comm < 64)
    update (writeComm0 peer comm v)) s

end Sys2Proof.Machine
end

