-- ==== Sys2Proof/Machine/Truss.lean ====
section
/-! DEFINITION. The Truss (R245 to R275): posting entries of majors 0x3C to 0x3E with their issue checks, running them on
tiles, matrix errors, status entries. -/

namespace Sys2Proof.Machine

open Host (Outcome)

/-! ## The operand descriptor (R249, R250) -/

def snRows (sn : Word) : Nat := (sn.extractLsb' 0 7).toNat
def snAreg (sn : Word) : Nat := (sn.extractLsb' 7 2).toNat
def snCols (sn : Word) : Nat := 8 * ((sn.extractLsb' 9 3).toNat + 1)
def snAfmt (sn : Word) : Nat := (sn.extractLsb' 12 3).toNat
def snPa (sn : Word) : Nat := (sn.extractLsb' 15 4).toNat
def snNotify (sn : Word) : Bool := sn.getLsbD 23

/-- The legal values of R250. -/
def snOk (view : Bool) (sn : Word) : Bool :=
  decide (snRows sn ≤ 64) && (! view || snAreg sn == 0) && decide (snAfmt sn < if view then 6 else 5)
    && (if snAfmt sn = 5 then decide (2 ≤ snPa sn ∧ snPa sn ≤ 8) else snPa sn == 0)
    && sn.extractLsb' 19 4 == 0 && sn.extractLsb' 24 40 == 0

/-- The format byte is a scaled one-byte format of B. -/
def fmtScaled (f : BitVec 8) : Bool := fmtInt8 f || fmtFp8 f

/-- Whether the kind is integer, and Kstep; none for a reserved combination (R249). -/
def matKind (afmt pa : Nat) (b : BitVec 8) : Option (Bool × Nat) :=
  if afmt ≤ 1 then (if fmtFp16 b || fmtFp8 b then some (false, 8) else none)
  else if afmt ≤ 3 then (if fmtFp16 b then some (false, 8) else if fmtFp8 b then some (false, 16) else none)
  else if ! fmtInt8 b then none
  else if afmt = 4 ∨ 5 ≤ pa then some (true, 16)
  else if 3 ≤ pa then some (true, 32) else some (true, 64)

/-- The format of A's elements, float kinds. -/
def aFloat (afmt : Nat) : Fmt := if afmt = 0 then bf16 else if afmt = 1 then fp16 else if afmt = 2 then fpE4M3 else fpE5M2

/-- Positions that a register of A holds of each row (R252). -/
def kReg (afmt : Nat) : Nat := if afmt ≤ 1 then 8 else 16

/-- A's view has the format that AFMT asks for (R253). -/
def aFmtOk (afmt : Nat) (f : BitVec 8) : Bool :=
  match afmt with
  | 0 => f == 0x04
  | 1 => f == 0x05
  | 2 => f == 0x02
  | 3 => f == 0x03
  | 4 => fmtInt8 f
  | _ => fmtBitPlane f

/-! ## Shape checks at issue (R253, R254, R255, R271) -/

/-- B's view (R254). -/
def bViewOk (t : ShapeReg) (cols : Nat) (sparse : Bool) : Bool :=
  let n := fmtSize (shapeFmt t)
  let k := shapeExt t 0
  let scaled := fmtScaled (shapeFmt t)
  let b := (shapeBase t).toNat - (windowBase + 0x40000000)
  decide (windowBase + 0x40000000 ≤ (shapeBase t).toNat ∧ b < 0x20000)
    && b % (if scaled then 64 else 16) == 0
    && decide (1 ≤ k) && (! sparse || decide (k ≤ 1024)) && shapeStr t 0 == (n : Int)
    && shapeExt t 1 == 8 && shapeStr t 1 == 131072
    && shapeExt t 2 == cols / 8
    && (cols == 8 || (decide ((k * n : Nat) ≤ shapeStr t 2) && decide (0 < shapeStr t 2)
        && shapeStr t 2 % (if scaled then 64 else 16) == 0))
    && shapeExt t 3 == 1 && shapeExt t 4 == 1 && shapeExt t 5 == 1
    && decide ((b : Int) + (if cols = 8 then 0 else ((cols / 8 : Nat) - 1 : Int) * shapeStr t 2) + ((k * n : Nat) : Int) ≤ 0x1C000)

/-- A's view but for where it lies (R253). -/
def aViewOk (t : ShapeReg) (sn : Word) (kb : Nat) (sparse : Bool) : Bool :=
  aFmtOk (snAfmt sn) (shapeFmt t)
    && (fmtBitPlane (shapeFmt t) || shapeStr t 0 == (fmtSize (shapeFmt t) : Int))
    && (sparse || shapeExt t 0 == kb)
    && decide (snRows sn ≤ viewCount t / shapeExt t 0)
    && (! fmtBitPlane (shapeFmt t) || planeViewOk t)

/-- The conditions common to `mmav` and `mmat`, memory apart. -/
def mmOk (t : Thread) (view : Bool) (sn : Word) (tb : ShapeReg) (sparse : Bool) : Bool :=
  snOk view sn && (matKind (snAfmt sn) (snPa sn) (shapeFmt tb)).isSome && bViewOk tb (snCols sn) sparse
    && (! sparse || isLong t || decide (shapeExt tb 0 ≤ 32))

/-- The register group of `mmav` and, dense, its length (R46, R252). -/
def groupOk (va : Nat) (sn : Word) (tb : ShapeReg) (sparse : Bool) : Bool :=
  let g := 2 ^ snAreg sn
  va % g == 0 && decide (va + g ≤ 48) && (sparse || decide (shapeExt tb 0 ≤ g * kReg (snAfmt sn)))

/-- Rows of a view: its outer elements. -/
def viewRows (t : ShapeReg) : Nat := viewCount t / shapeExt t 0

/-- The sb operand of `mst`. -/
def stRow (sb : Word) : Nat := (sb.extractLsb' 0 6).toNat
def stCol (sb : Word) : Nat := (sb.extractLsb' 8 6).toNat

/-- The issue checks of `mst`, memory apart (R271). -/
def mstOk (sb : Word) (t : ShapeReg) : Bool :=
  let f := shapeFmt t
  sb.extractLsb' 6 2 == 0 && ! sb.getLsbD 14 && sb.extractLsb' 16 48 == 0
    && decide (stCol sb + shapeExt t 0 ≤ 64 ∧ stRow sb + viewRows t ≤ 64)
    && fmtAssigned f && (! fmtBitPlane f || (fmtPlanes f == 8 && planeViewOk t))
    && (fmtRaw f || (unitsOf t (List.range (viewCount t))).all (unitCovered t))

/-! ## Memory checks at issue (R253, R263) -/

/-- Checks an address and keeps its translation. -/
def checkPage (acc : Acc) (km : Bool) (n : Nat) (va : Word) (ps : List TlbEntry) : Op (List TlbEntry) := do
  let _ ← access acc km n va
  let e ← pinnedEntry va
  pure (ps ++ e.filter fun x => ! ps.contains x)

/-- Checks addresses one after the other. -/
def checkPages (acc : Acc) (km : Bool) (n : Nat) : List Word → List TlbEntry → Op (List TlbEntry)
  | [], ps => pure ps
  | va :: vas, ps => do
    let qs ← checkPage acc km n va ps
    checkPages acc km n vas qs

/-- The addresses of a view in element order; of a bit-plane view those of its planes, from plane 7 down. -/
def viewAddrs (t : ShapeReg) (planes : Nat) : List Word :=
  let ls := List.range (viewCount t)
  if fmtBitPlane (shapeFmt t) then
    ls.flatMap fun l => (List.range planes).map fun p => planeAddr t l (7 - p)
  else ls.map (viewAddr t)

/-- Bytes of an element as the Truss accesses it. -/
def trussSize (t : ShapeReg) : Nat := if fmtRaw (shapeFmt t) then 4 else fmtSize (shapeFmt t)

/-- The base of A's view lies in the Span's scratchpad or B-store, outside the swap region, or in the die's own HBM. -/
def checkBase (t : ShapeReg) : Op Unit := do
  let va := shapeBase t
  require (va.toNat % trussSize t = 0) (.trap (causeCode .misaligned) va)
  match ← translate va with
  | .window off =>
    require (off < 2 ^ 20 ∨ (0x40000000 ≤ off ∧ off < 0x40000000 + 2 ^ 20 ∧ ! inSwap (off - 0x40000000)))
      (.trap (causeCode .permission) va)
  | .page p _ => do
    let own ← read fun s => homeKind (pteFpa p) == .hbm && fpaPeer (pteFpa p) == myPeer s
    require (own = true) (.trap (causeCode .permission) va)

/-! ## Posting (R101, R251, R264 to R266) -/

/-- The sequence number of the thread's next entry: `mstat` NSEQ. -/
def nextSeq (t : Thread) : BitVec 16 := t.u.mstat.extractLsb' 32 16

/-- `mstat` with the next NSEQ. -/
def bumpSeq (m : Word) : Word := m.extractLsb' 48 16 ++ (m.extractLsb' 32 16 + 1) ++ m.extractLsb' 0 32

/-- The Truss entries of a Span. -/
def spanTruss (s : State) : Nat :=
  (((allThreads s).filter fun t => t.status == .running && t.place.peer == myPeer s && t.place.span == s.thr.place.span).map
    fun t => t.tq.length).sum

/-- A new entry. -/
def newTruss (t : Thread) (i : Instr) (sn : Word) (notify : Bool) (sa sb : ShapeReg) (pages : List TlbEntry) : TEntry where
  ins := i
  age := t.issued
  seq := nextSeq t
  notify := notify
  sn := sn
  shA := sa
  shB := sb
  mbth := t.u.mbth
  flush := t.u.vtype.extractLsb' 4 2
  kernel := t.k.km
  pages := pages
  staged := false
  regs := []
  mask := 0
  started := false
  kstep := 0
  flags := 0
  replies := []
  push := none

/-- Posts an entry, with its link entry where it has one; the registers that the link entry will write lose their landed
bits. -/
def postTruss (e : TEntry) (link : Bool) (writes : List Nat) : Op Unit := do
  let t ← read (·.thr)
  let n ← read spanTruss
  require (t.tq.length < 64 ∧ n < 256) (.wait .other)
  require (link = false ∨ t.v.vq.length < 64) (.wait .vqFull)
  aritRoom (trussEntries e)
  modThr fun t => setLanded false writes { t with
    issued := t.issued + 1
    tq := t.tq ++ [e]
    u := { t.u with mstat := bumpSeq t.u.mstat }
    v := { t.v with vq := if link then t.v.vq ++ [{ newEntry t e.ins none [] 0 with
      link := some e.seq, start := 0, vstart := 0, pos := 0, wpos := 0 }] else t.v.vq } }
  modThr retire
  runStream

/-- The checks that precede those of issue: R47, then a pending matrix error (R264). -/
def trussChecks (i : Instr) (longOnly : Bool) (operands : Thread → Bool) : Op Unit := do
  let t ← read (·.thr)
  checkWord i false longOnly (operands t)
  raiseMatrix

def mselOf (m : BitVec 4) : Bool := m != 0

/-- `mmav` (R269). -/
noncomputable def execMmav (az tB : BitVec 4) (va sn : BitVec 7) (m : BitVec 4) (s : State) : Outcome State Fault Refusal :=
  let i : Instr := .mmav az tB va sn m
  finish (do
    trussChecks i true fun t => tileF t az.toNat && vregF va && srcT sn
    let t ← read (·.thr)
    let d := scalar t sn
    let tb := vget t.shp tB.toNat 0
    require ((mmOk t false d tb (mselOf m) && groupOk va.toNat d tb (mselOf m)) = true)
      (.trap (causeCode .illegalOperand) (wordVal i))
    let ps ← checkPages .load t.k.km (fmtSize (shapeFmt tb)) (viewAddrs tb 8) []
    postTruss (newTruss t i d (snNotify d) 0 tb ps) true []) s

/-- `mmat`, grouped or not (R253, R262, R269). -/
noncomputable def postMmat (i : Instr) (az tB tA : BitVec 4) (sn : BitVec 7) (m : BitVec 4) (s : State) :
    Outcome State Fault Refusal :=
  finish (do
    trussChecks i false fun t => tileF t az.toNat && srcT sn
    let t ← read (·.thr)
    let d := scalar t sn
    let tb := vget t.shp tB.toNat 0
    let ta := vget t.shp tA.toNat 0
    require ((mmOk t true d tb (mselOf m) && aViewOk ta d (shapeExt tb 0) (mselOf m)) = true)
      (.trap (causeCode .illegalOperand) (wordVal i))
    checkBase ta
    let ps ← checkPages .load t.k.km (fmtSize (shapeFmt ta)) (viewAddrs ta (snPa d)) []
    let qs ← checkPages .load t.k.km (fmtSize (shapeFmt tb)) (viewAddrs tb 8) ps
    postTruss (newTruss t i d (snNotify d) ta tb qs) (mselOf m) []) s

/-- `mmat` (R269). -/
noncomputable def execMmat (az tB tA : BitVec 4) (sn : BitVec 7) (m : BitVec 4) (s : State) : Outcome State Fault Refusal :=
  postMmat (.mmat az tB tA sn m) az tB tA sn m s

/-- `mmat.g` (R262, R269). -/
noncomputable def execMmatG (az tB tA : BitVec 4) (sn : BitVec 7) (m : BitVec 4) (s : State) : Outcome State Fault Refusal :=
  postMmat (.mmatG az tB tA sn m) az tB tA sn m s

/-- `mz` (R270). -/
noncomputable def execMz (rd : BitVec 7) (s : State) : Outcome State Fault Refusal :=
  finish (do
    trussChecks (.mz rd) false fun t => tileF t rd.toNat
    let t ← read (·.thr)
    postTruss (newTruss t (.mz rd) 0 false 0 0 []) false []) s

/-- `mst` (R271). -/
noncomputable def execMst (rd ra rb : BitVec 7) (s : State) : Outcome State Fault Refusal :=
  let i : Instr := .mst rd ra rb
  finish (do
    trussChecks i false fun t => tileF t rd.toNat && shapeF ra && srcT rb
    let t ← read (·.thr)
    let b := scalar t rb
    let sh := vget t.shp ra.toNat 0
    require (mstOk b sh = true) (.trap (causeCode .illegalOperand) (wordVal i))
    let ps ← checkPages .store t.k.km (trussSize sh) (viewAddrs sh 8) []
    postTruss (newTruss t i b (b.getLsbD 15) sh 0 ps) false []) s

/-- A row0 that is a multiple of 4. -/
def rowOk (sb : Word) (allowed : Word) : Bool := sb.toNat % 4 == 0 && (sb &&& ~~~ allowed) == 0

/-- `mrd` (R270). -/
noncomputable def execMrd (rd ra rb : BitVec 7) (s : State) : Outcome State Fault Refusal :=
  let i : Instr := .mrd rd ra rb
  finish (do
    trussChecks i true fun t => vregF rd && tileF t ra.toNat && srcT rb
    let t ← read (·.thr)
    let b := scalar t rb
    require (rowOk b 0x3F = true) (.trap (causeCode .illegalOperand) (wordVal i))
    postTruss (newTruss t i b false 0 0 []) true [rd.toNat]) s

/-- `mwr` (R270). -/
noncomputable def execMwr (rd ra rb : BitVec 7) (s : State) : Outcome State Fault Refusal :=
  let i : Instr := .mwr rd ra rb
  finish (do
    trussChecks i true fun t => tileF t rd.toNat && vregF ra && srcT rb
    let t ← read (·.thr)
    let b := scalar t rb
    require (rowOk b 0x13F = true) (.trap (causeCode .illegalOperand) (wordVal i))
    postTruss (newTruss t i b false 0 0 []) true []) s

/-- `msync` (R264, R270). -/
noncomputable def execMsync (s : State) : Outcome State Fault Refusal :=
  finish (do
    trussChecks .msync false fun _ => true
    let s ← get
    require (s.thr.tq = [] ∧ ! s.packets.any fun p => ownPacket s.thr p && p.agent == .truss) (.wait .other)
    modThr retire) s

/-! ## Tiles (R248) -/

def tileOf (x : Span) (a : Nat) : Tile := (nget x.tiles a).getD ⟨.z, []⟩

/-- An entry of a tile; +0 where the tag is Z. -/
def tileEntry (x : Tile) (r c : Nat) : BitVec 128 := if x.tag = .z then 0 else (nget x.entries (64 * r + c)).getD 0

/-- Writes an entry; +0 is not listed. -/
def setEntry (r c : Nat) (v : BitVec 128) (x : Tile) : Tile :=
  { x with entries := if v = 0 then ndel x.entries (64 * r + c) else nset x.entries (64 * r + c) v }

/-- A tile that takes a kind: a Z tile gives up whatever it listed. -/
def withTag (k : TileTag) (x : Tile) : Tile := if x.tag = .z then { tag := k, entries := [] } else x

def setTile (a : Nat) (x : Tile) : State → State := modMySpan fun y => { y with tiles := nset y.tiles a x }

/-- The cells of rows 0 to m − 1 and columns 0 to n − 1. -/
def cells (m n : Nat) : List (Nat × Nat) := (List.range m).flatMap fun r => (List.range n).map fun c => (r, c)

/-- The exact value of an entry (R271). -/
def entryVal (x : Tile) (r c : Nat) : FpVal :=
  match x.tag with
  | .z => .num false 0 0
  | .f => fpVal fp32 (tileEntry x r c).toNat
  | .i => sumVal (tileEntry x r c)

/-- The FP32 read-out of an entry, with its flags (R95, R270). -/
def entryOut (x : Tile) (r c : Nat) : Nat × BitVec 5 :=
  match x.tag with
  | .z => (0, 0)
  | .f => ((tileEntry x r c).toNat % 2 ^ 32, 0)
  | .i => roundFp fp32 0 0 (sumVal (tileEntry x r c))

/-! ## Running a matrix multiply (R252 to R257) -/

/-- An operation of the Truss: it may end in a matrix error with its ECODE. -/
abbrev TOp (α : Type) : Type := ExceptT Nat Op α

/-- Applies a Truss operation to each of a list. -/
def collect {α β : Type} (f : α → TOp β) : List α → TOp (List β)
  | [] => pure []
  | x :: xs => do
    let y ← f x
    let ys ← collect f xs
    pure (y :: ys)

/-- Under FLUSH 2 a value that is subnormal in its own format is zero of its sign: its significand lacks the leading bit. -/
def flushOperand (flush : Nat) (f : Fmt) : FpVal → FpVal
  | .num n m e => if flush = 2 ∧ m < 2 ^ f.fb then .num n 0 e else .num n m e
  | v => v

/-- An element that the Truss reads through a view. -/
def trussElem (km : Bool) (t : ShapeReg) (planes l : Nat) : TOp FpVal := do
  match ← (readView km t planes l : Op ViewRead) with
  | .refused _ => throw 1
  | .value v bad => if bad then throw 2 else pure v

/-- The message of a multiply: its descriptor and its mask field. -/
def mmMask (e : TEntry) : Bool :=
  match e.ins with
  | .mmav _ _ _ _ m | .mmat _ _ _ _ m | .mmatG _ _ _ _ m => mselOf m
  | _ => false

/-- B's K. -/
def bK (e : TEntry) : Nat := shapeExt e.shB 0

/-- J, the positions of B that A's positions pair with (R255). -/
def pairs (e : TEntry) : List Nat := if mmMask e then (List.range (bK e)).filter (e.mask.getLsbD ·) else List.range (bK e)

def mmFloat (e : TEntry) : Bool := match matKind (snAfmt e.sn) (snPa e.sn) (shapeFmt e.shB) with | some (i, _) => ! i | none => true
def mmKstep (e : TEntry) : Nat := match matKind (snAfmt e.sn) (snPa e.sn) (shapeFmt e.shB) with | some (_, k) => k | none => 8

/-- The number of K-steps. -/
def mmSteps (e : TEntry) : Nat := ((pairs e).length + mmKstep e - 1) / mmKstep e

def fromView (e : TEntry) : Bool := match e.ins with | .mmav .. => false | _ => true

/-- A's format as an FP format, and B's. -/
def bFloat (e : TEntry) : Fmt := fmtFloat (shapeFmt e.shB)

/-- Aval(r, j) (R252, R253). -/
def aVal (e : TEntry) (r j : Nat) : TOp FpVal := do
  let af := snAfmt e.sn
  if fromView e then do
    let v ← trussElem e.kernel e.shA (if af = 5 then snPa e.sn else 8) (r * shapeExt e.shA 0 + j)
    pure (if af ≤ 3 then flushOperand e.flush.toNat (aFloat af) v else v)
  else
    let x := e.regs.getD (j / kReg af) 0
    let idx := r * kReg af + j % kReg af
    if af = 4 then pure (intVal (elemOf x 8 idx).toInt 0)
    else pure (flushOperand e.flush.toNat (aFloat af) (fpVal (aFloat af) (elemOf x (aFloat af).width idx).toNat))

/-- Bval(k, n) (R254). -/
def bVal (e : TEntry) (k n : Nat) : TOp FpVal := do
  let v ← trussElem e.kernel e.shB 8 (n * bK e + k)
  pure (if mmFloat e then flushOperand e.flush.toNat (bFloat e) v else v)

/-- The sum of a K-step's terms, exact but for special values, with its flags (R256). -/
def sumTerms (acc : FpVal) (ps : List (FpVal × BitVec 5)) : FpVal × BitVec 5 :=
  ps.foldl (fun a p => let r := addVal 0 a.1 p.1; (r.1, a.2 ||| p.2 ||| r.2)) (acc, 0)

/-- The terms hold infinities of both signs. -/
def bothInf (vs : List FpVal) : Bool := vs.contains (.inf true) && vs.contains (.inf false)

/-- One rounding of a float-kind K-step (R256). -/
def floatStep (flush : Nat) (acc : Nat) (xs : List (FpVal × FpVal)) : Nat × BitVec 5 :=
  let a := flushOperand flush fp32 (fpVal fp32 acc)
  let ps := xs.map fun x => mulVal x.1 x.2
  let r := sumTerms a ps
  let nv := if bothInf (a :: ps.map Prod.fst) then flagNV else 0
  let q := roundFp fp32 0 flush (if nv = 0 then r.1 else .nan false)
  (q.1, q.2 ||| r.2 ||| nv ||| snanFlag (a :: xs.flatMap fun x => [x.1, x.2]))

/-- An integer-kind K-step of one cell (R257). -/
def intStep (acc : BitVec 128) (xs : List (FpVal × FpVal)) : BitVec 128 × BitVec 5 :=
  xs.foldl (fun a x => let r := sumAdd a.1 (mulVal x.1 x.2).1; (r.1, a.2 ||| r.2)) (acc, 0)

/-- Every add of an integer-kind K-step of one cell passes the adder's residue check (R96). -/
def stepChecks (acc : BitVec 128) (xs : List (FpVal × FpVal)) : Bool :=
  (xs.foldl (fun (a : BitVec 128 × Bool) x =>
    let p := (mulVal x.1 x.2).1
    ((sumAdd a.1 p).1, a.2 && sumChecks a.1 p)) (acc, true)).2

/-- The A and B values of a K-step: of each row, and of each column. -/
def slab (e : TEntry) (k : Nat) : TOp (List (List FpVal) × List (List FpVal)) := do
  let js := ((List.range (pairs e).length).drop (k * mmKstep e)).take (mmKstep e)
  let a ← collect (fun r => collect (aVal e r) js) (List.range (snRows e.sn))
  let b ← collect (fun n => collect (fun j => bVal e ((pairs e).getD j 0) n) js) (List.range (snCols e.sn))
  pure (a, b)

/-- The tile of an entry. -/
def trussTile (e : TEntry) : Nat :=
  match e.ins with
  | .mmav az _ _ _ _ | .mmat az _ _ _ _ | .mmatG az _ _ _ _ => az.toNat
  | .mz rd | .mst rd _ _ | .mwr rd _ _ => rd.toNat
  | .mrd _ ra _ => ra.toNat
  | _ => 0

/-- K-step k on the tile. -/
def runStep (e : TEntry) (k : Nat) : TOp (BitVec 5) := do
  let (a, b) ← slab e k
  let x ← (read fun s => tileOf (mySpan s) (trussTile e) : Op Tile)
  let x0 := withTag (if mmFloat e then .f else .i) x
  let pairsAt (rc : Nat × Nat) : List (FpVal × FpVal) := (a.getD rc.1 []).zip (b.getD rc.2 [])
  let ok := mmFloat e || (cells (snRows e.sn) (snCols e.sn)).all fun rc => stepChecks (tileEntry x0 rc.1 rc.2) (pairsAt rc)
  if ! ok then throw 5 else pure ()
  let r := (cells (snRows e.sn) (snCols e.sn)).foldl (fun (acc : Tile × BitVec 5) rc =>
    let xs := pairsAt rc
    if mmFloat e then
      let v := floatStep e.flush.toNat ((tileEntry acc.1 rc.1 rc.2).toNat % 2 ^ 32) xs
      (setEntry rc.1 rc.2 (BitVec.ofNat 128 v.1) acc.1, acc.2 ||| v.2)
    else
      let v := intStep (tileEntry acc.1 rc.1 rc.2) xs
      (setEntry rc.1 rc.2 v.1 acc.1, acc.2 ||| v.2)) (x0, 0)
  (update (setTile (trussTile e) r.1) : Op Unit)
  pure r.2

/-- K-steps from k on, at most n. -/
def runSteps (e : TEntry) : Nat → Nat → BitVec 5 → TOp (BitVec 5)
  | 0, _, fl => pure fl
  | n + 1, k, fl =>
    if k < mmSteps e then do
      let f ← runStep e k
      runSteps e n (k + 1) (fl ||| f)
    else pure fl

/-- The checks of a multiply as it starts: the tile's tag, and the sparse counts (R255, R263). DESIGN CHOICE (log 88): R263 does not
say which ECODE is recorded where several hold; 4 comes before 3, both before 1 and 2, and A's elements before B's in a K-step. -/
def mmStart (e : TEntry) : TOp Unit := do
  let x ← (read fun s => tileOf (mySpan s) (trussTile e) : Op Tile)
  if x.tag ≠ .z ∧ x.tag ≠ (if mmFloat e then .f else .i) then throw 4 else pure ()
  let kc := (pairs e).length
  if mmMask e ∧ (if fromView e then shapeExt e.shA 0 ≠ kc else 2 ^ snAreg e.sn * kReg (snAfmt e.sn) < kc) then throw 3
  else pure ()

/-- The tile takes the kind of a multiply, even where no K-step writes it. -/
def takeKind (e : TEntry) : Op Unit := update fun s =>
  setTile (trussTile e) (withTag (if mmFloat e then .f else .i) (tileOf (mySpan s) (trussTile e))) s

/-- The residue check at the end of an integer-kind multiply (R96, R97). -/
def trussResidue (e : TEntry) : TOp Unit := do
  let n ← (read (·.turn.residue) : Op Nat)
  if n = 0 ∨ mmFloat e then pure ()
  else do
    (update fun s => logEvent (myNode s) .residueRepeat (myPeer s) [e.seq.toNat] s : Op Unit)
    if n < 2 then pure () else throw 5

/-! ## The other entries (R270, R271) -/

/-- What `mrd` delivers, with its flags. -/
def readTile (x : Tile) (row0 : Nat) : VReg × BitVec 5 :=
  (List.range 256).foldl (fun (acc : VReg × BitVec 5) i =>
    let o := entryOut x (row0 + i / 64) (i % 64)
    (setElem acc.1 32 i (BitVec.ofNat 32 o.1), acc.2 ||| o.2)) (0, 0)

/-- The entry that `mwr` forms of an FP32 element. -/
def writtenEntry (int : Bool) (flush : Nat) (bits : Nat) : BitVec 128 × BitVec 5 :=
  if int then sumAdd 0 (fpVal fp32 bits)
  else if fpIsNan fp32 bits then (BitVec.ofNat 128 fp32.nan, 0)
  else (BitVec.ofNat 128 (flushIn fp32 flush bits), 0)

/-- `mwr` on its tile. -/
def runMwr (e : TEntry) : TOp (BitVec 5) := do
  let int := e.sn.getLsbD 8
  let x ← (read fun s => tileOf (mySpan s) (trussTile e) : Op Tile)
  let k : TileTag := if int then .i else .f
  if x.tag ≠ .z ∧ x.tag ≠ k then throw 4
  else do
    let row0 := (e.sn.extractLsb' 0 6).toNat
    let r := (List.range 256).foldl (fun (acc : Tile × BitVec 5) i =>
      let w := writtenEntry int e.flush.toNat (elemOf (e.regs.getD 0 0) 32 i).toNat
      (setEntry (row0 + i / 64) (i % 64) w.1 acc.1, acc.2 ||| w.2)) (withTag k x, 0)
    (update (setTile (trussTile e) r.1) : Op Unit)
    pure r.2

/-- The value that `mst` writes at view element l: FLUSH 2 makes an FP32 subnormal of an F tile zero for scaled formats. -/
def storedEntry (e : TEntry) (x : Tile) (l : Nat) : FpVal :=
  let v := entryVal x (stRow e.sn + viewOuter e.shA l) (stCol e.sn + viewInner e.shA l)
  if x.tag = .f ∧ ! fmtFp16 (shapeFmt e.shA) then flushOperand e.flush.toNat fp32 v else v

/-- Raw elements of `mst`, one after the other; of elements at one address the last remains. -/
def storeRaw (e : TEntry) (x : Tile) : List Nat → BitVec 5 → Op (BitVec 5)
  | [], fl => pure fl
  | l :: ls, fl => do
    let o := entryOut x (stRow e.sn + viewOuter e.shA l) (stCol e.sn + viewInner e.shA l)
    if ls.any fun k => viewAddr e.shA k == viewAddr e.shA l then pure ()
    else storeElement e.kernel 4 (viewAddr e.shA l) o.1
    storeRaw e x ls (fl ||| o.2)

/-- `mst` through its view. -/
def runMst (e : TEntry) : Op (BitVec 5) := do
  let x ← read fun s => tileOf (mySpan s) (trussTile e)
  let ls := List.range (viewCount e.shA)
  if fmtRaw (shapeFmt e.shA) then storeRaw e x ls 0
  else writeUnits e.kernel e.shA 0 e.flush.toNat (storedEntry e x) (unitsOf e.shA ls) 0

/-! ## Ends of entries (R264, R266, R267) -/

/-- A status entry (R267). -/
def statusEntry (e : TEntry) (fl : BitVec 5) (err dropped : Bool) : Word :=
  BitVec.ofNat 64 (e.seq.toNat + fl.toNat * 2 ^ 16 + err.toNat * 2 ^ 21 + dropped.toNat * 2 ^ 22)

/-- Pushes the status entry of the thread's oldest Truss entry, if it waits and q6 has room (R107): with that the entry completes, and
its flags reach `mstat` (R266, R269). -/
def pushStatus (t : Thread) : Thread :=
  match t.tq with
  | e :: rest =>
    (match e.push with
      | some w => if (queueAt t 6).length < 16 then
          { setQueue 6 (queueAt t 6 ++ [w]) t with tq := rest, u := { t.u with mstat := t.u.mstat ||| e.flags.setWidth 64 } }
        else t
      | none => t)
  | [] => t

/-- Pushes what it can. -/
def pushAll (t : Thread) : Thread := t.tq.foldl (fun u _ => pushStatus u) t

/-- An entry that is done stays only while its status entry waits. -/
def leftOver (e : TEntry) (fl : BitVec 5) (err dropped : Bool) : List TEntry :=
  if e.notify then [{ e with flags := fl, push := some (statusEntry e fl err dropped) }] else []

/-- The oldest entry completes with its flags, or waits for room in q6 with them. -/
def completeHead (fl : BitVec 5) (t : Thread) : Thread :=
  match t.tq with
  | e :: rest => pushAll { t with tq := leftOver e fl false false ++ rest,
                                  u := if e.notify then t.u else { t.u with mstat := t.u.mstat ||| fl.setWidth 64 } }
  | [] => t

/-- The oldest entry records a matrix error; every later one is discarded (R264). -/
def failHead (ecode : Nat) (t : Thread) : Thread :=
  match t.tq with
  | e :: rest =>
    let m := t.u.mstat
    let m1 := if m.getLsbD 5 then m else m ||| 0x20 ||| BitVec.ofNat 64 (ecode * 2 ^ 8 + e.seq.toNat * 2 ^ 16)
    let m2 := if rest = [] then m1 else m1 ||| 0x40
    pushAll { t with tq := leftOver e 0 true false ++ rest.flatMap (fun x => leftOver x 0 false true),
                     u := { t.u with mstat := m2 } }
  | [] => t

/-- The cells that an entry was writing. -/
def writtenCells (e : TEntry) (ecode : Nat) : List (Nat × Nat) :=
  if ecode = 5 then cells 64 64
  else match e.ins with
    | .mwr .. => (cells 4 64).map fun rc => ((e.sn.extractLsb' 0 6).toNat + rc.1, rc.2)
    | _ => cells (snRows e.sn) (snCols e.sn)

/-- A multiply with M = 0 changes no tile (R258). -/
def emptyMultiply (e : TEntry) : Bool :=
  match e.ins with
  | .mmav .. | .mmat .. | .mmatG .. => snRows e.sn == 0
  | _ => false

/-- The entries that an erring entry was writing are undefined (R264, log 11). DESIGN CHOICE (log 89): the rule does not say which tag a
Z tile has after an error before the first K-step; it takes the kind of the entry. -/
def spoilTile (e : TEntry) (ecode : Nat) (s : State) : State :=
  if emptyMultiply e then s else
  let int := match e.ins with | .mwr .. => e.sn.getLsbD 8 | _ => ! mmFloat e
  let x := withTag (if int then .i else .f) (tileOf (mySpan s) (trussTile e))
  let y := (writtenCells e ecode).foldl (fun u rc =>
    let v := Config.tileEntry s.fresh rc.1 rc.2
    setEntry rc.1 rc.2 (if u.tag = .f then (v.setWidth 32).setWidth 128 else v) u) x
  setTile (trussTile e) y { s with fresh := s.fresh + 1 }

/-- For whom an entry makes its accesses: with the translations that passed at issue (R263), and the replies that have come (log 46). -/
def trussActing (e : TEntry) : Acting := { agent := .truss, age := e.age, elem := 0, replies := e.replies, pages := e.pages }

/-- Stores of an entry are not acknowledged. -/
def trussOut (s : State) (e : TEntry) : Bool := s.packets.any fun p => ownPacket s.thr p && p.agent == .truss && p.age == e.age

/-- The end of a Truss operation: a matrix error, or flags; a fault at execution, its translations having passed at issue, is
one of the target; a read from another die waits for its reply. -/
def endEntry (e : TEntry) (done : BitVec 5 → State → State) (m : TOp (BitVec 5)) : Op Unit := fun s =>
  match actFor (trussActing e) m.run s with
  | .ok (.ok fl) s' => .ok () (done fl s')
  | .ok (.error c) s' => .ok () { spoilTile e c s' with thr := failHead c s'.thr }
  | .error (.trap _ a) s' => .error (.fatal .targetFault a.toNat) s'
  | .error (.fatal c a) s' => .error (.fatal c a) s'
  | .error (.request q) _ => if asking s .truss then .error .absent s else .ok () (sendRequest (trussActing e) q s)
  | .error _ s' => .error .absent s'

/-! ## The Truss at work (R259, R260) -/

/-- The link entry of an `mrd` stands at the head of the vector queue. -/
def linkAtHead (t : Thread) (e : TEntry) : Bool :=
  match t.v.vq with | v :: _ => v.link == some e.seq && t.v.held.isNone | [] => false

/-- The operands of an entry are ready. -/
def operandsReady (s : State) (e : TEntry) : Bool :=
  let t := s.thr
  let rs := trussRanges e
  (match e.ins with
    | .mmav .. | .mwr .. => e.staged
    | .mmat .. | .mmatG .. => ! mmMask e || e.staged
    | .mrd .. => linkAtHead t e
    | _ => true)
    && ! (rs != [] && ((olderEntries t e.age).any (fun v => isMarker v || conflict rs (entryRanges v))
      || (olderOuts s e.age).any fun v => conflict rs (entryRanges v)))
    && ! (olderTransfers t e.age).any (fun y => conflict rs (transferRanges y))
    && ! (olderPackets s e.age).any (fun p => conflict rs [packetRange p])
    && ! heldByColl s e.age rs

/-- The entry of the current thread that the Truss may start; none once its context is saved (R384). -/
def startable (s : State) : Option TEntry :=
  match (if s.thr.k.saved && s.thr.k.km then [] else s.thr.tq) with
  | e :: _ => if ! e.started && e.push.isNone && operandsReady s e then some e else none
  | [] => none

/-- An entry runs on a Span's Truss. -/
def trussBusy (s : State) (peer span : Nat) : Bool :=
  (allThreads s).any fun t => t.status == .running && t.place.peer == peer && t.place.span == span
    && (match t.tq with | e :: _ => e.started && e.push.isNone | [] => false)

/-- The slot whose entry the Truss of a Span starts next (R259). -/
def trussSlot (s : State) (peer span : Nat) : Option Nat :=
  if trussBusy s peer span then none
  else nextSlot (spanOf s peer span).trussTurn fun k =>
    match focus ⟨peer, span, k⟩ s with
    | some u => (startable u).isSome
    | none => false

/-- Changes the oldest Truss entry. -/
def modTruss (f : TEntry → TEntry) (s : State) : State :=
  { s with thr := { s.thr with tq := match s.thr.tq with | e :: es => f e :: es | [] => [] } }

/-- The first step of an entry: of a multiply its checks, also with M = 0 (DEDUCED, log 78), and its first K-step. -/
def firstStep (e : TEntry) : TOp (BitVec 5) :=
  match e.ins with
  | .mmav .. | .mmat .. | .mmatG .. =>
    do
      mmStart e
      if snRows e.sn = 0 then pure 0
      else do
        (takeKind e : Op Unit)
        runSteps e 1 0 0
  | _ => pure 0

/-- TRUSS_ENTRY_START (R259). -/
def startTruss : Op Unit := do
  let p ← read fun s => s.thr.place
  let slot ← read fun s => trussSlot s p.peer p.span
  enabled (slot = some p.slot)
  let e ← orStop (← read startable) .absent
  update (modMySpan fun x => { x with trussTurn := (p.slot + 1) % 8 })
  update (modTruss fun e => { e with started := true })
  if e.kstep = 0 then endEntry e firstDone (firstStep e) else pure ()
where
  /-- The entry has taken its first step. -/
  firstDone (fl : BitVec 5) : State → State := modTruss fun e => { e with started := true, kstep := 1, flags := fl, replies := [] }

/-- The link entry of an `mrd` receives its data. -/
def deliver (seq : BitVec 16) (x : VReg) (t : Thread) : Thread :=
  let q := t.v.vq.map fun v => if v.link = some seq then { v with delivered := some (some x) } else v
  { t with v := { t.v with vq := q } }

/-- The rest of an entry. -/
def lastSteps (e : TEntry) : TOp (BitVec 5) :=
  match e.ins with
  | .mmav .. | .mmat .. | .mmatG .. =>
    if snRows e.sn = 0 then pure 0
    else do
      let fl ← runSteps e (mmSteps e) e.kstep e.flags
      trussResidue e
      pure fl
  | .mz _ => do
    (update (setTile (trussTile e) ⟨.z, []⟩) : Op Unit)
    pure 0
  | .mst .. => (runMst e : Op (BitVec 5))
  | .mwr .. => runMwr e
  | .mrd .. => do
    let x ← (read fun s => tileOf (mySpan s) (trussTile e) : Op Tile)
    let o := readTile x (e.sn.extractLsb' 0 6).toNat
    (modThr (deliver e.seq o.1) : Op Unit)
    pure o.2
  | _ => pure 0

/-- An entry completes with its flags; one whose stores are not acknowledged keeps them, its work done, until they are (R226). -/
def finishEntry (e : TEntry) (fl : BitVec 5) (s : State) : State :=
  if trussOut s e then modTruss (fun e => { e with kstep := 2, flags := fl, replies := [] }) s else { s with thr := completeHead fl s.thr }

/-- The entry has done its work and waits for acknowledgements. -/
def awaitsAcks (e : TEntry) : Bool := (match e.ins with | .mst .. => true | _ => false) && e.kstep == 2

/-- TRUSS_ENTRY_COMPLETE (R264, R266, R267, R269); an entry whose first step waited for replies tries that again. -/
def completeTruss : Op Unit := do
  let s ← get
  match s.thr.tq with
  | e :: _ => do
    enabled (e.started = true ∧ e.push = none ∧ ! (awaitsAcks e && trussOut s e))
    if e.kstep = 0 then endEntry e (startTruss.firstDone) (firstStep e)
    else if awaitsAcks e then modThr (completeHead e.flags) else endEntry e (finishEntry e) (lastSteps e)
  | [] => raise .absent

/-- A grouped `mmat` runs with its operands swapped (R262): the bits it writes are those of the unswapped run. -/
def runsSwapped (e : TEntry) : Bool :=
  (match e.ins with | .mmatG .. => true | _ => false)
    && decide (1 ≤ snRows e.sn ∧ snRows e.sn < (if 64 < e.mbth.toNat then 65 else e.mbth.toNat))
    && ! mmMask e && snAfmt e.sn != 5
    && decide ((snRows e.sn + 7) / 8 * bK e * (if snAfmt e.sn ≤ 1 then 2 else 1) ≤ 16384)

/-- `TRUSS_ENTRY_START` (R259). -/
def execTrussEntryStart (s : State) : Outcome State Fault Refusal := finish startTruss s

/-- `TRUSS_ENTRY_COMPLETE` (R269). -/
def execTrussEntryComplete (s : State) : Outcome State Fault Refusal := finish completeTruss s

/-- `DEFERRED_QUEUE_PUSH` (R107): into q6 or q7 of the current thread. -/
def execDeferredQueuePush (q : Nat) (s : State) : Outcome State Fault Refusal :=
  finish (do
    let t ← read (·.thr)
    if q = 6 then do
      enabled (pushStatus t ≠ t)
      modThr pushStatus
    else do
      enabled (q = 7 ∧ pushCompletion t ≠ t)
      modThr pushCompletion) s

end Sys2Proof.Machine
end

