-- ==== Sys2Proof/Machine/Shapes.lean ====
section
/-! DEFINITION. The shape instructions of major 0x3F (R276 to R280). -/

namespace Sys2Proof.Machine

open Host (Outcome)

/-! ## Eight accesses of 8 bytes (R279) -/

/-- A trap leaves what the accesses before it made: the thread goes back to the start of its instruction, but for the count
of what it has sent. -/
def keepAccesses (t : Thread) (m : Op Unit) : Op Unit := fun s =>
  match m s with
  | .ok _ s' => .ok () s'
  | .error (.trap c v) s' => .error (.trapKeep c v) { s' with thr := { t with issued := s'.thr.issued } }
  | .error e s' => .error e s'

/-- An ordinary scalar load of 8 bytes that fills no line: it may be served by a line that the L1 holds (R188). A register of
MMIO takes no such access (R192). -/
def chunkLoad (va : Word) : Op Word := do
  let t ← read (·.thr)
  let r ← access .load t.k.km 8 va
  interlockScalar va 8 false
  match ← read fun s => if cacheable s r then heldLine r s else none with
  | some d => pure (BitVec.ofNat 64 (lineBytes d r.fpa 8))
  | none => do
    let v ← loadRef r 8
    pure (BitVec.ofNat 64 v)

/-- An ordinary scalar store of 8 bytes. -/
def chunkStore (va v : Word) : Op Unit := do
  let t ← read (·.thr)
  let r ← access .store t.k.km 8 va
  interlockScalar va 8 true
  plainStore r 8 v.toNat

/-- Loads chunks at rising addresses: the value so far, with its next chunk at a bit. -/
def loadChunks (va : Word) : List Nat → BitVec 512 → Op (BitVec 512)
  | [], x => pure x
  | j :: js, x => do
    let v ← chunkLoad (va + BitVec.ofNat 64 (8 * j))
    loadChunks va js (x ||| (v.setWidth 512 <<< (64 * j)))

/-- Loads a 64-byte record, as `tldr` and `xfmq` do. -/
def loadRecord (va : Word) : Op (BitVec 512) := do
  require (va.toNat % 64 = 0) (.trap (causeCode .misaligned) va)
  loadChunks va (List.range 8) 0

/-! ## Fields (R278) -/

/-- The place and the width of field c. -/
def shapeField (c : Nat) : Nat × Nat :=
  if c = 0 then (0, 64)
  else if c < 7 then (64 * (c - 1) + 64, 16)
  else if c < 13 then (64 * (c - 7) + 80, 48)
  else if c = 13 then (448, 8)
  else if c = 14 then (456, 24)
  else if c = 15 then (480, 16)
  else (496, 16)

/-- A field code that R278 accepts. -/
def fieldCode (c : Word) : Bool := decide (c.toNat < 17)

/-- A value that a field takes. -/
def fieldTakes (c : Nat) (v : Word) : Bool :=
  if c = 0 then true
  else if 7 ≤ c ∧ c < 13 then decide (-(2 : Int) ^ 47 ≤ v.toInt ∧ v.toInt < 2 ^ 47)
  else decide (v.toNat < 2 ^ (shapeField c).2)

/-- A shape register with n bits at a place replaced. -/
def putField (t : ShapeReg) (lo n : Nat) (v : Word) : ShapeReg :=
  let mask : ShapeReg := BitVec.ofNat 512 (2 ^ n - 1) <<< lo
  (t &&& ~~~ mask) ||| ((v.setWidth 512 <<< lo) &&& mask)

/-- The value of a field. -/
def getField (t : ShapeReg) (c : Nat) : Word :=
  let f := shapeField c
  let v : Word := (t >>> f.1).setWidth 64
  if 7 ≤ c ∧ c < 13 then ((t >>> f.1).setWidth 48).signExtend 64 else v &&& BitVec.ofNat 64 (2 ^ f.2 - 1)

def setShape (n : Nat) (x : ShapeReg) (t : Thread) : Thread := { t with shp := vset t.shp n x }

/-! ## The instructions (R279, R280) -/

/-- `tldr` (R279). -/
noncomputable def execTldr (rd ra : BitVec 7) (s : State) : Outcome State Fault Refusal :=
  scalarOp (.tldr rd ra) (shapeF rd && srcS ra) (do
    let a ← readS ra
    let x ← loadRecord a
    modThr (setShape rd.toNat x)) s

/-- `tstr` (R279): the shape register stands in [25:19]. -/
noncomputable def execTstr (rd ra : BitVec 7) (s : State) : Outcome State Fault Refusal :=
  scalarOp (.tstr rd ra) (shapeF rd && srcS ra) (keepAccesses s.thr (do
    let a ← readS ra
    let t ← read (·.thr)
    require (a.toNat % 64 = 0) (.trap (causeCode .misaligned) a)
    forEach (List.range 8) fun j =>
      chunkStore (a + BitVec.ofNat 64 (8 * j)) ((vget t.shp rd.toNat 0).extractLsb' (64 * j) 64))) s

/-- `tset` (R278, R279). -/
noncomputable def execTset (rd ra rb : BitVec 7) (s : State) : Outcome State Fault Refusal :=
  scalarOp (.tset rd ra rb) (shapeF rd && srcS ra && srcS rb) (do
    let v ← readS ra
    let c ← readS rb
    require ((fieldCode c && fieldTakes c.toNat v) = true) (.trap (causeCode .illegalOperand) (wordVal (.tset rd ra rb)))
    modThr fun t =>
      setShape rd.toNat (putField (vget t.shp rd.toNat 0) (shapeField c.toNat).1 (shapeField c.toNat).2 v) t) s

/-- `tget` (R278, R279). -/
noncomputable def execTget (rd ra rb : BitVec 7) (s : State) : Outcome State Fault Refusal :=
  scalarOp (.tget rd ra rb) (dstS rd && shapeF ra && srcS rb) (do
    let c ← readS rb
    let t ← read (·.thr)
    require (fieldCode c = true) (.trap (causeCode .illegalOperand) (wordVal (.tget rd ra rb)))
    writeS rd (getField (vget t.shp ra.toNat 0) c.toNat)) s

/-- The shape of an old-format record in the leading elements of a register; none where a value is out of range (R280). -/
def oldShape (x : VReg) : Option ShapeReg :=
  let e (i : Nat) : Word := elemOf x 64 i
  if ((List.range 13).all fun i => fieldTakes i (e i)) then
    some ((List.range 13).foldl (fun t i => putField t (shapeField i).1 (shapeField i).2 (e i)) 0)
  else none

/-- `vshp` (R280). -/
noncomputable def execVshp (rd ra : BitVec 7) (s : State) : Outcome State Fault Refusal :=
  let i : Instr := .vshp rd ra
  finish (do
    checkWord i false true (shapeF rd && vregF ra)
    let t ← read (·.thr)
    let out ← read pendingDests
    require (t.v.vq = [] ∧ t.v.nbq = [] ∧ out = []) (.wait .other)
    let x ← orStop (oldShape (vreg t true ra.toNat)) (.trap (causeCode .illegalOperand) (wordVal i))
    modThr (setShape rd.toNat x)
    modThr retire) s

end Sys2Proof.Machine
end

