-- ==== Sys2Proof/Machine/Wait.lean ====
section
/-! DEFINITION. `waitge`, `waitt`, `waitp` and their wakes (R302 to R304). A wake lets the instruction execute again, at which
it completes. -/

namespace Sys2Proof.Machine

open Host (Outcome)

/-- The counter at an address, read at its home, past the L1 and window lines (R302). -/
def readCounter (va : Word) : Op Word := do
  let t ← read (·.thr)
  let r ← access .load t.k.km 8 va
  let v ← loadRef { r with win := false } 8
  pure (BitVec.ofNat 64 v)

/-- The watcher at the home of a sleeping `waitge`'s counter finds its condition met, or its access refused (R303, log 46). -/
def watcherWakes (s : State) (va target : Word) : Bool :=
  match access .load s.thr.k.km 8 va s with
  | .ok r _ => decide (target.toNat ≤ memRead s r.key r.fpa 8)
  | .error _ _ => true

/-- The stopped transfer that holds a `waitge` on an address raises *transfer fault* (R297). -/
def faultCounter (va : Word) : Op Unit := do
  let t ← read (·.thr)
  faultStopped (t.tr.filter fun x => x.ctr == va)

/-! ## Failures of collectives (R336) -/

/-- The oldest failure that the current thread has still to receive, of those that meet a condition. -/
def failureHere (s : State) (p : CollFailure → Bool) : Option CollFailure :=
  (myDie s).collFailures.find? fun f => f.owner == threadId s.thr && p f

/-- Delivers such a failure, once: *collective error* at the instruction before which the thread stood as given. -/
def raiseFailure (t : Thread) (p : CollFailure → Bool) : Op Unit := do
  let s ← get
  match failureHere s p with
  | none => pure ()
  | some f => do
    update fun s => { modDie (myPeer s) (fun d => { d with collFailures := d.collFailures.erase f }) s with thr := t }
    raise (.trapKeep (causeCode .collective) f.val)

/-- `waitge` (R297, R302, R336). -/
noncomputable def execWaitge (ra rb : BitVec 7) (s : State) : Outcome State Fault Refusal :=
  scalarOp (.waitge ra rb) (srcS ra && srcS rb) (do
    let a ← readS ra
    let b ← readS rb
    let t ← read (·.thr)
    let _ ← access .load t.k.km 8 a
    faultCounter a
    raiseFailure s.thr fun f => f.ctrVa == a && a != 0
    interlockScalar a 8 false
    let v ← readCounter a
    require (b.toNat ≤ v.toNat) (.waitDone (.waitge a b))
    removeCopies 3) s

/-- `waitt` (R302). -/
noncomputable def execWaitt (ra : BitVec 7) (s : State) : Outcome State Fault Refusal :=
  scalarOp (.waitt ra) (srcS ra) (do
    let a ← readS ra
    require (a.toNat ≤ s.time) (.wait (.waitt a))) s

/-- The promised tick of a transfer has passed without it, and no miss has been delivered (R304). -/
def promiseMissed (now : Nat) (x : Transfer) : Bool := decide (x.promise.toNat ≤ now) && ! x.missed

/-- *Missed promise* for a transfer; MISSED stays set. -/
def missPromise (x : Transfer) : Op Unit := do
  let t ← read (·.thr)
  keepAccesses { t with tr := t.tr.map fun y => if y.order = x.order then { y with missed := true } else y }
    (trapC .missedPromise (x.id.setWidth 64))

/-- `waitp` (R297, R302, R304). -/
noncomputable def execWaitp (ra : BitVec 7) (s : State) : Outcome State Fault Refusal :=
  finish (do
    checkWord (.waitp ra) false false (srcS ra)
    let a ← readS ra
    match transferOf s.thr a with
    | some x =>
      if transferStopped x then trapC .transfer (transferVal x)
      else if x.state = .running then do
        require (promiseMissed s.time x = true) (.wait (.waitp x.id))
        update fun u => { u with thr := s.thr }
        missPromise x
      else do
        removeCopies 3
        modThr retire
    | none => do
      removeCopies 3
      modThr retire) s

/-! ## Wakes (R303) -/

/-- The thread's instruction executes again. -/
def wake : Op Unit := modThr fun t => { t with wait := none }

/-- A `waitge` of the current thread goes on: its counter has reached the target, a transfer on the counter has stopped, or
the address no longer passes its checks. -/
def waitgeReady (s : State) : Bool :=
  match s.thr.wait with
  | some (.waitge a b) =>
    s.thr.tr.any (fun x => x.ctr == a && transferStopped x)
      || (failureHere s fun f => f.ctrVa == a && a != 0).isSome
      || watcherWakes s a b
  | _ => false

def waittReady (s : State) : Bool := match s.thr.wait with | some (.waitt a) => decide (a.toNat ≤ s.time) | _ => false

/-- The transfer has ended or stopped. -/
def waitpReady (s : State) : Bool :=
  match s.thr.wait with
  | some (.waitp id) => (match transferOf s.thr (id.setWidth 64) with | some x => x.state != .running | none => true)
  | _ => false

/-- The transfer of a sleeping `waitp` whose promise passes. -/
def missedHere (s : State) : Option Transfer :=
  match s.thr.wait with
  | some (.waitp id) => (match transferOf s.thr (id.setWidth 64) with
      | some x => if x.state = .running ∧ promiseMissed s.time x then some x else none
      | none => none)
  | _ => none

/-- `WAITGE_WAKE` (R303). -/
def execWaitgeWake (s : State) : Outcome State Fault Refusal := finish (do enabled (waitgeReady s = true); wake) s

/-- `WAITT_WAKE` (R303). -/
def execWaittWake (s : State) : Outcome State Fault Refusal := finish (do enabled (waittReady s = true); wake) s

/-- `WAITP_WAKE` (R303). -/
def execWaitpWake (s : State) : Outcome State Fault Refusal := finish (do enabled (waitpReady s = true); wake) s

/-- `MISSED_PROMISE` (R304). -/
def execMissedPromise (s : State) : Outcome State Fault Refusal :=
  finish (do
    let x ← orStop (missedHere s) .absent
    missPromise x) s

end Sys2Proof.Machine
end

