-- ==== Sys2Proof/Machine/Groups.lean ====
section
/-! DEFINITION. Claim words (R359 to R361) and membership sets (R362 to R364). -/

namespace Sys2Proof.Machine

open Host (Outcome)

/-! ## Claim words -/

/-- The address lies on a sync page; the local window is none. -/
def onSyncPage (va : Word) : Op Bool := do
  match ← translate va with
  | .window _ => pure false
  | .page p _ => pure (pteSync p)

/-- The checks of a claim word: R62 with alignment 16, then the sync page (R359). -/
def checkClaim (va : Word) : Op Ref := do
  let t ← read (·.thr)
  let r ← access .atomic t.k.km 16 va
  let sync ← onSyncPage va
  require (sync = true) (.trap (causeCode .order) va)
  pure r

/-- Step 1 of a `claimt` (R360): the two halves of the claim word, which its home holds for the thread from now on. -/
def holdClaim (r : Ref) : Op (Nat × Nat) := do
  let w ← if ← read (isRemote · r.fpa) then do
      let x ← ask r 16 .hold
      pure x.val
    else do
      notHeld r.fpa 16
      arrive .atomic r.fpa 16
      update fun s => holdWord r.fpa s.thr.place s
      read fun s => memRead s r.key r.fpa 16
  pure (w % 2 ^ 64, w / 2 ^ 64)

/-- The new `next`, if any, is written, and the word is released. -/
def releaseAt (p : Phys) (who : Place) (next : Option Word) (s : State) : State :=
  freeWord p.fpa who (match next with | some v => memWrite p.key p.fpa 8 v.toNat s | none => s)

/-- Step 3 of a `claimt` (R360); the Span's L1 lines go first (R188). -/
def releaseClaim (r : Ref) (next : Option Nat) : Op Unit := do
  update fun s => if s.thr.host then s else l1Remove r.fpa 16 s
  if ← read (isRemote · r.fpa) then do
    let _ ← ask r 16 (.release (next.map (BitVec.ofNat 64)))
    pure ()
  else update fun s => releaseAt ⟨r.fpa, r.key⟩ s.thr.place (next.map (BitVec.ofNat 64)) s

/-- The result of a claim: `vl` and the scalar. -/
def claimResult (rd : BitVec 7) (v vl : Nat) : Op Unit := do
  modThr fun t => { t with u := { t.u with vl := BitVec.ofNat 11 vl } }
  writeS rd (BitVec.ofNat 64 v)

/-- `claim` (R359). -/
noncomputable def execClaim (rd ra rb : BitVec 7) (s : State) : Outcome State Fault Refusal :=
  scalarOp (.claim rd ra rb) (dstS rd && srcS ra && srcS rb) (do
    let a ← readS ra
    let b ← readS rb
    roomFor rd
    let r ← checkClaim a
    interlockScalar a 16 true
    let t ← read (·.thr)
    let n := min b.toNat (vlmax t)
    update fun s => if s.thr.host then s else l1Remove r.fpa 16 s
    let w ← fetchRef r (.claim n)
    claimResult rd (w % 2 ^ 64) (claimTakes n (w % 2 ^ 64) (w / 2 ^ 64))) s

/-- The ROWS of tile record j of a list (R361), read as a 16-byte load. -/
def recordRows (b : Word) (j : Nat) : Op Nat := do
  let t ← read (·.thr)
  let va := b + BitVec.ofNat 64 (16 * j)
  let r ← access .load t.k.km 16 va
  interlockScalar va 16 false
  let v ← loadRef r 16
  pure (v / 2 ^ 16 % 2 ^ 16)

/-- The first of n records from j on that has rows, with its rows; else none. -/
def findRecord (b : Word) : Nat → Nat → Op (Option (Nat × Nat))
  | 0, _ => pure none
  | n + 1, j => do
    let rows ← recordRows b j
    if rows = 0 then findRecord b n (j + 1) else pure (some (j, rows))

/-- `claimt` (R360): a held sequence; where the word and the records lie on the thread's own die, it takes one step. -/
noncomputable def execClaimt (rd ra rb : BitVec 7) (s : State) : Outcome State Fault Refusal :=
  scalarOp (.claimt rd ra rb) (dstS rd && srcS ra && srcS rb) (do
    let a ← readS ra
    let b ← readS rb
    let r ← checkClaim a
    require (b.toNat % 16 = 0) (.trap (causeCode .misaligned) b)
    interlockScalar a 16 true
    let t ← read (·.thr)
    let (next, limit) ← holdClaim r
    match ← findRecord b (limit - next) next with
    | some (j, rows) => do
      releaseClaim r (some (j + 1))
      claimResult rd j (min rows (vlmax t))
    | none => do
      releaseClaim r (if next < limit then some limit else none)
      claimResult rd (max next limit) 0) s

/-! ## Membership sets -/

/-- The set word of the current thread's operand: checked under R62, with its home on the thread's own die, in HBM or a
scratchpad (R362, R363). -/
def setWord (va : Word) : Op Ref := do
  let t ← read (·.thr)
  let r ← access .atomic t.k.km 8 va
  let ok ← read fun s => fpaPeer r.fpa == myPeer s && (homeKind r.fpa == .hbm || homeKind r.fpa == .pad)
  require (ok = true) (.trap (causeCode .permission) va)
  pure r

def setAt (s : State) (peer fpa : Nat) : Option SetRec := nget (dieOf s peer).sets fpa

def putSet (peer fpa : Nat) (x : SetRec) : State → State := modDie peer fun d => { d with sets := nset d.sets fpa x }

/-- The current thread is a member. -/
def isMember (s : State) (fpa : Nat) : Bool :=
  match setAt s (myPeer s) fpa with | some x => x.members.contains (threadId s.thr) | none => false

/-- How many sets the current thread belongs to. -/
def memberships (s : State) : Nat := ((myDie s).sets.filter fun x => x.2.members.contains (threadId s.thr)).length

/-- `gjoin` (R363). -/
noncomputable def execGjoin (ra : BitVec 7) (s : State) : Outcome State Fault Refusal :=
  scalarOp (.gjoin ra) (srcS ra) (do
    let a ← readS ra
    let r ← setWord a
    let s ← get
    if isMember s r.fpa then pure ()
    else do
      require (memberships s < 4) (.trap (causeCode .illegalOperand) (wordVal (.gjoin ra)))
      match setAt s (myPeer s) r.fpa with
      | some x => do
        require (setInProgress x = false) (.wait .other)
        update (putSet (myPeer s) r.fpa { x with members := x.members ++ [threadId s.thr] })
      | none => do
        require ((myDie s).sets.length < 4096) (.wait .other)
        update (putSet (myPeer s) r.fpa
          { key := r.key, members := [threadId s.thr], arrived := [], departing := [] })) s

/-- A thread leaves one set, which goes when it is empty. -/
def leaveSet (peer fpa : Nat) (id : ThreadId) (s : State) : State :=
  match setAt s peer fpa with
  | some x =>
    let y := setLeave id x
    if y.members = [] then modDie peer (fun d => { d with sets := ndel d.sets fpa }) s else putSet peer fpa y s
  | none => s

/-- `gleave` (R363). -/
noncomputable def execGleave (ra : BitVec 7) (s : State) : Outcome State Fault Refusal :=
  scalarOp (.gleave ra) (srcS ra) (do
    let a ← readS ra
    let r ← setWord a
    update fun s => leaveSet (myPeer s) r.fpa (threadId s.thr) s) s

/-- The release of a barrier's arrival: every older access of die scope has performed. A stopped transfer is waited for
(R297 names no barrier). -/
def waitArrival : Op Unit := fun s =>
  match waitOlder ⟨true, true, false, false⟩ 1 s.thr.issued s with
  | .error (.trap _ _) s' => .error (.wait .other) s'
  | x => x

/-- `gbar` (R363): it arrives and waits; a member whose generation has completed departs, as an acquire. -/
noncomputable def execGbar (ra : BitVec 7) (s : State) : Outcome State Fault Refusal :=
  finish (do
    checkWord (.gbar ra) false false (srcS ra)
    let a ← readS ra
    let r ← setWord a
    let bad : Stop := .trap (causeCode .illegalOperand) (wordVal (.gbar ra))
    let t ← read (·.thr)
    let x ← orStop (← read fun s => setAt s (myPeer s) r.fpa) bad
    require (x.members.contains (threadId t) = true) bad
    if x.departing.contains (threadId t) then do
      update fun s => putSet (myPeer s) r.fpa { x with departing := x.departing.filter (· != threadId t) } s
      removeCopies 1
      modThr retire
    else do
      waitArrival
      update fun u => putSet (myPeer u) r.fpa
        { x with arrived := if x.arrived.contains (threadId t) then x.arrived else x.arrived ++ [threadId t] }
        { u with thr := { s.thr with wait := some (.gbar r.fpa) } }) s

/-- The generation of a set can complete: every member has arrived. -/
def generationDone (x : SetRec) : Bool := x.members != [] && x.members.all (x.arrived.contains ·)

/-- The thread sits in the barrier of a set. -/
def inBarrier (fpa : Nat) (t : Thread) : Bool := t.status == .running && t.wait == some (.gbar fpa)

/-- GENERATION_COMPLETE (R363): the set word rises by 1, and every member's `gbar` goes on to depart. -/
def completeGeneration (peer fpa : Nat) (x : SetRec) (s : State) : State :=
  let old := memRead s x.key fpa 8
  let s1 := memWrite x.key fpa 8 ((old + 1) % 2 ^ 64) s
  let s2 := modThreads (fun t => inBarrier fpa t && t.place.peer == peer) (fun t => { t with wait := none }) s1
  putSet peer fpa { x with arrived := [], departing := x.members } s2

/-- `GENERATION_COMPLETE` (R363). -/
def execGenerationComplete (peer setAddr : Nat) (s : State) : Outcome State Fault Refusal :=
  finish (do
    let x ← orStop (← read fun s => setAt s peer setAddr) .absent
    enabled (generationDone x = true)
    update (completeGeneration peer setAddr x)) s

end Sys2Proof.Machine
end

