-- ==== Sys2Proof/Machine/Sched.lean ====
section
/-! DEFINITION. Launches (R342 to R345), the schedulers of the compute dies: readiness, placement with reservation, Span
starts, dispatch, restoring, pre-emption, completion, cancelling (R346 to R356, R386, R387), and `yield` (R358). -/

namespace Sys2Proof.Machine

open Host (Outcome)

/-! ## The launch record (R342, R343) -/

/-- Bytes lo to lo + n − 1 of a 64-byte record. -/
def recField (x : BitVec 512) (lo n : Nat) : Nat := x.toNat / 2 ^ (8 * lo) % 2 ^ (8 * n)

def recEntry (x : BitVec 512) : Word := BitVec.ofNat 64 (recField x 0 8)
def recArg (x : BitVec 512) : Word := BitVec.ofNat 64 (recField x 8 8)
def recThreads (x : BitVec 512) : Nat := recField x 16 4
def recPart (x : BitVec 512) : BitVec 32 := BitVec.ofNat 32 (recField x 20 4)
def recPlace (x : BitVec 512) : BitVec 48 := BitVec.ofNat 48 (recField x 24 6)
def recFlags (x : BitVec 512) : Nat := recField x 30 1
def recPrio (x : BitVec 512) : Nat := recField x 31 1
def recDepCtr (x : BitVec 512) : Word := BitVec.ofNat 64 (recField x 32 8)
def recDepTgt (x : BitVec 512) : Nat := recField x 40 6
def recDoneInc (x : BitVec 512) : Nat := recField x 46 2
def recDoneCtr (x : BitVec 512) : Word := BitVec.ofNat 64 (recField x 48 8)
def recClaim (x : BitVec 512) : Word := BitVec.ofNat 64 (recField x 56 8)

/-- A valid record (R343). -/
def recordOk (x : BitVec 512) : Bool :=
  (recEntry x).toNat % 4 == 0 && partValid (recPart x) && recPlace x != 0 && decide (recFlags x < 16 ∧ recPrio x < 4)
    && (recDepCtr x).toNat % 8 == 0 && (recDoneCtr x).toNat % 16 == 0 && (recClaim x).toNat % 16 == 0

/-! ## Spans by place mask (R342, R349) -/

/-- Pool units that a partition takes (R20). -/
def partUnits (p : BitVec 32) : Nat := 4 * (partNctx p + partNtile p)

/-- The Spans of a package that a placement mask names, by peer and Span. -/
def maskSpans (node : Nat) (place : BitVec 48) : List (Nat × Nat) :=
  (List.range 48).flatMap fun b =>
    if place.getLsbD b then (List.range 16).map fun k => (4 * node + b / 12, 16 * (b % 12) + k) else []

/-- The named Spans whose pool holds the partition (R23, R344). -/
def fitSpans (s : State) (node : Nat) (place : BitVec 48) (part : BitVec 32) : List (Nat × Nat) :=
  (maskSpans node place).filter fun x => decide (partUnits part ≤ (spanOf s x.1 x.2).poolcap)

/-- The lowest compute die that a mask names. -/
def coordinator (place : BitVec 48) : Nat := (((List.range 48).find? (place.getLsbD ·)).getD 0) / 12

/-! ## Requests of the device's own engines -/

/-- An access under an erased key slot that no instruction makes is a fault at its target, which ends the context (R200, R402,
log 42). -/
def erasedFault (peer : Nat) (ctx : BitVec 16) (p : Phys) (s : State) : State :=
  fatalContext .targetFault peer ctx none p.fpa s

/-- An atomic by an engine of a die under a context, at a location resolved before; where it fails at its target, or there, the
context ends (R97, R201, R322, R402). -/
def engineAtomic (peer : Nat) (ctx : BitVec 16) (p : Phys) (op : AtomicOp) (v : Word) (s : State) : State :=
  if keyErased s p.key p.fpa then erasedFault peer ctx p s
  else
    match targetFault s .atomic peer false ctx p.fpa (atomicSize op) with
    | some c => fatalContext c peer ctx none p.fpa s
    | none =>
      match atomicAt op v p s with
      | (.ok _, s') => s'
      | (.error c, s') => fatalContext c peer ctx none p.fpa s'

/-- The status bits and the counter of a launch that completes (R354, R355). -/
def reportLaunch (peer : Nat) (l : Launch) (status : Nat) (s : State) : State :=
  match l.done with
  | none => s
  | some p =>
    let s1 := engineAtomic peer l.ctx.ctxid ⟨p.fpa + 8, p.key⟩ .or (BitVec.ofNat 64 status) s
    engineAtomic peer l.ctx.ctxid p .add (BitVec.ofNat 64 l.doneInc) s1

/-! ## `launch` (R344) -/

/-- A `claimt` holds a word that the report of a launch touches: the report waits for it (R360). -/
def reportWaits (s : State) (l : Launch) : Bool :=
  match l.done with
  | none => false
  | some p => (dieOf s (fpaPeer p.fpa)).claims.any fun x => decide (p.fpa < x.1 + 16 ∧ x.1 < p.fpa + 16)

/-- What a launch copies from its issuer (R369, R390, R393). -/
def launchCtx (k : KernelCsrs) : LaunchCtx where
  ctxid := k.ctxid
  ktvec := k.ktvec
  ptbr := k.ptbr
  keysel := k.keysel
  kprio := k.kprio
  kplace := k.kplace
  kvqbase := k.kvqbase
  ktenant := k.ktenant

/-- The location of a checked address, or none for address 0. -/
def physOf (check : Word → Op Ref) (va : Word) : Op (Option Phys) := do
  if va = 0 then pure none
  else do
    let r ← check va
    pure (some ⟨r.fpa, r.key⟩)

/-- CLAIM is checked as a 16-byte write, then for its sync page. -/
def checkClaimReset (va : Word) : Op Ref := do
  let t ← read (·.thr)
  let r ← access .store t.k.km 16 va
  let sync ← onSyncPage va
  require (sync = true) (.trap (causeCode .order) va)
  pure r

/-- The lowest free entry of a queue of a die (R345, R346). -/
def freeEntry (d : Die) (prio : Nat) : Option Nat :=
  ((List.range 256).map (prio * 256 + ·)).find? fun i => (nget d.queue i).isNone

/-- The acceptance number after one (R345). -/
def nextGen (g : Nat) : Nat := if g + 1 < 2 ^ 48 then g + 1 else 1

/-- `launch` (R344). -/
noncomputable def execLaunch (rd ra : BitVec 7) (s : State) : Outcome State Fault Refusal :=
  scalarOp (.launch rd ra) (dstS rd && srcS ra) (do
    let a ← readS ra
    roomFor rd
    let x ← loadRecord a
    let t ← read (·.thr)
    require (recordOk x = true) (.trap (causeCode .illegalOperand) (wordVal (.launch rd ra)))
    let dep ← physOf (access .load t.k.km 8) (recDepCtr x)
    let done ← physOf (access .store t.k.km 16) (recDoneCtr x)
    let claim ← physOf checkClaimReset (recClaim x)
    let place := recPlace x &&& t.k.kplace
    waitOlder ⟨true, true, false, false⟩ 3 t.issued
    let node ← read myNode
    let prio := min (recPrio x) t.k.kprio.toNat
    let tpsm := recFlags x / 2 % 8
    let gang := recFlags x % 2 == 1
    let fit ← read fun s => (fitSpans s node place (recPart x)).length
    let peer := 4 * node + coordinator place
    let d ← read (dieOf · peer)
    let order ← read (·.fresh)
    let l : Launch := {
      gen := d.accepted, order := order, prio := prio, entry := recEntry x, arg := recArg x, threads := recThreads x, part := recPart x,
      place := place, gang := gang, tpsm := tpsm, dep := dep, depTarget := recDepTgt x, doneInc := recDoneInc x,
      done := done, claim := claim, ctx := launchCtx t.k, held := dep.isSome, next := 0, live := [], saved := [],
      chosen := [], cancelled := false, failed := false, stopped := false }
    if fit = 0 ∨ (gang ∧ (tpsm + 1) * fit < recThreads x) then do
      require ((← read (reportWaits · l)) = false) (.wait .other)
      writeS rd 0
      update (reportLaunch peer l 8)
    else do
      let i ← orStop (freeEntry d prio) (.wait .other)
      update fun s => modDie peer (fun d => { d with queue := nset d.queue i l, accepted := nextGen d.accepted })
        { s with fresh := s.fresh + 1 }
      writeS rd (handleOf i (peer % 4) l.gen)) s

/-! ## Readiness (R347) -/

/-- A list in rising order, elements that are alike in the order they had. -/
def placeIn {α : Type} (le : α → α → Bool) (x : α) : List α → List α
  | [] => [x]
  | y :: ys => if le x y then x :: y :: ys else y :: placeIn le x ys
def inOrder {α : Type} (le : α → α → Bool) : List α → List α
  | [] => []
  | x :: xs => placeIn le x (inOrder le xs)

/-- The read of an entry's counter at its home faults: its key slot is erased (R402). -/
def dependenceErased (s : State) (l : Launch) : Option Phys := l.dep.filter fun p => keyErased s p.key p.fpa

/-- DEPENDENCE_MET: the counter, read at its home, has reached the target. -/
def dependenceMet (s : State) (l : Launch) : Bool :=
  match l.dep with
  | some p => decide (l.depTarget ≤ memRead s p.key p.fpa 8)
  | none => true

/-- `DEPENDENCE_MET` (R347). -/
def execDependenceMet (peer entry : Nat) (s : State) : Outcome State Fault Refusal :=
  finish (do
    let l ← orStop (← read fun s => nget (dieOf s peer).queue entry) .absent
    enabled ((l.held && ! l.stopped) = true)
    match ← read (dependenceErased · l) with
    | some p => update (erasedFault peer l.ctx.ctxid p)
    | none => do
      let ok ← read (dependenceMet · l)
      enabled (ok = true)
      update (modDie peer fun d => { d with queue := nset d.queue entry { l with held := false } })) s

/-! ## Placement (R348, R349) -/

/-- The handle of an entry. -/
def entryHandle (peer entry : Nat) (l : Launch) : Word := handleOf entry (peer % 4) l.gen

/-- An open entry of a package: its coordinator, its number there, and the entry. -/
structure PackageEntry where
  peer : Nat
  entry : Nat
  l : Launch
  deriving DecidableEq, Repr

def PackageEntry.handle (e : PackageEntry) : Word := entryHandle e.peer e.entry e.l

/-- The entries of a package that are READY, ACTIVE or FULL, in the order in which they are considered: by priority, then by
acceptance (R348; over the coordinators log 44). -/
def packageEntries (s : State) (node : Nat) : List PackageEntry :=
  inOrder (fun a b => decide (b.l.prio < a.l.prio) || (a.l.prio == b.l.prio && decide (a.l.order ≤ b.l.order)))
    ((List.range 4).flatMap fun d => (dieOf s (4 * node + d)).queue.filterMap fun e =>
      if e.2.held || e.2.stopped then none else some ⟨4 * node + d, e.1, e.2⟩)

/-- A launch occupies a Span. -/
def occupies (s : State) (h : Word) (x : Nat × Nat) : Bool := (spanOf s x.1 x.2).launch.map (·.1) == some h

/-- All Spans of a launch. -/
def spansOf (s : State) (node : Nat) (h : Word) : List (Nat × Nat) :=
  ((s.spans.map fun e => (e.1 / 256, e.1 % 256)).filter fun x => x.1 / 4 == node).filter (occupies s h)

/-- Threads that run on a Span. -/
def spanThreads (s : State) (peer span : Nat) : List Thread :=
  (allThreads s).filter fun t => t.status == .running && ! t.host && t.place.peer == peer && t.place.span == span

/-- A launch has chosen a Span and has not reached it yet. -/
def chooses (l : Launch) (x : Nat × Nat) : Bool := l.chosen.any fun c => c.peer == x.1 && c.span == x.2

/-- Some entry of the package has chosen a Span. -/
def isChosen (s : State) (x : Nat × Nat) : Bool :=
  (List.range 4).any fun d => (dieOf s (x.1 / 4 * 4 + d)).queue.any fun e => chooses e.2 x

/-- A die whose Spans dispatch may use at all: it is locked and not excluded (R34, R398). -/
def dieUsable (s : State) (peer : Nat) : Bool := (dieOf s peer).locked && ! (dieOf s peer).excluded

/-- A free Span: no launch occupies it and none has chosen it. -/
def isFree (s : State) (x : Nat × Nat) : Bool :=
  dieUsable s x.1 && (spanOf s x.1 x.2).launch.isNone && ! isChosen s x

/-- The threads of a save group (R382) in ascending index. -/
def groupThreads (l : Launch) (g : Nat) : List SavedThread :=
  inOrder (fun a b => decide (a.tid.toNat ≤ b.tid.toNat)) (l.saved.filter (·.group == g))

/-- The save groups of an entry that wait for a Span, in the order of their lowest indices (R348): a group that has not left its
Span yet waits for that, and one that has a Span chosen waits no more. -/
def savedGroups (s : State) (e : PackageEntry) : List Nat :=
  let gs := (inOrder (fun (a b : SavedThread) => decide (a.tid.toNat ≤ b.tid.toNat)) e.l.saved).foldl
    (fun (gs : List Nat) x => if gs.contains x.group then gs else gs ++ [x.group]) []
  gs.filter fun g => ! (e.l.chosen.any fun c => c.group == some g)
    && ! (spansOf s (e.peer / 4) e.handle).any fun x => (spanOf s x.1 x.2).group == g

/-- A Span may take a save group: its pool is no smaller than that of the Span the group left, and it lies on the same die
where a thread of the group is bound to it (R353, R382). -/
def groupFits (s : State) (l : Launch) (g : Nat) (x : Nat × Nat) : Bool :=
  (groupThreads l g).all fun t => decide (t.poolcap ≤ (spanOf s x.1 x.2).poolcap) && (! t.bound || x.1 == t.peer)

/-- A Span chosen now. -/
def chosenNow (s : State) (group : Option Nat) (x : Nat × Nat) : Chosen := { peer := x.1, span := x.2, group := group, since := s.time }

/-- Different Spans for all groups of a list; none where there is no such choice. -/
def matchGroups (s : State) (l : Launch) : List Nat → List (Nat × Nat) → Option (List Chosen)
  | [], _ => some []
  | g :: gs, spans => spans.findSome? fun x =>
    if groupFits s l g x then (matchGroups s l gs (spans.filter (· != x))).map fun rest => chosenNow s (some g) x :: rest
    else none

/-- Threads per Span. -/
def perSpan (l : Launch) : Nat := l.tpsm + 1

/-- Spans that a GANG entry with no thread placed needs. -/
def gangSpans (l : Launch) : Nat := (l.threads + perSpan l - 1) / perSpan l

/-- New threads that a Span of an entry can still take: on one that is being restored, its save group comes first. -/
def spanFree (s : State) (e : PackageEntry) (x : Nat × Nat) : Nat :=
  if (spanOf s x.1 x.2).preempted.isSome then 0
  else perSpan e.l - ((spanThreads s x.1 x.2).length + (groupThreads e.l (spanOf s x.1 x.2).group).length)

/-- New threads that the Spans of an entry can still take: those chosen for new threads, and those that it runs on. -/
def spanRoom (s : State) (e : PackageEntry) : Nat :=
  (e.l.chosen.filter fun c => c.group.isNone && ! occupies s e.handle (c.peer, c.span)).length * perSpan e.l
    + ((spansOf s (e.peer / 4) e.handle).map (spanFree s e)).sum

/-- A GANG entry that waits for Spans. -/
def gangWaits (l : Launch) : Bool :=
  l.gang && l.chosen == [] && l.live == [] && (l.saved != [] || (l.next == 0 && l.threads != 0))

/-- The Span that a STREAM entry would choose for its saved threads: for the first of its groups that fits one. -/
def savedChoice (s : State) (e : PackageEntry) (spans : List (Nat × Nat)) : Option (List Chosen) :=
  (savedGroups s e).findSome? fun g => (spans.find? (groupFits s e.l g)).map fun x => [chosenNow s (some g) x]

/-- A STREAM entry has more undispatched threads than its Spans can take. -/
def wantsSpan (s : State) (e : PackageEntry) : Bool := decide (spanRoom s e < e.l.threads - e.l.next)

/-- What an entry would choose among Spans: for its saved threads first, for undispatched ones where no saved group fits. A GANG entry
chooses all at once or nothing. -/
def wouldChoose (s : State) (e : PackageEntry) (spans : List (Nat × Nat)) : Option (List Chosen) :=
  if e.l.gang then
    if gangWaits e.l = false then none
    else if e.l.saved ≠ [] then matchGroups s e.l (savedGroups s e) spans
    else if gangSpans e.l ≤ spans.length then some ((spans.take (gangSpans e.l)).map (chosenNow s none))
    else none
  else (savedChoice s e spans).orElse fun _ =>
    if wantsSpan s e then spans.head?.map fun x => [chosenNow s none x] else none

/-- A GANG entry that cannot be placed in full, and the Spans that it reserves (R348). -/
structure Reservation where
  handle : Word
  peer : Nat
  prio : Nat
  spans : List (Nat × Nat)
  deriving DecidableEq, Repr

/-- A Span is reserved to another entry of the priority of an entry or a higher one. -/
def reservedFrom (rs : List Reservation) (e : PackageEntry) (x : Nat × Nat) : Bool :=
  rs.any fun r => r.handle != e.handle && decide (e.l.prio ≤ r.prio) && r.spans.contains x

/-- The free Spans of an entry's mask that fit it and that no reservation keeps from it. -/
def openBut (s : State) (rs : List Reservation) (e : PackageEntry) : List (Nat × Nat) :=
  (fitSpans s (e.peer / 4) e.l.place e.l.part).filter fun x => isFree s x && ! reservedFrom rs e x

/-- The reservations of a package: the oldest GANG entry of each priority of a coordinator that cannot be placed in full takes
every Span of its mask that an earlier one has not taken. -/
def reservations (s : State) (node : Nat) : List Reservation :=
  (packageEntries s node).foldl (fun rs e =>
    if gangWaits e.l && ! (rs.any fun r => r.peer == e.peer && r.prio == e.l.prio)
        && (wouldChoose s e (openBut s rs e)).isNone then
      rs ++ [⟨e.handle, e.peer, e.l.prio, (maskSpans node e.l.place).filter fun x => ! rs.any fun r => r.spans.contains x⟩]
    else rs) []

/-- The Spans that an entry may take now. -/
def openSpans (s : State) (e : PackageEntry) : List (Nat × Nat) := openBut s (reservations s (e.peer / 4)) e

/-- What the package places next: the first entry that can choose. -/
def nextPlacement (s : State) (node : Nat) : Option (PackageEntry × List Chosen) :=
  (packageEntries s node).findSome? fun e => (wouldChoose s e (openSpans s e)).map fun c => (e, c)

/-! ## Pre-emption (R33, R352) -/

/-- The launch that occupies a Span. -/
def occupant (s : State) (x : Nat × Nat) : Option Launch := (spanOf s x.1 x.2).launch.bind fun o => launchOf s (x.1 / 4) o.1

/-- a comes before b in the order of victims. -/
def victimBefore (a b : (Nat × Nat) × Launch) : Bool :=
  if a.2.prio ≠ b.2.prio then decide (a.2.prio < b.2.prio)
  else if a.2.gang ≠ b.2.gang then ! a.2.gang
  else if a.2.order ≠ b.2.order then decide (b.2.order < a.2.order)
  else decide (spanKey b.1.1 b.1.2 ≤ spanKey a.1.1 a.1.2)

/-- The Spans of an entry's mask that it may have pre-empted, in the order of victims. -/
def victims (s : State) (e : PackageEntry) : List ((Nat × Nat) × Launch) :=
  inOrder victimBefore ((fitSpans s (e.peer / 4) e.l.place e.l.part).filterMap fun x =>
    (occupant s x).bind fun v =>
      if v.prio + 2 ≤ e.l.prio ∧ (spanOf s x.1 x.2).preempted.isNone ∧ spanThreads s x.1 x.2 ≠ [] then some (x, v) else none)

/-- The Spans that are pre-empted together: one of a STREAM launch, all of a GANG launch. -/
def victimUnit (s : State) (x : Nat × Nat) : List (Nat × Nat) :=
  match occupant s x with
  | some v => if v.gang then spansOf s (x.1 / 4) (((spanOf s x.1 x.2).launch.map (·.1)).getD 0) else [x]
  | none => [x]

/-- The units of an entry's victims in their order, each once. -/
def victimUnits (s : State) (e : PackageEntry) : List (List (Nat × Nat)) :=
  (victims s e).foldl (fun us x => if us.any (·.contains x.1) then us else us ++ [victimUnit s x.1]) []

/-- The first choice of units with n Spans together that is enough. -/
def pickUnits (enough : List (Nat × Nat) → Bool) : List (List (Nat × Nat)) → Nat → List (Nat × Nat) → Option (List (Nat × Nat))
  | [], n, got => if n = 0 ∧ enough got then some got else none
  | u :: us, n, got =>
    if n = 0 then (if enough got then some got else none)
    else if u.length ≤ n then (pickUnits enough us (n - u.length) (got ++ u)).orElse fun _ => pickUnits enough us n got
    else pickUnits enough us n got

/-- An entry waits for a Span. -/
def waitsForSpan (s : State) (e : PackageEntry) : Bool :=
  if e.l.gang then gangWaits e.l else savedGroups s e != [] || wantsSpan s e

/-- A Span is being pre-empted, and comes to an entry: no other entry for which it is being pre-empted still waits. -/
def comesTo (s : State) (e : PackageEntry) (x : Nat × Nat) : Bool :=
  let y := spanOf s x.1 x.2
  y.preempted.isSome && (y.claimant == some e.handle ||
    ! (packageEntries s (x.1 / 4)).any fun f => y.claimant == some f.handle && waitsForSpan s f)

/-- An entry could be placed with some Spans besides those that it may take and those already being pre-empted that come to it. -/
def placeableWith (s : State) (e : PackageEntry) (got : List (Nat × Nat)) : Bool :=
  let rs := reservations s (e.peer / 4)
  let fit := fitSpans s (e.peer / 4) e.l.place e.l.part
  (wouldChoose s e (openBut s rs e ++ fit.filter fun x =>
    ! reservedFrom rs e x && (got.contains x || comesTo s e x))).isSome

/-- The fewest Spans whose pre-emption lets an entry be placed (R352). -/
def fewestVictims (s : State) (e : PackageEntry) : Option (List (Nat × Nat)) :=
  let us := victimUnits s e
  if placeableWith s e [] then none
  else (List.range (us.map (·.length)).sum).findSome? fun n => pickUnits (placeableWith s e) us (n + 1) []

/-- The Spans that a coordinator pre-empts next, and for which of its entries: the first that can be placed only so. -/
def nextVictims (s : State) (peer : Nat) : Option (Word × List (Nat × Nat)) :=
  ((packageEntries s (peer / 4)).filter fun e => e.peer == peer && decide (2 ≤ e.l.prio)).findSome? fun e =>
    (fewestVictims s e).map fun v => (e.handle, v)

/-- A pre-empted launch gives up what it has chosen and not reached: a STREAM launch the Span, a GANG launch every one. -/
def dropChosen (x : Nat × Nat) (l : Launch) : Launch :=
  { l with chosen := if l.gang then [] else l.chosen.filter fun c => ! (c.peer == x.1 && c.span == x.2) }

/-- The pre-empt request for an entry reaches every thread of a Span; a Span with none is free at once. -/
def requestPreempt (h : Word) (x : Nat × Nat) (s : State) : State :=
  let s1 := match (spanOf s x.1 x.2).launch with
    | some o => modLaunch (x.1 / 4) o.1 (dropChosen x) s
    | none => s
  let s2 := modThreads (fun t => t.status == .running && ! t.host && t.place.peer == x.1 && t.place.span == x.2)
    (fun t => { t with k := { t.k with ip0 := true } })
    (modSpan x.1 x.2 (fun y => { y with preempted := some s.time, claimant := some h }) s1)
  freeSpan x.1 x.2 s2

/-- `PLACEMENT` (R348, R352): the coordinator of a die chooses Spans for the package's next entry, or else requests
pre-emption. -/
def execPlacement (peer : Nat) (s : State) : Outcome State Fault Refusal :=
  finish (do
    match ← read (nextPlacement · (peer / 4)) with
    | some (e, c) => do
      enabled (e.peer = peer)
      update (modDie peer fun d => { d with queue := nset d.queue e.entry { e.l with chosen := e.l.chosen ++ c } })
    | none => do
      let v ← orStop (← read (nextVictims · peer)) .absent
      update fun s => v.2.foldl (fun u x => requestPreempt v.1 x u) s) s

/-! ## Span starts (R34, R35, R351) -/

/-- The entry of a package that has chosen a Span. -/
def chooser (s : State) (x : Nat × Nat) : Option PackageEntry :=
  (List.range 4).findSome? fun d =>
    let peer := x.1 / 4 * 4 + d
    ((dieOf s peer).queue.find? fun e => chooses e.2 x).map fun e => ⟨peer, e.1, e.2⟩

/-- The tick of the choice of a Span by an entry. -/
def chosenSince (e : PackageEntry) (x : Nat × Nat) : Nat :=
  ((e.l.chosen.find? fun c => c.peer == x.1 && c.span == x.2).map (·.since)).getD 0

/-- The Pier of a Span may start one now: Pier n no sooner than 5n ns after a ramp of its die began, and 20 ns after its last start
(R35, R351). -/
def pierReady (s : State) (x : Nat × Nat) : Bool :=
  dieUsable s x.1 && ! (dieOf s x.1).idle
    && (match (dieOf s x.1).ramp with | some r => decide (r + 5 * (x.2 / 16) ≤ s.time) | none => true)
    && (match nget (dieOf s x.1).pierStart (x.2 / 16) with | some t => decide (t + 20 ≤ s.time) | none => true)

/-- The controller may start a chosen Span now: for Pier n no sooner than 5n ns after the choice (R351). -/
def mayStart (s : State) (x : Nat × Nat) : Bool :=
  (spanOf s x.1 x.2).launch.isNone && pierReady s x
    && (match chooser s x with | some e => decide (chosenSince e x + 5 * (x.2 / 16) ≤ s.time) | none => false)

/-- A Span whose clock does not run: never started, or stopped with its die. -/
def atRest (x : Span) : Bool := ! x.started || x.stopped

/-- The controller may start a Span now as its die starts, or returns from a capped idle state (R34, R35): one that none has
chosen. -/
def mayRamp (s : State) (x : Nat × Nat) : Bool :=
  atRest (spanOf s x.1 x.2) && ! isChosen s x && pierReady s x && (dieOf s x.1).ramp.isSome

/-- The first Span of each Pier of a die that its ramp has still to start. -/
def rampSpans (s : State) (peer : Nat) : List Nat :=
  if (dieOf s peer).ramp = none then []
  else (List.range 12).filterMap fun p =>
    ((List.range 16).map (16 * p + ·)).find? fun k => atRest (spanOf s peer k) && ! isChosen s (peer, k)

/-- The Span begins an occupancy by a launch, for new threads or for a save group: every tile Z, an L1 with nothing from before, and
scratchpad contents that are not defined (R225, R248, R350, log 8). DESIGN CHOICE (log 74): R81 has the device clear a pool unit or a B-store sector and does not
say when; here that happens at package reset, and the descriptors of the scratchpad and the B-store stay across a Span start. -/
def beginSpan (h : Word) (part : BitVec 32) (stamp : Nat) (group : Option Nat) (x : Span) : Span :=
  { x with launch := some (h, part), tiles := [], waiters := [], preempted := none, claimant := none, led := false,
           group := group.getD stamp, l1 := [], fills := [], pad := { stamp := stamp, cells := [] } }

/-- The clock of a Span starts (R35): its Pier waits 20 ns for the next. -/
def clockStarts (peer span : Nat) (s : State) : State :=
  modSpan peer span (fun x => { x with started := true, stopped := false, rate := (dieOf s peer).clock })
    (modDie peer (fun d => { d with pierStart := nset d.pierStart (span / 16) s.time }) s)

/-- A Span that fails its self-test at its first start has no usable unit; the failure is logged (R398). -/
def failSelfTest (peer span : Nat) (s : State) : State :=
  logEvent (peer / 4) .boot peer [3, span] (modSpan peer span (fun x => { x with poolcap := 0 }) (clockStarts peer span s))

/-- A choice that has failed: a GANG entry chooses anew, and the Spans that it had begun are free again (R349). -/
def unchoose (e : PackageEntry) (x : Nat × Nat) (s : State) : State :=
  let s1 := modDie e.peer (fun d => { d with queue := nset d.queue e.entry (dropChosen x e.l) }) s
  if e.l.gang then (spansOf s1 (e.peer / 4) e.handle).foldl (fun u y => freeSpan y.1 y.2 u) s1 else s1

/-- A host core as the host operating system starts: in kernel mode, with the pc and the device state
that system firmware left (R34, R392, R393, log 13). -/
def startedHost (node core : Nat) : Thread :=
  let t := hostCore node core
  let r (c : Nat) : Word := Config.hostStart node core c
  { t with
    status := .running
    pc := r 0 &&& ~~~ 3#64
    k := { t.k with
      km := true, ktvec := r 0x804 &&& ~~~ 3#64, ptbr := r 0x807 &&& 0x01FFFFFFFFFF0000, ctxid := (r 0x808).setWidth 16,
      keysel := (r 0x809).setWidth 3, kprio := (r 0x810).setWidth 2, kplace := (r 0x811).setWidth 48,
      kvqbase := r 0x812 &&& ~~~ 0x1FFF#64, ktenant := (r 0x813).setWidth 4 } }

/-- Every die of a package has all its Spans started or is excluded. -/
def rampsDone (s : State) (node : Nat) : Bool :=
  (List.range 4).all fun d =>
    (dieOf s (4 * node + d)).excluded || (List.range 192).all fun k => (spanOf s (4 * node + d) k).started

/-- The host operating system starts once, when the Span starts are done (R34). -/
def startHosts (node : Nat) (s : State) : State :=
  if (pkgOf s node).hostUp || ! rampsDone s node then s
  else modPkg node (fun p => { p with hostUp := true })
    { s with others := s.others ++ (List.range Config.hostCores).map (startedHost node) }

/-- A ramp ends with the last Span of its die. -/
def endRamp (peer : Nat) (s : State) : State :=
  if (List.range 192).any fun k => atRest (spanOf s peer k) then s
  else startHosts (peer / 4) (modDie peer (fun d => { d with ramp := none }) s)

/-- `SPAN_START` (R34, R35, R351): of a Span chosen by a placement, or of the next of a die's ramp. -/
def execSpanStart (peer span : Nat) (s : State) : Outcome State Fault Refusal :=
  finish (do
    let x := (peer, span)
    let place ← read (mayStart · x)
    let ramp ← read (mayRamp · x)
    enabled ((place || ramp) = true ∧ span < 192)
    let who ← read (chooser · x)
    let bad ← read fun s => ! (spanOf s peer span).started && s.turn.fails != []
    update fun s =>
      match who with
      | none => if bad then failSelfTest peer span s else clockStarts peer span s
      | some e =>
        if bad then failSelfTest peer span (unchoose e x s)
        else
          let g := (e.l.chosen.find? fun c => c.peer == peer && c.span == span).bind (·.group)
          modSpan peer span (beginSpan e.handle e.l.part (s.fresh + 1) g) { clockStarts peer span s with fresh := s.fresh + 1 }
    update (endRamp peer)) s

/-! ## Dispatch (R110, R349, R350) -/

/-- The lowest free slot of a Span. -/
def freeSlot (s : State) (peer span : Nat) : Option Nat :=
  (List.range 8).find? fun k => (threadAt s ⟨peer, span, k⟩).isNone

/-- A thread as dispatch makes it (R70, R110, R350, R369, R371, R390). -/
def dispatched (p : Place) (h : Word) (l : Launch) (tid : Nat) : Thread :=
  let t := Thread.reset p
  { t with
    status := .running
    pc := l.entry
    sc := { t.sc with globals := vset (vset t.sc.globals 3 l.arg) 4 (BitVec.ofNat 64 tid) }
    u := { t.u with tid := BitVec.ofNat 64 tid, nthr := BitVec.ofNat 64 l.threads, lid := h, arg := l.arg, part := l.part }
    k := { t.k with
      ctxid := l.ctx.ctxid, ktvec := l.ctx.ktvec, ptbr := l.ctx.ptbr, keysel := l.ctx.keysel, kprio := l.ctx.kprio,
      kplace := l.ctx.kplace, kvqbase := l.ctx.kvqbase, ktenant := l.ctx.ktenant, kvq := vqBlock l.ctx.kvqbase p } }

/-- Every Span that an entry has chosen has started for it. -/
def allStarted (s : State) (e : PackageEntry) : Bool := e.l.chosen.all fun c => occupies s e.handle (c.peer, c.span)

/-- Where an entry dispatches next, as the thread indices and their Spans: of a GANG entry all threads together, TPSM + 1 on each
Span except possibly the last, once all its Spans have started; of a STREAM entry one thread, on a Span that has started for it
and has room. -/
def dispatchPlan (s : State) (e : PackageEntry) : List (Nat × (Nat × Nat)) :=
  if e.l.gang then
    if e.l.next = 0 ∧ e.l.chosen ≠ [] ∧ allStarted s e then
      (List.range e.l.threads).filterMap fun i => e.l.chosen[i / perSpan e.l]?.map fun c => (i, (c.peer, c.span))
    else []
  else ((spansOf s (e.peer / 4) e.handle).find? fun x => decide (0 < spanFree s e x)).toList.map fun x => (e.l.next, x)

/-- The entry can dispatch: saved threads that fit a Span come first (R348). -/
def canDispatch (s : State) (e : PackageEntry) : Bool :=
  ! e.l.held && ! e.l.stopped && decide (e.l.next < e.l.threads) && (savedChoice s e (openSpans s e)).isNone
    && dispatchPlan s e != []

/-- Puts a thread into its slot. The instruction cache of its Span holds nothing from before (R38). -/
def placeThread (t : Thread) (s : State) : State :=
  let s1 := modSpan t.place.peer t.place.span (fun x =>
    { x with icache := [], owners := vset x.owners t.place.slot (some (threadId t)) }) s
  if s.thr.status = .running then { s1 with others := s.others.filter (·.status == .running) ++ [t] }
  else { s1 with thr := t, others := s.others.filter (·.status == .running) }

/-- Removes the copies that an acquire at pod scope on a Span removes, fills in flight included (R189). -/
def acquireSpan (peer span : Nat) (s : State) : State :=
  modDie peer (fun d => { d with window := [], winFills := [] }) (modSpan peer span (fun x => { x with l1 := [], fills := [] })
    (keepNoLines false (fun x => x.place.peer == peer && ! isHostPlace x.place) s))

/-- The claim word whose `next` has to be 0 before the first thread starts. -/
def claimToReset (l : Launch) : Option Phys := if l.next = 0 then l.claim else none

/-- Dispatches one thread on the lowest free slot of a Span; the satisfying read of a dependence is an acquire for it
(R347, R350). -/
def dispatchOne (e : PackageEntry) (i : Nat) (x : Nat × Nat) (s : State) : State :=
  match freeSlot s x.1 x.2 with
  | some slot =>
    placeThread (dispatched ⟨x.1, x.2, slot⟩ e.handle e.l i) (if e.l.dep.isSome then acquireSpan x.1 x.2 s else s)
  | none => s

/-- A STREAM entry all of whose threads are dispatched gives up the Spans that it chose for new ones, and those that started for it
and run none: they are free (R349). -/
def giveUp (peer entry : Nat) (s : State) : State :=
  match nget (dieOf s peer).queue entry with
  | some l =>
    if l.gang ∨ l.next < l.threads then s
    else
      let h := entryHandle peer entry l
      let rest := l.chosen.filter fun c => c.group.isSome
      ((spansOf s (peer / 4) h).filter fun x => ! rest.any fun c => (c.peer, c.span) == x).foldl (fun u x => freeSpan x.1 x.2 u)
        (modDie peer (fun d => { d with queue := nset d.queue entry { l with chosen := rest } }) s)
  | none => s

/-- `DISPATCH` (R350): under an erased key slot of its claim word the context ends instead (R402). -/
def execDispatch (peer entry : Nat) (s : State) : Outcome State Fault Refusal :=
  finish (do
    let l ← orStop (← read fun s => nget (dieOf s peer).queue entry) .absent
    let e : PackageEntry := ⟨peer, entry, l⟩
    enabled ((← read fun s => canDispatch s e) = true)
    match ← read fun s => (claimToReset l).filter fun p => keyErased s p.key p.fpa with
    | some p => update (erasedFault peer l.ctx.ctxid p)
    | none => do
      update fun s => match claimToReset l with | some p => memWrite p.key p.fpa 8 0 s | none => s
      let plan ← read (dispatchPlan · e)
      update fun s => plan.foldl (fun u x => dispatchOne e x.1 x.2 u) s
      update (modDie peer fun d => { d with queue := nset d.queue entry { l with
        next := l.next + plan.length
        live := l.live ++ plan.map fun x => BitVec.ofNat 64 x.1
        chosen := l.chosen.filter fun c => ! plan.any fun x => x.2 == (c.peer, c.span) } })
      update (giveUp peer entry)) s

/-! ## Restoring (R353, R386) -/

/-- Registers of a restored thread before its `ctxrest` are undefined: free values, each of a kind that its register can
hold (log 17). -/
def undefinedThread (n : Nat) (t : Thread) : Thread :=
  let r (k : Nat) : Word := Config.restored n k
  let vt : BitVec 9 := if vtypeOk ((r 600).setWidth 9) then (r 600).setWidth 9 else 0x003
  let vmax := vlmaxOf false (vtSew vt)
  { t with
    sc := { t.sc with
      globals := Vector.ofFn fun (i : Fin 8) => if i.val = 0 then 0 else r i.val
      win := Vector.ofFn fun (i : Fin 448) => r (8 + i.val)
      wb := 16 * ((r 601).toNat % 22) }
    shp := Vector.ofFn fun (i : Fin 16) =>
      BitVec.ofNat 512 (((List.range 8).map fun j => (r (700 + 8 * i.val + j)).toNat * 2 ^ (64 * j)).sum)
    u := { t.u with
      vl := BitVec.ofNat 11 ((r 602).toNat % (vmax + 1))
      vtype := vt
      vstart := BitVec.ofNat 11 ((r 603).toNat % (vmax + 1))
      rep := (r 604).setWidth 6
      fflags := (r 605).setWidth 5
      nbctr := r 606 &&& 0x007FFFFFFFFFFFF8
      rthr := (r 607).setWidth 32
      mbth := (r 608).setWidth 7
      mstat := r 609 &&& mstatMask
      li := Vector.ofFn fun (i : Fin 6) => (r (610 + i.val)).setWidth 16
      lctl := (r 616).setWidth 26 }
    ce := { src := r 620, dst := r 621, sh := (r 622).setWidth 8, ctr := r 623, inc := r 624, mode := (r 625).setWidth 3,
            last := r 626, nextId := (r 627).setWidth 16 }
    k := { t.k with
      pkm := (r 630).getLsbD 0, ie := (r 631).getLsbD 0, pie := (r 632).getLsbD 0, vkm := (r 633).getLsbD 0
      pvt := if vtypeOk ((r 634).setWidth 9) then (r 634).setWidth 9 else 0x003
      kepc := r 635 &&& ~~~ 3#64, kscratch := r 636, kbsel := (r 637).setWidth 14 }
    v := { t.v with
      short := Vector.ofFn fun (i : Fin 48) =>
        BitVec.ofNat 256 (((List.range 4).map fun j => (r (1000 + 4 * i.val + j)).toNat * 2 ^ (64 * j)).sum)
      smask := Vector.ofFn fun (i : Fin 12) => (r (1200 + i.val)).setWidth 32 } }

/-- A saved thread as the scheduler dispatches it again (R386). -/
def restoredThread (p : Place) (h : Word) (l : Launch) (x : SavedThread) (n : Nat) : Thread :=
  let t := undefinedThread n (dispatched p h l x.tid.toNat)
  { t with
    pc := l.ctx.ktvec
    issued := x.issued
    k := { t.k with km := true, ne := false, kcause := 0x80, kval := 1, ksave := x.area } }

/-- The Span, the group and the thread that an entry restores next: on a Span that has started for the group and is not
pre-empted; a GANG entry is restored once all its Spans have started. -/
def nextRestore (s : State) (e : PackageEntry) : Option (Chosen × SavedThread) :=
  if e.l.gang ∧ allStarted s e = false then none
  else e.l.chosen.findSome? fun c =>
    c.group.bind fun g =>
      if occupies s e.handle (c.peer, c.span) ∧ (spanOf s c.peer c.span).preempted = none then
        (groupThreads e.l g).head?.map fun t => (c, t)
      else none

/-- `THREAD_RESTORE` (R386): the host message that came while the thread was saved goes with it (R397), and no copy that its new Span or
die holds is older than what it has read (R225). -/
def execThreadRestore (peer entry : Nat) (s : State) : Outcome State Fault Refusal :=
  finish (do
    let l ← orStop (← read fun s => nget (dieOf s peer).queue entry) .absent
    enabled (l.stopped = false)
    let e : PackageEntry := ⟨peer, entry, l⟩
    let (c, t) ← orStop (← read (nextRestore · e)) .absent
    let slot ← orStop (← read fun s => freeSlot s c.peer c.span) .absent
    let p : Place := ⟨c.peer, c.span, slot⟩
    update (modSpan p.peer p.span fun y => { y with hmsg := vset y.hmsg p.slot t.msg })
    update fun s => placeThread (restoredThread p e.handle l t s.fresh) (acquireSpan p.peer p.span { s with fresh := s.fresh + 1 })
    let rest := l.saved.filter fun y => y.tid != t.tid
    update (modDie peer fun d => { d with queue := nset d.queue entry { l with
      saved := rest
      live := l.live ++ [t.tid]
      chosen := l.chosen.filter fun y => y != c || rest.any fun z => c.group == some z.group } })) s

/-- 20 µs have passed since a request. -/
def overdue (s : State) (o : Option Nat) : Bool := match o with | some t => decide (t + 20000 ≤ s.time) | none => false

/-- The threads of a Span that did not halt in time: all of them where the Span is pre-empted, else those that their `yield` had
pre-empted (R358, R387). -/
def overdueThreads (s : State) (peer span : Nat) : List Thread :=
  (spanThreads s peer span).filter fun t => overdue s (spanOf s peer span).preempted || overdue s t.yielded

/-- `VICTIM_TERMINATION` (R387): 20 µs after the request. -/
def execVictimTermination (peer span : Nat) (s : State) : Outcome State Fault Refusal :=
  finish (do
    let gone ← read (overdueThreads · peer span)
    enabled (gone ≠ [])
    update fun s => gone.foldl (fun u t => modLaunch (peer / 4) t.u.lid (fun l => { l with failed := true }) u) s
    update (terminate fun t => gone.any fun g => ! t.host && g.place == t.place)
    update (freeSpan peer span)) s

/-! ## Completion and cancelling (R354 to R356) -/

/-- Every thread has ended, and none is saved or still to come; every access of its threads has performed, those of terminated ones
included (R233, R354). -/
def launchEnds (s : State) (peer entry : Nat) (l : Launch) : Bool :=
  l.live == [] && l.saved == [] && ((decide (l.threads ≤ l.next) && ! l.held) || l.stopped)
    && ! s.packets.any fun p => p.owner.1 == entryHandle peer entry l && p.place.peer / 4 == peer / 4

/-- The status of a launch that completes (R355). -/
def launchStatus (l : Launch) : Nat :=
  (if l.cancelled then 2 else 0) + (if l.failed then 4 else 0) + (if l.cancelled || l.failed then 0 else 1)

/-- `LAUNCH_COMPLETION` (R354). -/
def execLaunchCompletion (peer entry : Nat) (s : State) : Outcome State Fault Refusal :=
  finish (do
    let l ← orStop (← read fun s => nget (dieOf s peer).queue entry) .absent
    enabled ((← read fun s => launchEnds s peer entry l && ! reportWaits s l) = true)
    update (reportLaunch peer l (launchStatus l))
    update fun s => (spansOf s (peer / 4) (entryHandle peer entry l)).foldl (fun u x => freeSpan x.1 x.2 u) s
    update (modDie peer fun d => { d with queue := ndel d.queue entry })) s

/-- The effect of a cancel at its coordinator (R356). -/
def cancelLaunch (node : Nat) (h : Word) (ctx : BitVec 16) (s : State) : State :=
  match launchOf s node h with
  | some l =>
    if l.ctx.ctxid = ctx then
      terminate (fun t => ! t.host && t.place.peer / 4 == node && t.u.lid == h)
        (stopLaunch node h (fun l => { l with cancelled := true }) s)
    else s
  | none => s

/-- `CANCEL_ARRIVAL` (R356): a cancel that a thread of the package issued. -/
def execCancelArrival (handle : Word) (ctx : BitVec 16) (s : State) : Outcome State Fault Refusal :=
  finish (do
    let node ← orStop (← read fun s => (s.pkgs.find? fun p => p.2.cancels.contains (handle, ctx)).map (·.1)) .absent
    update (modPkg node fun p => { p with cancels := p.cancels.erase (handle, ctx) })
    update (cancelLaunch node handle ctx)) s

/-- `cancel` (R356). A thread that names its own live launch does not complete it. -/
noncomputable def execCancel (ra : BitVec 7) (s : State) : Outcome State Fault Refusal :=
  finish (do
    checkWord (.cancel ra) false false (srcS ra)
    let h ← readS ra
    let t ← read (·.thr)
    let c := (h, t.k.ctxid)
    update fun s => modPkg (myNode s) (fun p => { p with cancels := if p.cancels.contains c then p.cancels else p.cancels ++ [c] }) s
    let own ← read fun s => ! t.host && h == t.u.lid && (match launchOf s (myNode s) h with
      | some l => l.ctx.ctxid == t.k.ctxid
      | none => false)
    require (own = false) (.waitKeep .other)
    modThr retire) s

/-! ## `yield` (R358) -/

/-- Some other entry of the same priority at the thread's coordinator is eligible for its Span and finds no Span. -/
def yieldTo (s : State) (own : Word) (l : Launch) : Bool :=
  let me := (myPeer s, s.thr.place.span)
  let peer := 4 * myNode s + handleDie own
  (packageEntries s (myNode s)).any fun e =>
    e.peer == peer && e.l.prio == l.prio && e.handle != own && (fitSpans s (myNode s) e.l.place e.l.part).contains me
      && (wouldChoose s e (openSpans s e)).isNone && (gangWaits e.l || (wouldChoose s e [me]).isSome)

/-- `yield` (R358): a thread of a STREAM launch is then pre-empted, where another entry waits for its Span. -/
noncomputable def execYield (s : State) : Outcome State Fault Refusal :=
  scalarOp .yield true (do
    let t ← read (·.thr)
    let go ← read fun s => match launchOf s (myNode s) t.u.lid with
      | some l => ! l.gang && yieldTo s t.u.lid l
      | none => false
    if go then modThr fun t => { t with yielded := some s.time, k := { t.k with ip0 := true } } else pure ()) s

end Sys2Proof.Machine
end

