-- ==== Sys2Proof/Machine/Routes.lean ====
section
/-! DEFINITION. Where packets and collective messages are on their way (R308 to R318): the inputs of routers, the hops that are
permitted, the tokens that hold them, and the reserves of the Causeway. -/

namespace Sys2Proof.Machine

/-! ## What travels -/

/-- A packet or a collective message on its way: where it is, the peers it goes between, the routers it starts and ends at by
package and die, and whether it is a request. -/
structure Item where
  id : Nat
  route : Route
  src : Nat
  dst : Nat
  fromNode : Nat
  fromDie : Nat
  toNode : Nat
  toDie : Nat
  request : Bool
  deriving DecidableEq, Repr

def isResponse (p : Packet) : Bool := match p.cargo with | .ack _ | .fault _ | .data _ => true | _ => false

/-- A packet between its issuer, at the I/O die where that is a host core, and its home. -/
def packetItem (p : Packet) : Item :=
  let home := fpaPeer p.loc.fpa
  let me := p.place.peer
  if isResponse p then
    { id := p.id, route := p.route, src := home, dst := me, fromNode := home / 4, fromDie := home % 4, toNode := me / 4,
      toDie := placeDie p.place, request := false }
  else
    { id := p.id, route := p.route, src := me, dst := home, fromNode := me / 4, fromDie := placeDie p.place, toNode := home / 4,
      toDie := home % 4, request := true }

/-- A message between two dies; to or from another pod it ends or starts at the I/O die (R338). -/
def messageItem (m : CollMsg) : Item :=
  let out := m.far.isSome && ! m.inbound
  { id := m.id, route := m.route, src := m.src, dst := m.dst,
    fromNode := if m.inbound then m.dst / 4 else m.src / 4, fromDie := if m.inbound then 4 else m.src % 4,
    toNode := if out then m.src / 4 else m.dst / 4, toDie := if out then 4 else m.dst % 4,
    request := m.body != .ack }

/-- A message that is in the fabric: not yet sunk at its receiver, and not sent as frames. -/
def inFabric (m : CollMsg) : Bool := ! m.sunk && m.frames == []

/-- Everything on its way in the pod. -/
def items (s : State) : List Item := s.packets.map packetItem ++ (s.messages.filter inFabric).map messageItem

def itemAt (s : State) (id : Nat) : Option Item := (items s).find? fun x => x.id == id

/-- Something on its way is elsewhere now. -/
def putRoute (id : Nat) (r : Route) (s : State) : State :=
  { s with
    packets := s.packets.map fun p => if p.id = id then { p with route := r } else p
    messages := s.messages.map fun m => if m.id = id then { m with route := r } else m }

/-! ## Inputs (R313) -/

/-- It stands in an input of a router: it is neither between packages nor drained, nor waits at its home. -/
def inInput (x : Item) : Bool := x.route.flight.isNone && ! x.route.drained && ! x.route.waiting

/-- The same input and virtual channel. -/
def sameInput (a b : Route) : Bool := a.node == b.node && a.die == b.die && a.port == b.port && a.vc == b.vc

/-- It is at the head of its input and channel. -/
def isHead (s : State) (x : Item) : Bool :=
  inInput x && ! (items s).any fun y => inInput y && sameInput y.route x.route && decide (y.route.seq < x.route.seq)

/-- It stands at the router of its destination. -/
def atDestination (x : Item) : Bool :=
  x.route.flight.isNone && x.route.node == x.toNode && x.route.die == x.toDie

/-! ## Hops (R309 to R311) -/

/-- The die that it makes for in the package that it is in. -/
def localTarget (x : Item) : Nat := if x.route.node = x.toNode then x.toDie else 4

/-- A token holds it: it travels on the Causeway and is not sunk yet. -/
def heldByToken (s : State) (id : Nat) : Bool :=
  s.podTokens.any (·.held == some id) || s.pkgs.any fun p => p.2.tokens.any (·.held == some id)

/-- The input and channel of a packet is in DRAIN: its suspect is not sunk yet. -/
def inDrain (s : State) (r : Route) : Bool := (items s).any fun y => heldByToken s y.id && sameInput y.route r

/-- A hop that R309 to R311 permit: in a package the direct one, or a detour over one die; between packages any plane, to the
destination or to one package on the way, and then the arrival there. Only the head of an input moves; an input in DRAIN watches no
head. -/
def hopAllowed (s : State) (x : Item) : Hop → Bool
  | .viaduct d =>
    isHead s x && decide (d < 5 ∧ d ≠ x.route.die ∧ x.route.die ≠ localTarget x) && (d == localTarget x || x.route.hops == 0)
  | .plane pl n =>
    isHead s x && x.route.die == 4 && x.route.node != x.toNode && planeUsable s x.route.node pl n
      && (n == x.toNode || x.route.pkgs == 0)
  | .arrive => x.route.flight.isSome && ! x.route.lost
  | .blocked => isHead s x && x.route.det == .idle && ! inDrain s x.route

/-- The place after a hop, the last of its input. -/
def afterHop (now seq : Nat) (x : Item) : Hop → Route
  | .viaduct d => { x.route with die := d, port := x.route.die, seq := seq, hops := x.route.hops + 1, det := .idle }
  | .plane pl n =>
    { x.route with
      node := n, die := 4, port := 5 + pl, seq := seq, flight := some (pl, x.route.node), hops := 0,
      pkgs := if n = x.toNode then x.route.pkgs else x.route.pkgs + 1, xpkg := true, det := .idle }
  | .arrive => { x.route with flight := none, seq := seq }
  | .blocked => { x.route with det := .watch now }

/-! ## Tokens and reserves (R315 to R317) -/

/-- The plane of the Causeway to another package. -/
def causewayPlane (dst : Nat) : Nat := dst % 64

/-- The Causeway carries it to its destination: within a package, or on its plane. -/
def causewayOpen (s : State) (x : Item) : Bool :=
  x.route.node == x.toNode || planeUsable s x.route.node (causewayPlane x.toNode) x.toNode

/-- The reserve of a die for a domain; die 4 is the I/O die. -/
def reserveOf (s : State) (node die : Nat) (pod : Bool) : Reserve :=
  if die = 4 then (if pod then (pkgOf s node).ioReservePod else (pkgOf s node).ioReservePkg)
  else if pod then (dieOf s (4 * node + die)).reservePod else (dieOf s (4 * node + die)).reservePkg

def modReserve (node die : Nat) (pod : Bool) (f : Reserve → Reserve) (s : State) : State :=
  if die = 4 then
    modPkg node (fun p => if pod then { p with ioReservePod := f p.ioReservePod } else { p with ioReservePkg := f p.ioReservePkg }) s
  else
    modDie (4 * node + die)
      (fun d => if pod then { d with reservePod := f d.reservePod } else { d with reservePkg := f d.reservePkg }) s

/-- No request waits in the reserves of a die: a home accepts those before any other arrival. -/
def reservesEmpty (s : State) (node die : Nat) : Bool :=
  (reserveOf s node die false).request.isNone && (reserveOf s node die true).request.isNone

/-- A request that its home can accept: one that waits there, out of its reserve, or at the head of an input while the reserves are
empty. -/
def canAccept (s : State) (x : Item) : Bool :=
  atDestination x && ! heldByToken s x.id
    && (x.route.drained || x.route.waiting || (isHead s x && reservesEmpty s x.toNode x.toDie))

/-- The home accepts a request: its buffer is free. -/
def freeRequest (x : Item) : State → State :=
  modReserve x.toNode x.toDie x.route.xpkg fun r => { r with request := if r.request = some x.id then none else r.request }

/-- A drained request is performed: its response will use the credit of its source die. -/
def takeCredit (x : Item) (s : State) : State :=
  if x.route.drained then modReserve x.fromNode x.fromDie x.route.xpkg (fun r => { r with credit := some x.id }) s else s

/-- The way of the response to a request: from the home, on the Causeway where the request was drained. -/
def responseRoute (x : Item) (seq : Nat) : Route :=
  { Route.start x.toNode x.toDie responseChannel seq with drained := x.route.drained, xpkg := x.route.drained && x.route.xpkg }

/-- The home has accepted a request, which waits there. -/
def waitAtHome (x : Item) (s : State) : State := putRoute x.id { x.route with waiting := true } (freeRequest x s)

/-- A response has reached its issuer: at its router, or on the Causeway, whose plane carries it. -/
def responseHome (s : State) (x : Item) : Bool :=
  ! x.request && ! heldByToken s x.id
    && (if x.route.drained then causewayOpen s x else atDestination x && isHead s x)

/-- The credit that a request or its response holds is free. -/
def freeCredit (id node die : Nat) (s : State) : State :=
  let f (r : Reserve) : Reserve := { r with credit := if r.credit = some id then none else r.credit }
  modReserve node die true f (modReserve node die false f s)

/-- A token that holds something lets it go and moves on. -/
def releaseToken (id ring : Nat) (t : Token) : Token :=
  if t.held = some id then { t with held := none, pos := (t.pos + 1) % ring } else t

/-- Whichever token holds it lets it go. -/
def releaseTokens (id : Nat) (s : State) : State :=
  { s with
    podTokens := s.podTokens.map (releaseToken id Config.podNodes)
    pkgs := s.pkgs.map fun p => (p.1, { p.2 with tokens := p.2.tokens.map (releaseToken id 5) }) }

/-! ## Budgets (R390, R391) -/

/-- The entry of a tenant and a class for the port of a die over which something leaves for another die of its package. -/
def portEntry (die next cls : Nat) (tenant : BitVec 4) : Nat :=
  128 * (if next = 4 then 5 else portToward die next) + 16 * cls + tenant.toNat

/-- The class of a packet's traffic: a host core's, or that of the agent. -/
def packetClass (p : Packet) : Nat :=
  if isHostPlace p.place then 5
  else match p.agent with
    | .stream => 0
    | .truss => 1
    | .copy _ => 2
    | .scalar => 4

/-- The class and the tenant of something on its way, and the bytes that it moves. -/
def trafficOf (s : State) (id : Nat) : Option (Nat × BitVec 4 × Nat) :=
  match s.packets.find? fun p => p.id == id with
  | some p => some (packetClass p, p.tenant, p.len)
  | none => (s.messages.find? fun m => m.id == id).map fun m => (3, m.tenant, messageBytes m)
where
  /-- Bytes of data that a message carries. -/
  messageBytes (m : CollMsg) : Nat :=
    match m.body with
    | .contribution _ _ codes | .result _ codes _ _ => codes.length * copySize false m.key.fmt
    | _ => 0

/-- Something that leaves a compute die for another die of its package is charged there. DESIGN CHOICE (log 95): how many bytes that is,
headers included, is a free value of the bytes that it moves. -/
def chargePort (id node die next : Nat) (s : State) : State :=
  match trafficOf s id with
  | some (cls, ten, n) =>
    if die < 4 ∧ die ≠ next then
      modDie (4 * node + die) (fun d =>
        let i := portEntry die next cls ten
        { d with used := nset d.used i ((nget d.used i).getD 0 + Config.charge n) }) s
    else s
  | none => s

/-- It is given up wherever it is: tokens and reserves let it go. -/
def abandonItem (x : Item) (s : State) : State := freeRequest x (freeCredit x.id x.fromNode x.fromDie (releaseTokens x.id s))

end Sys2Proof.Machine
end

