-- ==== Sys2Proof/Machine/Collect.lean ====
section
/-! DEFINITION. Collectives (R325 to R339): posting, the engine and its chunks, credits, the exact reduction at the
Abutment, arrival of messages, completion, failure, frames to other pods. -/

namespace Sys2Proof.Machine

open Host (Outcome)

/-! ## The control word (R328) -/

def ctlComm (v : Word) : Nat := (v.extractLsb' 0 6).toNat
def ctlOp (v : Word) : Nat := (v.extractLsb' 6 2).toNat
def ctlPrio (v : Word) : Nat := (v.extractLsb' 8 2).toNat
def ctlRoot (v : Word) : Nat := (v.extractLsb' 10 12).toNat
def ctlWexp (v : Word) : Int := (v.extractLsb' 22 8).toInt

/-- A reducing kind, and one with a buffer. -/
def reduces (k : CollKind) : Bool := k == .rs || k == .ar
def isBarrier (k : CollKind) : Bool := k == .bar || k == .barRt

/-- A control word that R328 accepts, ROOT's bound apart. -/
def ctlOk (k : CollKind) (v : Word) : Bool :=
  v.extractLsb' 30 34 == 0 && ctlOp v != 3 && decide (-64 ≤ ctlWexp v ∧ ctlWexp v ≤ 63)
    && (reduces k || (ctlOp v == 0 && ctlWexp v == 0)) && (ctlOp v == 0 || ctlWexp v == 0)
    && (k == .bc || ctlRoot v == 0)

/-! ## The buffer (R330) -/

/-- Bytes of an element of a collective. -/
def collSize (t : ShapeReg) : Nat := copySize false (shapeFmt t)

/-- Dense in 16-bit elements: each stride is the product of the lower extents times 2. The stride of a dimension of extent 1
above dimension 0 moves no element and is not looked at: the view of R434's program leaves such strides 0 (DEDUCED, log 24; safe). -/
def denseHalf (t : ShapeReg) : Bool :=
  (List.range 6).all fun d => (d != 0 && shapeExt t d ≤ 1) || shapeStr t d == (2 * (((List.range d).map (shapeExt t)).prod : Nat) : Int)

/-- The view conditions of a kind, with n members; those of R86 on a bit-plane view come after them. -/
def bufferOk (k : CollKind) (t : ShapeReg) (n : Nat) : Bool :=
  decide (viewCount t < 2 ^ 32) &&
    (if reduces k then
      fmtFp16 (shapeFmt t) && denseHalf t && (shapeBase t).toNat % 64 == 0 && viewCount t % (32 * n) == 0
     else fmtAssigned (shapeFmt t) && (fmtRaw (shapeFmt t) || sectorCondition t))

/-- An element of the buffer: its page maps the die's own HBM or scratchpad, pinned; its translation is kept. -/
def bufferPage (km : Bool) (n : Nat) (va : Word) (ps : List TlbEntry) : Op (List TlbEntry) := do
  let r ← access .atomic km n va
  let e ← pinnedEntry va
  let ok ← read fun s => (homeKind r.fpa == .hbm || homeKind r.fpa == .pad) && fpaPeer r.fpa == myPeer s
    && e.any fun x => ptePinned x.pte
  require (ok = true) (.trap (causeCode .permission) va)
  pure (ps ++ e.filter fun x => ! ps.contains x)

/-- The elements of the buffer one after the other. -/
def bufferPages (km : Bool) (n : Nat) : List Word → List TlbEntry → Op (List TlbEntry)
  | [], ps => pure ps
  | va :: vas, ps => do
    let qs ← bufferPage km n va ps
    bufferPages km n vas qs

/-! ## Communicators and posted collectives (R325, R334) -/

/-- The collective of an instance that a die has posted. -/
def findColl (d : Die) (inst : Nat) : Option Coll := d.colls.find? fun c => c.inst == inst

/-- Changes a posted collective. -/
def modColl (peer inst : Nat) (f : Coll → Coll) : State → State :=
  modDie peer fun d => { d with colls := d.colls.map fun c => if c.inst == inst then f c else c }

/-- Two collectives of a die are on one communicator: an entry that was made valid anew is another one (R325). -/
def sameComm (a b : Coll) : Bool := a.comm == b.comm && a.epoch == b.epoch

def modComm (peer comm : Nat) (f : Comm → Comm) : State → State :=
  modDie peer fun d => { d with comms := nset d.comms comm (f (commOf d comm)) }

/-- The member map (R325), read under key id 0. -/
def memberMap (s : State) (c : Comm) : List (BitVec 16) :=
  (List.range (c.nmem.toNat + 1)).map fun i => BitVec.ofNat 16 (memRead s 0 (c.map.toNat + 2 * i) 2)

/-- The peer of an entry, or its index into the route table. DESIGN CHOICE (log 76): bits [15:13], which R325 gives as zero, are not
looked at. -/
def memberPeer (e : BitVec 16) : Nat := (e.extractLsb' 0 12).toNat
def memberRemote (e : BitVec 16) : Bool := e.getLsbD 12

/-- Members. -/
def ranks (k : CollKey) : Nat := k.nmem + 1
def memberOf (k : CollKey) (r : Nat) : BitVec 16 := k.members.getD r 0

/-- The ranks other than one. -/
def otherRanks (k : CollKey) (r : Nat) : List Nat := (List.range (ranks k)).filter (· != r)

/-- The members of the pod other than a rank, as peers. -/
def otherPeers (k : CollKey) (r : Nat) : List Nat :=
  ((otherRanks k r).filter fun j => ! memberRemote (memberOf k j)).map fun j => memberPeer (memberOf k j)

/-! ## Shards and chunks (R330, R335) -/

/-- Elements lo to hi − 1 of shard j. -/
def shard (k : CollKey) (j : Nat) : Nat × Nat := (j * k.count / ranks k, (j + 1) * k.count / ranks k)

/-- Elements of a chunk. -/
def chunkElems (c : Coll) : Nat := 2 ^ c.key.chunk / collSize c.view

/-- Chunks of the buffer. -/
def chunkCount (c : Coll) : Nat := if isBarrier c.key.kind then 0 else (c.key.count + chunkElems c - 1) / chunkElems c

/-- The part of chunk i that lies in shard j. -/
def part (c : Coll) (i j : Nat) : Nat × Nat :=
  (max (i * chunkElems c) (shard c.key j).1, min (min ((i + 1) * chunkElems c) c.key.count) (shard c.key j).2)

def nonempty (p : Nat × Nat) : Bool := decide (p.1 < p.2)

/-- The owners of the elements of a chunk. -/
def owners (c : Coll) (i : Nat) : List Nat := (List.range (ranks c.key)).filter fun j => nonempty (part c i j)

/-- The chunks that meet the rank's own shard. -/
def ownChunks (c : Coll) : List Nat := (List.range (chunkCount c)).filter fun i => nonempty (part c i c.rank)

/-- What the rank sends of its own, chunk by chunk: of a barrier its arrival, and at rank 0 a release for every rank. -/
def firstChunks (c : Coll) : List Nat :=
  match c.key.kind with
  | .rs | .ar => List.range (chunkCount c)
  | .bc => if c.rank = c.key.root then List.range (chunkCount c) else []
  | .ag => ownChunks c
  | .bar | .barRt => List.range (if c.rank = 0 then 1 + ranks c.key else 1)

/-- The ranks that chunk i of its own goes to. -/
def chunkDests (c : Coll) (i : Nat) : List Nat :=
  match c.key.kind with
  | .rs | .ar => owners c i
  | .bc | .ag => otherRanks c.key c.rank
  | .bar | .barRt => [i - 1]

/-- Every rank but this one, where `car` sends a part of results. -/
def resultDests (c : Coll) : List Nat := otherRanks c.key c.rank

/-- The rank still has something to send. -/
def sendsLeft (c : Coll) : Bool :=
  decide (c.next < (firstChunks c).length) || (c.key.kind == .ar && decide (c.resultsSent < (ownChunks c).length))

/-! ## The engine's accesses -/

/-- Where an address of the buffer lies, by the translations kept at issue (R329). -/
def collPhysAt (c : Coll) (a : Word) : Phys :=
  let va := a.toNat
  match c.pages.find? fun e => if e.large then e.vpn / 2 ^ 13 == va / 2 ^ 29 else e.vpn == va / 2 ^ 16 with
  | none => ⟨0, 0⟩
  | some e =>
    let f := pteFpa e.pte + (if e.large then va % 2 ^ 29 else va % 2 ^ 16)
    ⟨f, if homeKind f = .hbm then c.keysel * 128 + pteKeyHi e.pte else 0⟩

/-- Where an element lies. -/
def collPhys (c : Coll) (l : Nat) : Phys := collPhysAt c (viewAddr c.view l)

/-- A rank's part of a bit-plane buffer is made of bits of its planes (R218, R331). -/
def byPlanes (c : Coll) : Bool := c.key.kind == .ag && fmtBitPlane (shapeFmt c.view)

/-- The bytes of the planes that hold bits of an element, plane 7 first. -/
def planesOf (c : Coll) (l : Nat) : List (Nat × Phys) :=
  (List.range 8).map fun k => (7 - k, collPhysAt c (planeAddr c.view l (7 - k)))

/-- A byte of the buffer's memory as a source (R290). -/
def sourceAt (s : State) (a : Nat) : CopySource :=
  let x := sectorOf s (a / 64)
  ⟨x.fmt, x.scale, a / 64, a % 64⟩

/-- An element as the engine reads it; of a bit-plane element L the source is the sector of plane 7 − L mod 8, so that the elements of
one sector of a plane bring the descriptors of all planes. -/
def readElem (s : State) (c : Coll) (l : Nat) : Nat × CopySource :=
  if byPlanes c then
    let ps := planesOf c l
    let code := ps.foldl (fun (x : BitVec 8) p => setBit x p.1 ((memByte s p.2.key p.2.fpa).getLsbD (l % 8))) 0
    (code.toNat, match ps[l % 8]? with | some p => sourceAt s p.2.fpa | none => ⟨0, 0, 0, 0⟩)
  else
    let p := collPhys c l
    (memRead s p.key p.fpa (collSize c.view), sourceAt s p.fpa)

def readElems (s : State) (c : Coll) (p : Nat × Nat) : List (Nat × CopySource) :=
  (List.range (p.2 - p.1)).map fun i => readElem s c (p.1 + i)

/-- The plane that a byte of a bit-plane buffer belongs to. -/
def planeOfByte (c : Coll) (l : Nat) : Nat := 7 - l / (c.key.count / 8)

/-- A sector that the engine reads for an element has a descriptor that the format refuses (R82, R336 cause 3). -/
def elemRefused (s : State) (c : Coll) (l : Nat) : Bool :=
  let f := shapeFmt c.view
  if fmtRaw f then false
  else if byPlanes c then
    (planesOf c l).any fun p => ! fmtAccepts f p.1 (sectorOf s (p.2.fpa / 64)).fmt
  else ! fmtAccepts f (if fmtBitPlane f then planeOfByte c l else 0) (sectorOf s ((collPhys c l).fpa / 64)).fmt

/-- Writes reduced elements from one on, as whole sectors with the format's descriptor (R331). -/
def writeReduced (c : Coll) (first : Nat) (codes : List Nat) (s : State) : State :=
  (List.range (codes.length / 32)).foldl (fun u i =>
    let p := collPhys c (first + 32 * i)
    sectorWrite p.key (p.fpa / 64)
      (BitVec.ofNat 512 (leNat (fun j => byteOf (codes.getD (32 * i + j / 2) 0) (j % 2)) 64)) (shapeFmt c.view) 127 u) s

/-- An element of a message at its receiver: where it goes, its code, and its source. -/
structure Landing where
  loc : Phys
  code : Nat
  src : CopySource
  deriving DecidableEq, Repr

/-- The elements of a message with where each lies. -/
def landings (c : Coll) (first : Nat) (codes : List Nat) (src : List CopySource) : List Landing :=
  (List.range codes.length).map fun i => ⟨collPhys c (first + i), codes.getD i 0, src.getD i ⟨0, 0, 0, 0⟩⟩

/-- Where the bytes of a buffer came from, with elements of n bytes landed. -/
def noteSources (n : Nat) (es : List Landing) (m : NMap CopySource) : NMap CopySource :=
  es.foldl (fun m e => (List.range n).foldl (fun m j => nset m (e.loc.fpa + j) { e.src with off := e.src.off + j }) m) m

/-- The source sector of which a sector is the whole image: every byte was last written from the byte at the same place there
(R290). -/
def wholeImage (m : NMap CopySource) (sec : Nat) : Option CopySource :=
  (nget m (64 * sec)).filter fun x => (List.range 64).all fun j =>
    match nget m (64 * sec + j) with
    | some y => y.sector == x.sector && y.off == j
    | none => false

/-- A sector takes a descriptor with its bytes as they stand. -/
def putDescriptor (key sec : Nat) (x : CopySource) (s : State) : State :=
  sectorWrite key sec (BitVec.ofNat 512 (memRead s key (64 * sec) 64)) x.fmt x.scale s

/-- Writes elements of n bytes: a sector that is now the whole image of one sector takes its descriptor, any other is changed as by a
plain write (R81, R290, R331). -/
def writeLandings (n : Nat) (es : List Landing) (m : NMap CopySource) (s : State) : State :=
  let s1 := es.foldl (fun u e => memWrite e.loc.key e.loc.fpa n e.code u) s
  ((es.map fun e => (e.loc.key, e.loc.fpa / 64)).eraseDups).foldl (fun u x =>
    match wholeImage m x.2 with
    | some y => putDescriptor x.1 x.2 y u
    | none => u) s1

/-- The bit of a plane of an element that a message brings. -/
def codeBit (first : Nat) (codes : List Nat) (p l : Nat) : Option Bool :=
  if first ≤ l then (codes[l - first]?).map fun x => (BitVec.ofNat 8 x).getLsbD p else none

/-- The byte j of a plane's sector of a group with the bits that a message brings. -/
def planeByte (first : Nat) (codes : List Nat) (p g j : Nat) (old : BitVec 8) : BitVec 8 :=
  (List.range 8).foldl (fun b k => match codeBit first codes p (512 * g + 8 * j + k) with | some v => setBit b k v | none => b) old

/-- All 512 elements of a group have come from one group of another rank. -/
def wholeGroup (m : NMap CopySource) (g : Nat) : Bool :=
  (List.range 512).all fun i => match nget m (512 * g + i), nget m (512 * g + i % 8) with
    | some x, some y => x.sector == y.sector
    | _, _ => false

/-- Writes the bits of one plane of a group: as plain writes, and a sector that is now whole takes the descriptor that came for it. -/
def writePlane (c : Coll) (first : Nat) (codes : List Nat) (m : NMap CopySource) (p g : Nat) (s : State) : State :=
  let at0 := collPhysAt c (planeAddr c.view (512 * g) p)
  let s1 := (List.range 64).foldl (fun u j =>
    let old := memByte u at0.key (at0.fpa + j)
    if (List.range 8).any fun k => (codeBit first codes p (512 * g + 8 * j + k)).isSome then
      memWrite at0.key (at0.fpa + j) 1 (planeByte first codes p g j old).toNat u
    else u) s
  if wholeGroup m g then
    match nget m (512 * g + (7 - p)) with
    | some x => putDescriptor at0.key (at0.fpa / 64) x s1
    | none => s1
  else s1

/-- Where the bytes of the buffer, or its bit-plane elements, came from once a message has landed. -/
def landedSources (c : Coll) (first : Nat) (codes : List Nat) (src : List CopySource) : NMap CopySource :=
  if byPlanes c then
    ((List.range codes.length).zip src).foldl (fun m x => nset m (first + x.1) x.2) c.sources
  else noteSources (collSize c.view) (landings c first codes src) c.sources

/-- Writes copied elements from one on (R331). -/
def writeCopied (c : Coll) (first : Nat) (codes : List Nat) (src : List CopySource) (s : State) : State :=
  let m := landedSources c first codes src
  if byPlanes c then
    let gs := ((List.range codes.length).map fun i => (first + i) / 512).eraseDups
    gs.foldl (fun u g => (List.range 8).foldl (fun w p => writePlane c first codes m p g w) u) s
  else writeLandings (collSize c.view) (landings c first codes src) m s

/-! ## The Abutment (R332, R436) -/

def Sum.empty : Sum := { w := 0, best := none, nan := false, pinf := false, ninf := false, flags := 0, ranks := [] }

/-- The sum word of an element: 128 bits and 12 guard bits (R436). -/
def sumWord (w : Int) : BitVec 140 := BitVec.ofInt 140 w

/-- The residue of a sum word after an add is the one expected (R96, R436); what adds no number passes. -/
def contributionChecks (k : CollKey) (code : Nat) (x : Sum) : Bool :=
  match fpVal (fmtFloat k.fmt) code with
  | .num neg m e =>
    k.op != 0 || residueOf (sumWord (x.w + toGrid neg m (e - k.wexp)))
      == expectedResidue (sumWord x.w) (contributionWord 140 neg m (e - k.wexp))
  | _ => true

/-- Adds a rank's contribution to an element. DEDUCED (log 77): R332's sum has no bound; a sum beyond the 140 bits of R436 is kept, and
saturates as it is read out. -/
def addContribution (k : CollKey) (rank code : Nat) (x : Sum) : Sum :=
  let f := fmtFloat k.fmt
  let y := { x with ranks := x.ranks ++ [rank] }
  if k.op = 0 then
    match fpVal f code with
    | .nan _ => { y with nan := true, flags := x.flags ||| flagNV }
    | .inf neg => if neg then { y with ninf := true } else { y with pinf := true }
    | .num neg m e => { y with w := x.w + toGrid neg m (e - k.wexp) }
  else
    let r := fpMinMax ⟨f, 0, 0⟩ (k.op == 1) (x.best.getD code) code
    { y with best := some r.1, flags := x.flags ||| r.2 }

/-- The result of an element, with its flags. -/
def sumResult (k : CollKey) (x : Sum) : Nat × BitVec 5 :=
  let f := fmtFloat k.fmt
  if k.op ≠ 0 then (x.best.getD 0, x.flags)
  else if x.nan || (x.pinf && x.ninf) then (f.nan, x.flags ||| flagNV)
  else if x.pinf || x.ninf then (fpInf f x.ninf, x.flags)
  else
    let top : Int := 2 ^ 127 - 1
    let w := max (-(2 : Int) ^ 127) (min x.w top)
    let fl := if w = x.w then x.flags else x.flags ||| flagOF
    let r := roundFp f 0 0 (.num (decide (w < 0)) w.natAbs (k.wexp - 64))
    (r.1, fl ||| r.2)

/-! ## Messages (R308, R331, R338) -/

/-- The route-table entry of a REMOTE member in the table that the collective captured, where it is valid (R338). -/
def routeOf (d : Die) (table : Bool) (e : BitVec 16) : Option (BitVec 128) :=
  (nget (if table then d.routes1 else d.routes0) (memberPeer e)).filter fun r => r.getLsbD 0

def routePort (r : BitVec 128) : Nat := (r.extractLsb' 1 3).toNat

def portOf (s : State) (node port : Nat) : PortState := (nget (pkgOf s node).ports port).getD .live

/-- The far end that a route-table entry names (R338). -/
def farEnd (r : BitVec 128) : FarEnd :=
  { port := routePort r, pod := r.extractLsb' 4 16, node := r.extractLsb' 20 10, die := r.extractLsb' 30 2 }

/-- The body is data or a barrier message, which is acknowledged. -/
def bodyAcked : CollBody → Bool
  | .credit _ | .failure _ | .ack => false
  | _ => true

/-- What a rank's messages share: the communicator, the sequence number, the instance, and what the collective captured of its settings
(R325, R338, R391). -/
structure Sender where
  peer : Nat
  comm : Nat
  seq : BitVec 32
  inst : Nat
  key : CollKey
  rank : Nat
  vc : BitVec 3
  table : Bool
  tenant : BitVec 4
  deriving DecidableEq, Repr

/-- The sender of a posted collective's messages. -/
def Coll.sender (c : Coll) (peer : Nat) : Sender := ⟨peer, c.comm, c.seq, c.inst, c.key, c.rank, c.vc, c.table, c.tenant⟩

/-- A rank can be reached: one of another pod over a valid route (R338). -/
def reaches (s : State) (x : Sender) (rank : Nat) : Bool :=
  ! memberRemote (memberOf x.key rank) || (routeOf (dieOf s x.peer) x.table (memberOf x.key rank)).isSome

/-- A message to a rank that can be reached, as it starts at its die on the communicator's virtual channel (R335). -/
def newMessage (s : State) (x : Sender) (rank : Nat) (body : CollBody) : CollMsg :=
  let e := memberOf x.key rank
  { id := s.fresh, src := x.peer, dst := memberPeer e
    route := Route.start (x.peer / 4) (x.peer % 4) x.vc.toNat s.fresh
    far := if memberRemote e then (routeOf (dieOf s x.peer) x.table e).map farEnd else none
    inbound := false, frames := [], sent := s.time, sunk := false, comm := x.comm, seq := x.seq, inst := x.inst, key := x.key,
    tenant := x.tenant, fromRank := x.rank, toRank := rank, body := body }

def putMessage (m : CollMsg) (s : State) : State := { s with fresh := s.fresh + 1, messages := s.messages ++ [m] }

/-- Sends a message of a rank to a rank. -/
def sendMessage (peer : Nat) (c : Coll) (rank : Nat) (body : CollBody) (s : State) : State :=
  let m := newMessage s (c.sender peer) rank body
  let s1 := putMessage m s
  if bodyAcked body then modColl peer c.inst (fun c => { c with unacked := c.unacked ++ [m.id] }) s1 else s1

/-- Sends one message after the other to a rank. -/
def sendBodies (peer : Nat) (c : Coll) (rank : Nat) (bs : List CollBody) (s : State) : State :=
  bs.foldl (fun u b => sendMessage peer c rank b u) s

def messageAt (s : State) (id : Nat) : Option CollMsg := s.messages.find? fun m => m.id == id
def modMessage (id : Nat) (f : CollMsg → CollMsg) (s : State) : State :=
  { s with messages := s.messages.map fun m => if m.id = id then f m else m }
def dropMessages (p : CollMsg → Bool) (s : State) : State := { s with messages := s.messages.filter fun m => ! p m }

/-- The acknowledgement of a message, on its way back (R312, R317). -/
def ackOf (m : CollMsg) (seq : Nat) : CollMsg :=
  { m with
    src := m.dst, dst := m.src, fromRank := m.toRank, toRank := m.fromRank, body := .ack, sunk := false
    route := responseRoute (messageItem m) seq }

/-- A message is received: it leaves the fabric, and one of data or of a barrier from a die of the pod is acknowledged. -/
def dropMsg (m : CollMsg) (s : State) : State :=
  let s1 := freeRequest (messageItem m) s
  if bodyAcked m.body && ! m.inbound then
    takeCredit (messageItem m) (modMessage m.id (fun _ => ackOf m s1.fresh) { s1 with fresh := s1.fresh + 1 })
  else dropMessages (fun x => x.id == m.id) s1

/-- The acknowledgement of a message has reached its sender. -/
def messageAcked (m : CollMsg) (s : State) : State :=
  modColl m.dst m.inst (fun c => { c with unacked := c.unacked.filter (· != m.id) })
    (freeCredit m.id (m.dst / 4) (m.dst % 4) (dropMessages (fun x => x.id == m.id) s))

/-! ## Credits (R326) -/

/-- The collectives that a die posted before one. -/
def olderColls (d : Die) (c : Coll) : List Coll := d.colls.takeWhile fun x => x.inst != c.inst

/-- No older collective of the thread on the die holds the buffer (R329). -/
def collActive (d : Die) (c : Coll) : Bool :=
  ! (olderColls d c).any fun x => x.owner == c.owner && conflict (collRanges c) (collRanges x)

/-- A page of the buffer lies under an erased key slot: the engine's access to it is a fault (R402). -/
def collErased (s : State) (c : Coll) : Option Phys :=
  (c.pages.map fun e => (⟨pteFpa e.pte, c.keysel * 128 + pteKeyHi e.pte⟩ : Phys)).find? fun p => keyErased s p.key p.fpa

/-- The collective that grants its communicator's next credit: the oldest that has some left, while chunks for which room is held are
fewer than two. -/
def nextGranting (d : Die) (x : Coll) : Option Coll :=
  let cs := d.colls.filter fun c => sameComm c x && reduces c.key.kind
  if 2 ≤ (cs.map fun c => c.granted.length).sum then none
  else (cs.find? fun c => decide (c.nextGrant < (ownChunks c).length)).filter (collActive d)

/-- Grants one credit to every rank that can be reached, if there is room. -/
def grantOne (peer : Nat) (x : Coll) (s : State) : State :=
  match nextGranting (dieOf s peer) x with
  | none => s
  | some c =>
    let i := (ownChunks c).getD c.nextGrant 0
    let s1 := modColl peer c.inst (fun c => { c with nextGrant := c.nextGrant + 1, granted := c.granted ++ [i] }) s
    ((List.range (ranks c.key)).filter (reaches s (c.sender peer))).foldl (fun u j => sendMessage peer c j (.credit i) u) s1

/-- Grants what there is room for on every communicator of a die. -/
def grantCredits (peer : Nat) (s : State) : State :=
  (dieOf s peer).colls.foldl (fun u x => grantOne peer x (grantOne peer x u)) s

/-! ## Failure (R336) -/

/-- b was posted with or after a on one communicator. -/
def seqFrom (a b : BitVec 32) : Bool := decide ((b - a).toNat < 2 ^ 31)

/-- The collective of a die that a message's failure concerns: the one of its instance, else the one that the communicator has now at
the sequence number. -/
def concerned (d : Die) (comm : Nat) (seq : BitVec 32) (inst : Nat) : Option Coll :=
  (findColl d inst).orElse fun _ => d.colls.find? fun c => c.comm == comm && c.seq == seq && c.epoch == (commOf d comm).epoch

/-- A failure reaches a member: ERR is set, the collective and later ones on the communicator are abandoned there with the
messages that they sent, and the failed one's thread will be told. Room that they held is granted to others (R326). -/
def failMember (peer comm : Nat) (seq : BitVec 32) (inst cause : Nat) (s : State) : State :=
  let d := dieOf s peer
  let hit := concerned d comm seq inst
  let epoch := match hit with | some c => c.epoch | none => (commOf d comm).epoch
  let gone := d.colls.filter fun c => c.comm == comm && c.epoch == epoch && seqFrom seq c.seq
  let tell := hit.toList.map fun c =>
    ({ owner := c.owner, ctrVa := c.ctrVa, val := BitVec.ofNat 64 (comm + cause * 2 ^ 8 + seq.toNat * 2 ^ 32) } : CollFailure)
  let s1 := modDie peer (fun d => { d with
    comms := if (commOf d comm).epoch = epoch then nset d.comms comm { commOf d comm with err := true } else d.comms
    colls := d.colls.filter fun c => ! gone.contains c
    collFailures := d.collFailures ++ tell }) s
  grantCredits peer (dropMessages (fun m => m.src == peer && gone.any (·.inst == m.inst) && ! m.route.drained
    && (match m.body with | .failure _ | .ack => false | _ => true)) s1)

/-- The sender of a failure: the collective that it concerns, else what the member has now. -/
def failSender (s : State) (peer comm : Nat) (seq : BitVec 32) (inst : Nat) (key : CollKey) (rank : Nat) : Sender :=
  let d := dieOf s peer
  match concerned d comm seq inst with
  | some c => { c.sender peer with key := key, rank := rank, inst := inst }
  | none => ⟨peer, comm, seq, inst, key, rank, (commOf d comm).vc, d.rtsel, 0⟩

/-- A member finds a failure, and tells the others that it can reach (log 50). -/
def failColl (peer comm : Nat) (seq : BitVec 32) (inst : Nat) (key : CollKey) (rank cause : Nat) (s : State) : State :=
  let x := failSender s peer comm seq inst key rank
  ((otherRanks key rank).filter (reaches s x)).foldl (fun u j => putMessage (newMessage u x j (.failure cause)) u)
    (failMember peer comm seq inst cause s)

/-- A posted collective fails at its member. -/
def failHere (peer : Nat) (c : Coll) (cause : Nat) (s : State) : State := failColl peer c.comm c.seq c.inst c.key c.rank cause s

/-! ## Issue (R328 to R330) -/

/-- The traps of the communicator entry. -/
def checkEntry (c : Comm) (ctl : Word) (ctx : BitVec 16) : Op Unit := do
  let val (cause : Nat) : Word := BitVec.ofNat 64 (ctlComm ctl + cause * 2 ^ 8 + c.iseq.toNat * 2 ^ 32)
  require (c.valid = true ∧ c.ctx = ctx) (.trap (causeCode .collective) (val 1))
  require (c.err = false) (.trap (causeCode .collective) (val 7))

/-- What the members of the pod have posted that a collective may be an instance of: at its sequence number of the communicator, and
not posted by its die yet. -/
def instanceOf (s : State) (peer : Nat) (c : Coll) : Option Coll :=
  (otherPeers c.key c.rank).findSome? fun q =>
    (dieOf s q).colls.find? fun x => x.comm == c.comm && x.seq == c.seq && ! x.joined.contains peer

/-- A die posts an instance: every member that has posted it knows. -/
def joinColl (peer : Nat) (c : Coll) (s : State) : State :=
  let joined := c.joined ++ [peer]
  let s1 := { s with dies := s.dies.map fun d =>
    (d.1, { d.2 with colls := d.2.colls.map fun x => if x.inst = c.inst then { x with joined := joined } else x }) }
  modDie peer (fun d => { d with colls := d.colls ++ [{ c with joined := joined }] }) s1

/-- Posts a collective: it takes its sequence number, and as an owner grants what credits it can. -/
def postColl (peer : Nat) (c : Coll) (s : State) : State :=
  let s1 := modComm peer c.comm (fun e => { e with iseq := e.iseq + 1 }) s
  let s2 : State := { s1 with thr := { s1.thr with issued := s1.thr.issued + 1 }, fresh := s1.fresh + 1 }
  grantCredits peer (joinColl peer (match instanceOf s peer c with
    | some x => { c with inst := x.inst, joined := x.joined }
    | none => { c with inst := s.fresh, joined := [] }) s2)

/-- A collective instruction: kind, shape register, control word, counter address. -/
noncomputable def collectiveOp (i : Instr) (kind : CollKind) (n : Option (BitVec 7)) (ra rb : BitVec 7) (s : State) :
    Outcome State Fault Refusal :=
  scalarOp i ((match n with | some r => shapeF r | none => true) && srcS ra && srcS rb) (do
    raiseFailure s.thr fun _ => true
    let ctl ← readS ra
    let ca ← readS rb
    let t ← read (·.thr)
    let bad : Stop := .trap (causeCode .illegalOperand) (wordVal i)
    require (ctlOk kind ctl = true) bad
    let peer ← read myPeer
    let e ← read fun s => commOf (dieOf s peer) (ctlComm ctl)
    checkEntry e ctl t.k.ctxid
    require (kind ≠ .bc ∨ ctlRoot ctl ≤ e.nmem.toNat) bad
    let ctr ← physOf (access .store t.k.km 8) ca
    let v : ShapeReg := match n with | some r => vget t.shp r.toNat 0 | none => 0
    require (n = none ∨ bufferOk kind v (e.nmem.toNat + 1) = true) bad
    require (n = none ∨ fmtBitPlane (shapeFmt v) = false ∨ planeViewOk v = true) (.trap (causeCode .format) (shapeBase v))
    let ps ← if n.isSome then bufferPages t.k.km (collSize v) ((List.range (viewCount v)).map (viewAddr v)) [] else pure []
    waitOlder ⟨true, true, false, false⟩ 3 t.issued
    let d ← read (dieOf · peer)
    require (d.colls.length < 16) (.wait .other)
    if n.isSome then aritRoom 1 else pure ()
    update fun s => postColl peer {
      comm := ctlComm ctl, seq := e.iseq, key := {
        kind := kind, op := ctlOp ctl, wexp := ctlWexp ctl, root := ctlRoot ctl, count := if n.isSome then viewCount v else 0,
        fmt := shapeFmt v, nmem := e.nmem.toNat, chunk := e.chunk.toNat, members := memberMap s e },
      prio := ctlPrio ctl, rank := e.rank.toNat, owner := threadId t, ctx := t.k.ctxid, keysel := t.k.keysel.toNat,
      epoch := e.epoch, inst := 0, joined := [], age := t.issued, view := v, ctr := ctr, ctrVa := ca, pages := ps,
      table := (dieOf s peer).rtsel, vc := e.vc, tenant := t.k.ktenant, next := 0, results := [], resultsSent := 0,
      nextGrant := 0, granted := [], credits := [], written := 0, sources := [], unacked := [], arrived := [], released := false, flags := 0, sums := [] } s) s

/-- `crs` (R329, R331). -/
noncomputable def execCrs (rd ra rb : BitVec 7) (s : State) : Outcome State Fault Refusal :=
  collectiveOp (.crs rd ra rb) .rs (some rd) ra rb s

/-- `car` (R329, R331). -/
noncomputable def execCar (rd ra rb : BitVec 7) (s : State) : Outcome State Fault Refusal :=
  collectiveOp (.car rd ra rb) .ar (some rd) ra rb s

/-- `cbc` (R329, R331). -/
noncomputable def execCbc (rd ra rb : BitVec 7) (s : State) : Outcome State Fault Refusal :=
  collectiveOp (.cbc rd ra rb) .bc (some rd) ra rb s

/-- `cag` (R329, R331). -/
noncomputable def execCag (rd ra rb : BitVec 7) (s : State) : Outcome State Fault Refusal :=
  collectiveOp (.cag rd ra rb) .ag (some rd) ra rb s

/-- `cbar` (R329, R331). -/
noncomputable def execCbar (ra rb : BitVec 7) (s : State) : Outcome State Fault Refusal :=
  collectiveOp (.cbar ra rb) .bar none ra rb s

/-- `cbar.rt` (R329, R339). -/
noncomputable def execCbarRt (ra rb : BitVec 7) (s : State) : Outcome State Fault Refusal :=
  collectiveOp (.cbarRt ra rb) .barRt none ra rb s

/-! ## Chunks (R334, R335) -/

/-- Every scale-out port that ranks need is LIVE (R341); a rank without a valid route needs none, and will fail. -/
def portsLive (s : State) (peer : Nat) (c : Coll) (ds : List Nat) : Bool :=
  ds.all fun j =>
    let e := memberOf c.key j
    ! memberRemote e || (match routeOf (dieOf s peer) c.table e with
      | some r => portOf s (peer / 4) (routePort r) == .live
      | none => true)

/-- The owners have granted credits for a chunk, and a barrier's releases wait for every arrival. -/
def chunkAllowed (c : Coll) (i : Nat) : Bool :=
  if reduces c.key.kind then (owners c i).all fun j => c.credits.contains (j, i)
  else if isBarrier c.key.kind then i == 0 || c.arrived.length == ranks c.key
  else true

/-- The rank's next chunk of its own is ready. -/
def firstReady (s : State) (peer : Nat) (c : Coll) : Bool :=
  match (firstChunks c)[c.next]? with
  | some i => chunkAllowed c i && portsLive s peer c (chunkDests c i)
  | none => false

def resultReady (s : State) (peer : Nat) (c : Coll) : Bool := c.results != [] && portsLive s peer c (resultDests c)

/-- A collective has a chunk ready: it is the oldest sending one of its communicator, and the engine may use its buffer. -/
def chunkReady (s : State) (peer : Nat) (c : Coll) : Bool :=
  let d := dieOf s peer
  ((d.colls.find? fun x => sameComm x c && sendsLeft x).map (·.inst)) == some c.inst
    && collActive d c && (firstReady s peer c || resultReady s peer c)

/-- The collective whose chunk the engine sends next: highest priority, then round-robin over communicators. -/
def nextChunk (s : State) (peer : Nat) : Option Coll :=
  let d := dieOf s peer
  let ready := d.colls.filter (chunkReady s peer)
  [3, 2, 1, 0].findSome? fun p =>
    let last := (vget d.served p 63).toNat
    ((List.range 64).map fun k => (last + 1 + k) % 64).findSome? fun comm =>
      ready.find? fun c => c.prio == p && c.comm == comm

/-- Some rank of a list is REMOTE and has no valid route (R336 cause 5). -/
def noRoute (s : State) (peer : Nat) (c : Coll) (ds : List Nat) : Bool :=
  ds.any fun j => ! reaches s (c.sender peer) j

/-- The elements that the rank reads for chunk i of its own. -/
def chunkPart (c : Coll) (i : Nat) : Nat × Nat :=
  if c.key.kind = .ag then part c i c.rank else (i * chunkElems c, min ((i + 1) * chunkElems c) c.key.count)

/-- A chunk holds a sector that the buffer's format refuses (R336 cause 3). -/
def chunkRefused (s : State) (c : Coll) (i : Nat) : Bool :=
  ! isBarrier c.key.kind
    && (List.range ((chunkPart c i).2 - (chunkPart c i).1)).any fun j => elemRefused s c ((chunkPart c i).1 + j)

/-- An element goes into the request of the elements before it, or begins one: a request carries at most 256 bytes and crosses no
256-byte boundary, of the buffer (R312, R433, log 50). Requests by first element and count, the last first. -/
def addToRequest (c : Coll) (ps : List (Nat × Nat)) (l : Nat) : List (Nat × Nat) :=
  match ps with
  | (f, n) :: rest =>
    if (n + 1) * collSize c.view ≤ 256 ∧ (viewAddr c.view f).toNat / 256 = (viewAddr c.view l).toNat / 256 then
      (f, n + 1) :: rest
    else (l, 1) :: ps
  | [] => [(l, 1)]

/-- The requests that elements lo to hi − 1 take. -/
def requestsOf (c : Coll) (p : Nat × Nat) : List (Nat × Nat) :=
  (((List.range (p.2 - p.1)).map (p.1 + ·)).foldl (addToRequest c) []).reverse.map fun x => (x.1, x.1 + x.2)

/-- Contributions of elements to a chunk, request by request. -/
def contributions (s : State) (c : Coll) (i : Nat) (p : Nat × Nat) : List CollBody :=
  (requestsOf c p).map fun q => .contribution i q.1 ((readElems s c q).map Prod.fst)

/-- Copies of elements, request by request. -/
def copies (s : State) (c : Coll) (p : Nat × Nat) : List CollBody :=
  (requestsOf c p).map fun q => .result q.1 ((readElems s c q).map Prod.fst) ((readElems s c q).map Prod.snd) 0

/-- Results from an element on, request by request. -/
def resultBodies (c : Coll) (first : Nat) (codes : List Nat) (fl : BitVec 5) : List CollBody :=
  (requestsOf c (first, first + codes.length)).map fun q =>
    .result q.1 ((codes.drop (q.1 - first)).take (q.2 - q.1)) [] fl

/-- Sends chunk i of the rank's own: contributions to their owners, copies to every other rank, a barrier message. -/
def sendFirst (peer : Nat) (c : Coll) (i : Nat) (s : State) : State :=
  let s1 := modColl peer c.inst (fun c => { c with next := c.next + 1 }) s
  match c.key.kind with
  | .rs | .ar => (owners c i).foldl (fun u j => sendBodies peer c j (contributions s c i (part c i j)) u) s1
  | .bc | .ag => (chunkDests c i).foldl (fun u j => sendBodies peer c j (copies s c (chunkPart c i)) u) s1
  | .bar | .barRt => sendMessage peer c (i - 1) (if i = 0 then .arrival else .release) s1

/-- Sends the oldest part of results of `car`. -/
def sendResult (peer : Nat) (c : Coll) (s : State) : State :=
  match c.results with
  | [] => s
  | (first, codes, fl) :: rest =>
    let s1 := modColl peer c.inst (fun c => { c with results := rest, resultsSent := c.resultsSent + 1 }) s
    (resultDests c).foldl (fun u j => sendBodies peer c j (resultBodies c first codes fl) u) s1

/-- The engine sends a chunk of a collective; under an erased key slot of its buffer the context ends instead (R402). -/
def sendChunk (peer : Nat) (c : Coll) (s : State) : State :=
  let s0 := modDie peer (fun d => { d with served := vset d.served c.prio (BitVec.ofNat 6 c.comm) }) s
  match collErased s c with
  | some p => erasedFault peer c.ctx p s0
  | none =>
    if firstReady s peer c then
      let i := (firstChunks c).getD c.next 0
      if noRoute s peer c (chunkDests c i) then failHere peer c 5 s0
      else if chunkRefused s c i then failHere peer c 3 s0
      else sendFirst peer c i s0
    else if noRoute s peer c (resultDests c) then failHere peer c 5 s0
    else sendResult peer c s0

/-- `CHUNK_SEND` (R335). -/
def execChunkSend (peer : Nat) (s : State) : Outcome State Fault Refusal :=
  finish (do
    let c ← orStop (← read (nextChunk · peer)) .absent
    update (sendChunk peer c)) s

/-! ## Arrivals (R325, R331, R332, R336) -/

/-- How a message meets its receiver: with a collective that takes it, one that disagrees, nothing any more, or nothing
yet. -/
inductive Meeting where
  | agrees (c : Coll)
  | disagrees
  | stale
  | early
  deriving DecidableEq, Repr

/-- The collective that a message is for: that of its instance; of a message from another pod, which brings none, the oldest of its
communicator and sequence number. -/
def addressee (d : Die) (m : CollMsg) : Option Coll :=
  if m.inbound then d.colls.find? fun c => c.comm == m.comm && c.seq == m.seq else findColl d m.inst

def meeting (s : State) (m : CollMsg) : Meeting :=
  let d := dieOf s m.dst
  match addressee d m with
  | some c => if c.key = m.key ∧ c.rank = m.toRank then (if collActive d c then .agrees c else .early) else .disagrees
  | none =>
    let e := commOf d m.comm
    if e.err ∨ m.inst ∈ d.stoppedColls then .stale
    else if e.valid ∧ e.iseq ≠ m.seq ∧ seqFrom m.seq e.iseq then .disagrees
    else .early

/-- A message of one sort that its receiver can take out of the fabric, or, sunk before, give to its collective. -/
def arrivesHere (s : State) (sort : CollBody → Bool) (m : CollMsg) : Bool :=
  sort m.body && (if m.sunk then meeting s m != .early else m.frames == [] && canAccept s (messageItem m))

/-- Where a disagreement lies (R336, R438): at the first sequence number of the communicator at which sender and receiver have
posted different collectives, or at the message's. -/
def disagreesAt (s : State) (m : CollMsg) : BitVec 32 × Nat :=
  match (dieOf s m.dst).colls.find? fun c => c.comm == m.comm && seqFrom c.seq m.seq
      && (match findColl (dieOf s m.src) c.inst with | some x => x.key != c.key | none => false) with
  | some c => (c.seq, c.inst)
  | none => (m.seq, m.inst)

/-- A message arrives: taken, discarded, or the members disagree (R336 cause 2); one whose collective is not posted yet sinks and
waits. The engine's access to a buffer under an erased key slot ends the context (R402). -/
def receiveMsg (m : CollMsg) (accept : Coll → State → State) (s : State) : State :=
  match meeting s m with
  | .agrees c => match collErased s c with
    | some p => erasedFault m.dst c.ctx p (dropMsg m s)
    | none => accept c (dropMsg m s)
  | .disagrees => failColl m.dst m.comm (disagreesAt s m).1 (disagreesAt s m).2 m.key m.toRank 2 (dropMsg m s)
  | .stale => dropMsg m s
  | .early => freeRequest (messageItem m) (modMessage m.id (fun x => { x with sunk := true, route := { x.route with drained := false } }) s)

/-- An arrival of one sort by its number. -/
def arrivalOp (sort : CollBody → Bool) (id : Nat) (accept : CollMsg → Coll → State → State) (s : State) :
    Outcome State Fault Refusal :=
  finish (do
    let m ← orStop (← read fun s => (messageAt s id).filter (arrivesHere s sort)) .absent
    update (receiveMsg m (accept m))) s

def isContribution : CollBody → Bool | .contribution .. => true | _ => false
def isResult : CollBody → Bool | .result .. => true | _ => false
def isCredit : CollBody → Bool | .credit _ => true | _ => false
def isBarrierMsg : CollBody → Bool | .arrival | .release => true | _ => false
def isFailure : CollBody → Bool | .failure _ => true | _ => false

/-- The residues of all elements of a contribution pass (R96). -/
def codesCheck (k : CollKey) (first : Nat) (codes : List Nat) (sums : NMap Sum) : Bool :=
  ((List.range codes.length).zip codes).all fun x => contributionChecks k x.2 ((nget sums (first + x.1)).getD Sum.empty)

/-- The sums of the elements of a contribution with it added. -/
def addCodes (k : CollKey) (rank first : Nat) (codes : List Nat) (sums : NMap Sum) : NMap Sum :=
  ((List.range codes.length).zip codes).foldl (fun m x =>
    nset m (first + x.1) (addContribution k rank x.2 ((nget m (first + x.1)).getD Sum.empty))) sums

/-- Every rank has contributed to every element of a part. -/
def partFull (k : CollKey) (sums : NMap Sum) (p : Nat × Nat) : Bool :=
  (List.range (p.2 - p.1)).all fun i =>
    match nget sums (p.1 + i) with | some x => decide (ranks k ≤ x.ranks.length) | none => false

/-- The owner reads out, writes and passes on the results of its part of a chunk (R331, R332). -/
def finishPart (peer : Nat) (c : Coll) (chunk : Nat) (sums : NMap Sum) (s : State) : State :=
  let first := (part c chunk c.rank).1
  let n := (part c chunk c.rank).2 - first
  let rs := (List.range n).map fun i => sumResult c.key ((nget sums (first + i)).getD Sum.empty)
  let fl := rs.foldl (fun f r => f ||| r.2) 0
  let codes := rs.map Prod.fst
  grantCredits peer (modColl peer c.inst (fun c => { c with
    sums := (List.range n).foldl (fun m i => ndel m (first + i)) sums
    granted := c.granted.filter (· != chunk)
    written := c.written + n
    flags := c.flags ||| fl
    results := if c.key.kind = .ar then c.results ++ [(first, codes, fl)] else c.results }) (writeReduced c first codes s))

/-- A contribution at its owner (R332), with the residue check at the chunk's end (R96, R97, R336 cause 4). -/
def acceptContribution (m : CollMsg) (c : Coll) (s : State) : State :=
  match m.body with
  | .contribution chunk first codes =>
    let misses := if codesCheck c.key first codes c.sums then s.turn.residue else 2
    let s1 := if misses = 0 then s
      else logEvent (m.dst / 4) .residueRepeat m.dst [c.comm, c.seq.toNat] s
    if 2 ≤ misses then failHere m.dst c 4 s1
    else
      let sums := addCodes c.key m.fromRank first codes c.sums
      if partFull c.key sums (part c chunk c.rank) then finishPart m.dst c chunk sums s1
      else modColl m.dst c.inst (fun c => { c with sums := sums }) s1
  | _ => s

/-- `CONTRIBUTION_ARRIVAL` (R332). -/
def execContributionArrival (id : Nat) (s : State) : Outcome State Fault Refusal :=
  arrivalOp isContribution id acceptContribution s

/-- Results or copies at a rank (R331). -/
def acceptResult (m : CollMsg) (c : Coll) (s : State) : State :=
  match m.body with
  | .result first codes src fl =>
    modColl m.dst c.inst (fun c => { c with
        written := c.written + codes.length, flags := c.flags ||| fl
        sources := if reduces c.key.kind then c.sources else landedSources c first codes src })
      (if reduces c.key.kind then writeReduced c first codes s else writeCopied c first codes src s)
  | _ => s

/-- `RESULT_DATA_ARRIVAL` (R331). -/
def execResultDataArrival (id : Nat) (s : State) : Outcome State Fault Refusal := arrivalOp isResult id acceptResult s

/-- A credit at a sender (R326). -/
def acceptCredit (m : CollMsg) (c : Coll) (s : State) : State :=
  match m.body with
  | .credit chunk => modColl m.dst c.inst (fun c => { c with credits := c.credits ++ [(m.fromRank, chunk)] }) s
  | _ => s

/-- `CREDIT_GRANT` (R326). -/
def execCreditGrant (id : Nat) (s : State) : Outcome State Fault Refusal := arrivalOp isCredit id acceptCredit s

/-- A barrier message (R331). -/
def acceptBarrier (m : CollMsg) (c : Coll) (s : State) : State :=
  modColl m.dst c.inst (fun c => match m.body with
    | .release => { c with released := true }
    | _ => { c with arrived := c.arrived ++ [m.fromRank] }) s

/-- `BARRIER_MESSAGE` (R331). -/
def execBarrierMessage (id : Nat) (s : State) : Outcome State Fault Refusal := arrivalOp isBarrierMsg id acceptBarrier s

/-- `COLLECTIVE_FAILURE_MESSAGE` (R336): it needs no collective to meet. -/
def execCollectiveFailureMessage (id : Nat) (s : State) : Outcome State Fault Refusal :=
  finish (do
    let m ← orStop (← read fun s => (messageAt s id).filter fun m =>
      isFailure m.body && (m.sunk || (m.frames == [] && canAccept s (messageItem m)))) .absent
    match m.body with
    | .failure cause => update fun s => failMember m.dst m.comm m.seq m.inst cause (dropMsg m s)
    | _ => raise .absent) s

/-! ## Completion (R333, R334, R339) -/

/-- Elements that the rank's buffer receives. -/
def toWrite (c : Coll) : Nat :=
  let sh := shard c.key c.rank
  match c.key.kind with
  | .rs => sh.2 - sh.1
  | .ar => c.key.count
  | .bc => if c.rank = c.key.root then 0 else c.key.count
  | .ag => c.key.count - (sh.2 - sh.1)
  | .bar | .barRt => 0

/-- Every member of the pod has issued the collective. -/
def allIssued (c : Coll) : Bool := (otherPeers c.key c.rank).all c.joined.contains

/-- A `claimt` holds a word that the counter's add touches: the add waits (R360). -/
def counterHeld (s : State) (c : Coll) : Bool :=
  match c.ctr with
  | some p => (dieOf s (fpaPeer p.fpa)).claims.any fun x => decide (p.fpa < x.1 + 16 ∧ x.1 < p.fpa + 8)
  | none => false

/-- The issuing thread is saved: its `fflags` are not there to write (log 32). -/
def ownerSaved (s : State) (peer : Nat) (c : Coll) : Bool :=
  match launchOf s (peer / 4) c.owner.1 with
  | some l => l.saved.any fun x => x.tid == c.owner.2
  | none => false

/-- The collective can complete on its die: it is the oldest of its communicator, and no older one of the thread has still
to increment the same counter. -/
def collDone (s : State) (peer : Nat) (c : Coll) : Bool :=
  let d := dieOf s peer
  ((d.colls.find? (sameComm · c)).map (·.inst)) == some c.inst
    && ! sendsLeft c && decide (toWrite c ≤ c.written) && c.unacked == [] && (! isBarrier c.key.kind || c.released)
    && allIssued c && ! ownerSaved s peer c && ! counterHeld s c
    && ! (olderColls d c).any fun x => x.owner == c.owner && x.ctr == c.ctr && c.ctr.isSome

/-- Step 2 of completion: a barrier of routes switches the active table. -/
def switchTables (d : Die) : Die := { d with rtsel := ! d.rtsel, rtLoaded := false }

/-- The steps of completion (R333). -/
def completeColl (peer : Nat) (c : Coll) (s : State) : State :=
  let s1 := modThreads (fun t => t.status == .running && threadId t == c.owner) (addFlags c.flags) s
  let s2 := modDie peer (fun d =>
    let d1 := if c.key.kind = .barRt then switchTables d else d
    { d1 with colls := d1.colls.filter fun x => x.inst != c.inst }) s1
  let s3 := match c.ctr with
    | some p => engineAtomic peer c.ctx p .add 1 s2
    | none => s2
  grantCredits peer (modComm peer c.comm (fun e => if e.epoch = c.epoch then { e with cseq := e.cseq + 1 } else e) s3)

/-- `COLLECTIVE_COMPLETION` (R333): the oldest collective of a communicator; a barrier of routes with no table loaded fails
(R339). -/
def execCollectiveCompletion (peer comm : Nat) (s : State) : Outcome State Fault Refusal :=
  finish (do
    let c ← orStop (← read fun s => (dieOf s peer).colls.find? fun c => c.comm == comm && collDone s peer c) .absent
    update fun s =>
      if c.key.kind = .barRt ∧ ! (dieOf s peer).rtLoaded then failHere peer c 5 s
      else completeColl peer c s) s

/-! ## Frames to other pods (R338, R341) -/

/-- Frames that a message takes: 9,216 bytes each. -/
def frameCount (m : CollMsg) : Nat := max 1 ((trafficOf.messageBytes m + 9215) / 9216)

/-- A message to another pod that has reached its I/O die goes out as frames. -/
def sendFrames (id : Nat) (s : State) : State :=
  modMessage id (fun m =>
    if m.far.isSome && ! m.inbound && m.frames == [] && atDestination (messageItem m) then
      { m with frames := List.replicate (frameCount m) { lost := 0, sent := s.time } }
    else m) s

/-- A message with outstanding frames and the port that they use. -/
def framesOf (s : State) (id : Nat) : Option (CollMsg × Nat) :=
  (messageAt s id).bind fun m => if m.frames = [] then none else m.far.map fun f => (m, f.port)

/-- A message from another pod starts at the I/O die of its receiver (R338, log 43). -/
def enterInbound (s : State) (m : CollMsg) : State :=
  let port := match m.far with | some f => 69 + f.port | none => 69
  putMessage { m with
    id := s.fresh, inbound := true, frames := [], sunk := false, sent := s.time
    route := { Route.start (m.dst / 4) 4 (commOf (dieOf s m.dst) m.comm).vc.toNat s.fresh with port := port } } s

/-- `FRAME_ACK` (R338, R341): on a LIVE port, or within the 100 µs of a drain, the far die acknowledges the oldest frame of a message; with the last the message is delivered. -/
def execFrameAck (id : Nat) (s : State) : Outcome State Fault Refusal :=
  finish (do
    let (m, p) ← orStop (← read (framesOf · id)) .absent
    let st ← read fun s => portOf s (m.src / 4) p
    enabled ((match st with | .live => true | .draining since => decide (s.time < since + 100000) | _ => false) = true)
    update fun s =>
      if m.frames.length ≤ 1 then messageAcked { m with dst := m.src } s
      else modMessage id (fun x => { x with frames := x.frames.tail }) s) s

/-- A frame is due to be sent again: 20 µs without acknowledgement. -/
def frameDue (now : Nat) (f : Frame) : Bool := decide (f.sent + 20000 ≤ now)

/-- The first due frame is sent again. -/
def resendFirst (now : Nat) : List Frame → List Frame
  | [] => []
  | f :: fs => if frameDue now f then { lost := f.lost + 1, sent := now } :: fs else f :: resendFirst now fs

/-- `FRAME_RESEND` (R338), on a LIVE port: the eighth loss fails the collective with cause 6. -/
def execFrameResend (id : Nat) (s : State) : Outcome State Fault Refusal :=
  finish (do
    let (m, p) ← orStop (← read (framesOf · id)) .absent
    let f ← orStop (← read fun s => m.frames.find? (frameDue s.time)) .absent
    enabled ((← read fun s => portOf s (m.src / 4) p) = .live)
    update fun s =>
      if 8 ≤ f.lost + 1 then
        failColl m.src m.comm m.seq m.inst m.key m.fromRank 6 (dropMessages (fun x => x.id == id) s)
      else modMessage id (fun x => { x with frames := resendFirst s.time x.frames }) s) s

end Sys2Proof.Machine
end

