-- ==== Sys2Proof/Machine/Exit.lean ====
section
/-! DEFINITION. The end of a thread by `exit` (R357). -/

namespace Sys2Proof.Machine

open Host (Outcome)

/-- The current thread ends and its slot is free: it leaves its sets, its launch counts it no more (R354, R357, R397). -/
def endThread (s : State) : State :=
  let t := s.thr
  let s1 := dropMessage t.place (leaveSets t.place.peer (threadId t) s)
  let s2 := modLaunch (t.place.peer / 4) t.u.lid (fun l => { l with live := l.live.filter (· != t.u.tid) }) s1
  vacate (fun u => u.status == .running && u.place == t.place) s2

/-- `exit` (R357): its waits, in order, with the traps that they may take (R264, R297, R336). -/
noncomputable def execExit (s : State) : Outcome State Fault Refusal :=
  finish (do
    checkWord .exit false false true
    let t ← read (·.thr)
    require ((← read streamsIdle) = true) (.wait .other)
    raiseMatrix
    faultStopped t.tr
    require (t.tr.all (fun x => ! transferLive x) = true) (.wait .other)
    raiseFailure t fun _ => true
    let cs ← read ownColls
    require (cs = []) (.wait .other)
    let ps ← read fun s => s.packets.filter (ownPacket s.thr)
    require (ps = []) (.wait .other)
    update endThread) s

end Sys2Proof.Machine
end

