-- ==== Sys2Proof/Machine/System.lean ====
section
/-! DEFINITION. The system instructions of major 0x1D (R340, R370 to R374, R382 to R389): return from a trap, breakpoint,
cache invalidations, saving and restoring a context, `halt`, and posting a fabric command. -/

namespace Sys2Proof.Machine

open Host (Outcome)

/-! ## Returning (R373, R374) -/

/-- The first replayed entry starts where `vstart` and `rep` say (R137, R186). -/
def startAt (u : UserCsrs) (e : VEntry) : VEntry :=
  { e with
    start := u.vstart.toNat, vstart := u.vstart.toNat, pos := u.vstart.toNat, wpos := u.vstart.toNat, buf := [], checked := false,
    ctr := none, first := if e.rep.isSome then u.rep.toNat else e.j, j := if e.rep.isSome then u.rep.toNat else e.j }

/-- The vector registers that an entry has still to write (R144). -/
def entryDests (e : VEntry) : List Nat :=
  match e.link, e.ins, vword e.ins with
  | some _, .mrd vd _ _, _ => [vd.toNat]
  | none, _, some (v, f) =>
    ((List.range (entryCount e)).drop e.j).flatMap fun j => destRegs e.ins v (f.atRepeat e.rep j) e.long
  | _, _, _ => []

/-- The thread returns with its saved entries behind those it has; enqueued again, they clear the landed bits of the registers that
they write (R144, R373). -/
def returnWith (es : List VEntry) (t : Thread) : Thread :=
  match es with
  | [] => leaveTrap [] t
  | e :: rest =>
    let u := setLanded false (es.flatMap entryDests) (leaveTrap (startAt t.u e :: rest) t)
    { u with u := { u.u with vstart := 0, rep := if e.rep.isSome then 0 else u.u.rep } }

/-- The promises of the transfers that the context save held are computed anew (R384). -/
def renewPromises (held : List Nat) (s : State) : State :=
  held.foldl (fun u o => modTransfer o (fun x => { x with promise := promiseOf u x }) u) s

/-- `eret` (R373); a held trap of the vector stream is taken before any instruction at the returned-to address (R374). DEDUCED (log 93):
it waits while the queue has no room for the saved entries, unless the stream is stopped at a held trap. -/
def execEret (s : State) : Outcome State Fault Refusal :=
  finish (do
    checkWord .eret true false true
    let t ← read (·.thr)
    let es ← if t.host then pure [] else restoreQueue
    require (t.v.held.isSome ∨ es = [] ∨ fitsBlock (t.v.vq ++ es) = true) (.wait .vqFull)
    modThr (returnWith es)
    update (renewPromises ((t.tr.filter fun x => x.held && x.state == .running).map (·.order)))
    update takeHeld
    runStream) s

/-! ## `brk`, `l1inv`, `winv` (R388) -/

/-- `brk` (R388). -/
def execBrk (s : State) : Outcome State Fault Refusal :=
  finish (do
    checkWord .brk false false true
    trapC .breakpoint 0) s

/-- `l1inv` (R388): on a host core its own instruction lines (R392, log 94). -/
def execL1inv (s : State) : Outcome State Fault Refusal :=
  scalarOp .l1inv true (update fun s => codeClear s.thr.place (if s.thr.host then s else l1Clear s)) s

/-- `winv` (R388). -/
def execWinv (s : State) : Outcome State Fault Refusal := scalarOp .winv true (update windowClear) s

/-! ## The save area (R151, R383) -/

/-- A kernel-mode store of 8 bytes. -/
def save8 (va v : Word) : Op Unit := do
  let r ← access .store true 8 va
  plainStore r 8 v.toNat

/-- Words at rising addresses. -/
def saveWords (va : Word) : List Word → Op Unit
  | [] => pure ()
  | v :: vs => do
    save8 va v
    saveWords (va + 8) vs

/-- n words from an address. -/
def loadWords : Nat → Word → Op (List Word)
  | 0, _ => pure []
  | n + 1, va => do
    let r ← access .load true 8 va
    let v ← loadRef r 8
    let vs ← loadWords n (va + 8)
    pure (BitVec.ofNat 64 v :: vs)

/-- A wide register as words, and back. -/
def wordsOf {w : Nat} (x : BitVec w) (n : Nat) : List Word := (List.range n).map fun i => x.extractLsb' (64 * i) 64
def ofWords (w : Nat) (vs : List Word) : BitVec w :=
  BitVec.ofNat w (((List.range vs.length).zip vs).map fun x => x.2.toNat * 2 ^ (64 * x.1)).sum

/-- Records move from one block to another, byte for byte, and stay the records that they are (R371). -/
def copyRecords (src dst : Word) (n : Nat) : Op Unit :=
  forEach (List.range n) fun i => do
    let a ← access .load true 64 (src + BitVec.ofNat 64 (64 * i))
    let x ← loadPart a 64
    let b ← access .store true 64 (dst + BitVec.ofNat 64 (64 * i))
    storePart b 64 x.1 x.2

/-- The block's records and scalars (R371, R383). -/
def copyBlock (fromRecords fromScalars toRecords toScalars : Word) (n : Nat) : Op Unit :=
  if n = 0 then pure ()
  else do
    copyRecords fromRecords toRecords n
    copyRecords fromScalars toScalars 32

/-- An address of the save area. -/
def areaAt (a : Word) (off : Nat) : Word := a + BitVec.ofNat 64 off

/-- HWS after a save (R151). -/
def nextHws (c : LongCtx) (r : Nat) : BitVec 6 :=
  if vget c.dirty r false then
    BitVec.ofNat 6 (max (vget c.hws r 0).toNat ((vget c.hw r 0).toNat + 1))
  else vget c.hws r 0

/-- A long context after a save: nothing dirty. -/
def cleanContext (c : LongCtx) : LongCtx :=
  { c with
    dirty := .replicate 48 false
    hw := .replicate 48 0
    hws := Vector.ofFn fun (i : Fin 48) => nextHws c i.val }

/-- The long registers: element groups 0 to HW of every dirty one, all masks, and the HWS bytes. -/
def saveLong (a : Word) (c : LongCtx) : Op Unit := do
  saveWords (areaAt a 0x1C40) (ofBytes ((List.range 48).map fun r => (nextHws c r).toNat))
  forEach (List.range 48) fun r =>
    if vget c.dirty r false then
      saveWords (areaAt a (0x10000 + 1024 * r)) (wordsOf (vget c.regs r 0) (4 * ((vget c.hw r 0).toNat + 1)))
    else pure ()
  saveWords (areaAt a 0x1C000) ((List.range 12).flatMap fun k => wordsOf (vget c.masks k 0) 16)
where
  /-- Bytes as words. -/
  ofBytes (bs : List Nat) : List Word :=
    (List.range (bs.length / 8)).map fun i => BitVec.ofNat 64 (leNat (fun j => BitVec.ofNat 8 (bs.getD (8 * i + j) 0)) 8)

/-- The short registers and masks. -/
def saveShort (a : Word) (v : VectorState) : Op Unit := do
  saveWords (areaAt a 0x1600) ((List.range 48).flatMap fun r => wordsOf (vget v.short r 0) 4)
  saveWords (areaAt a 0x1C00) ((List.range 6).map fun i => vget v.smask (2 * i + 1) 0 ++ vget v.smask (2 * i) 0)

/-- The tiles and the scratchpad of the Span. What the B-store holds goes with the device's own record (log 67). -/
def saveGroup (a : Word) : Op Unit := do
  let s ← get
  let x := mySpan s
  let n := partNtile (partOf x)
  forEach (List.range n) fun k =>
    saveWords (areaAt a (0x20000 + 0x10000 * k))
      ((List.range 4096).flatMap fun i => wordsOf (tileEntry (tileOf x k) (i / 64) (i % 64)) 2)
  saveWords (areaAt a (0x20000 + 0x10000 * n))
    ((List.range (padLimit x / 8)).map fun i =>
      BitVec.ofNat 64 (memRead s 0 (fpaOf (myPeer s) s.thr.place.span 0 (8 * i)) 8))

/-- The thread as `ctxsave` finds it once it has stopped what runs for it: a matrix multiply at its K-step, its transfers
held, its dirty bits clear (R151, R260, R384). -/
def heldThread (t : Thread) : Thread :=
  { t with
    tq := match t.tq with | e :: es => { e with started := e.started && e.push.isSome } :: es | [] => []
    tr := t.tr.map fun x => { x with held := x.state == .running }
    v := { t.v with long := t.v.long.map cleanContext } }

/-- An integer-kind multiply that a save interrupts has its adders checked there (R97, R257). -/
def heldResidue (s : State) : State :=
  match s.thr.tq with
  | e :: _ =>
    if e.started && e.push.isNone then
      match (trussResidue e).run s with
      | .ok (.error c) s' => { spoilTile e c s' with thr := failHead c s'.thr }
      | .ok (.ok _) s' => s'
      | .error _ _ => s
    else s
  | [] => s

/-- The oldest Truss entry, if it runs, stops only at a K-step boundary: any but a multiply completes first (R260). -/
def trussStops (t : Thread) : Bool :=
  match t.tq with
  | e :: _ => ! e.started || e.push.isSome || (match e.ins with | .mmav .. | .mmat .. | .mmatG .. => true | _ => false)
  | [] => true

/-- Every other thread of the launch on the Span is saved (R384). -/
def lastUnsaved (s : State) : Bool :=
  (spanThreads s (myPeer s) s.thr.place.span).all fun t =>
    t.place == s.thr.place || t.u.lid != s.thr.u.lid || t.k.saved

/-- The tags of the Span's tiles and the descriptors of its scratchpad's sectors. -/
def groupTags (x : Span) : List TileTag := (List.range (partNtile (partOf x))).map fun k => (tileOf x k).tag
def padSectors (s : State) : List Sector :=
  (List.range (padLimit (mySpan s) / 64)).map fun i => sectorOf s (fpaOf (myPeer s) s.thr.place.span 0 (64 * i) / 64)

/-- The B-store of the Span by offset: its bytes, and its descriptors (log 67). -/
def bstoreBase (p : Place) : Nat := fpaOf p.peer p.span 1 0
def bstoreSize : Nat := 2 ^ 20
def inBstore (p : Place) (a : Nat) : Bool := decide (bstoreBase p ≤ a ∧ a < bstoreBase p + bstoreSize)
def bstoreCells (s : State) : List Host.Cell :=
  (s.mem.filter fun c => inBstore s.thr.place c.1).map fun c => (c.1 - bstoreBase s.thr.place, c.2)
def bstoreSectors (s : State) : NMap Sector :=
  (s.sectors.filter fun x => inBstore s.thr.place (64 * x.1)).map fun x => (x.1 - bstoreBase s.thr.place / 64, x.2)

/-- What `ctxsave` waits for (R384): the thread's copies, and all else it has sent, too. A user-mode entry that runs is waited for too; one held at a trap is saved (log 33). -/
def saveReady (s : State) : Bool :=
  let t := s.thr
  t.v.vq.all (fun e => ! e.kernel) && (t.v.vq.isEmpty || t.v.held.isSome) && t.v.nbq.isEmpty && trussStops t
    && ! s.packets.any (ownPacket t)

/-- The parts of a context's record (R383): the state block, the Truss entries, the transfers, the staged operands. -/
def statePart : Nat := 200
def trussPart : Nat := 300
def transferPart : Nat := 400
def stagedPart : Nat := 600

/-- The writes of a context into its area (R383). -/
def saveContext (a : Word) (stamp : Nat) (leader : Bool) (t : Thread) : Op Unit := do
  recordWrite stamp statePart a 512
  saveWords (areaAt a 0x200) ((List.range 7).map fun i => vget t.sc.globals (i + 1) 0)
  forEach (List.range 8) fun q => saveWords (areaAt a (0x400 + 128 * q)) (queueAt t q)
  saveWords (areaAt a 0x800) t.sc.win.toList
  (match t.v.long with
    | some c => saveLong a c
    | none => saveShort a t.v)
  saveWords (areaAt a 0x2000) (t.shp.toList.flatMap fun x => wordsOf x 8)
  recordWrite stamp trussPart (areaAt a 0x2400) (64 * t.tq.length)
  copyBlock (areaAt t.k.kvq 0x800) (areaAt t.k.kvq 0x1800) (areaAt a 0x4000) (areaAt a 0x5000) t.k.vqn
  recordWrite stamp transferPart (areaAt a 0x6000) (256 * t.tr.length)
  recordWrite stamp stagedPart (areaAt a 0x8000) (1024 * (t.tq.map fun e => e.regs.length).sum)
  if leader then saveGroup a else pure ()

/-- The context is saved, and the instruction complete. -/
def savedAt (a : Word) (t : Thread) : Thread := retire { t with saving := none, k := { t.k with saved := true, ksave := a } }

/-- `ctxsave` makes its stores, with the device's own record. Where some went to other dies, it still waits for their
acknowledgements. -/
def saveHere (a : Word) (s : State) : Op Unit := do
  let u ← get
  require (saveReady u = true) (.wait .other)
  let leader := lastUnsaved u
  update fun w => { w with fresh := w.fresh + 1 }
  update heldResidue
  let u ← get
  keepAccesses s.thr (saveContext a u.fresh leader u.thr)
  modThr heldThread
  update fun w => { w with
    vault := nset w.vault u.fresh
      (.context w.thr (mySpan w).poolcap leader (groupTags (mySpan w)) (padSectors w) (bstoreCells w) (bstoreSectors w)) }
  let out ← read fun w => w.packets.any (ownPacket w.thr)
  modThr fun t => if out then { t with saving := some u.fresh, wait := some .other, sc := s.thr.sc } else savedAt a t

/-- `ctxsave` (R384). -/
def execCtxsave (ra : BitVec 7) (s : State) : Outcome State Fault Refusal :=
  finish (do
    checkWord (.ctxsave ra) true false (srcS ra)
    let a ← readS ra
    require (a.toNat % 65536 = 0) (.trap (causeCode .misaligned) a)
    if s.thr.saving.isSome then do
      require (s.packets.any (ownPacket s.thr) = false) (.wait .other)
      modThr (savedAt a)
    else saveHere a s) s

/-! ## Restoring a context (R385) -/

/-- The records that the sectors of a state block belong to. -/
def blockStamps (a : Word) : List Nat → Op (List (Option Nat))
  | [] => pure []
  | i :: is => do
    let r ← access .load true 64 (a + BitVec.ofNat 64 (64 * i))
    let x ← loadPart r 64
    let st ← read fun s => recordOf s x 64 (statePart + i)
    let rest ← blockStamps a is
    pure (st :: rest)

/-- The context that an area holds: its check code covers the launch handle and the thread index of the thread that saved
(R383), and no sector of the state block has been changed. -/
def contextAt (a : Word) (t : Thread) : Op (Option VaultRecord) := do
  let sts ← blockStamps a (List.range 8)
  read fun s => match sts.head?.join with
    | some st => match nget s.vault st with
      | some x => match x with
        | .context c _ _ _ _ _ _ => if threadId c = threadId t ∧ sts.all (· == some st) then some x else none
        | .queue _ => none
      | none => none
    | none => none

/-- A long context as the area holds it: groups 0 to HWS − 1 of each register, the others zero (R151). -/
def loadLong (a : Word) : Op LongCtx := do
  let hs ← loadWords 6 (areaAt a 0x1C40)
  let hws : List Nat := (List.range 48).map fun r => ((ofWords 384 hs).extractLsb' (8 * r) 6).toNat
  let regs ← loadRegs hws 0
  let ms ← loadWords 192 (areaAt a 0x1C000)
  pure { freshContext with
    regs := Vector.ofFn fun (i : Fin 48) => regs.getD i.val 0
    masks := Vector.ofFn fun (i : Fin 12) => ofWords 1024 ((ms.drop (16 * i.val)).take 16)
    hws := Vector.ofFn fun (i : Fin 48) => BitVec.ofNat 6 (hws.getD i.val 0) }
where
  /-- The registers one after the other. -/
  loadRegs : List Nat → Nat → Op (List VReg)
    | [], _ => pure []
    | h :: hs, r => do
      let ws ← loadWords (4 * min h 32) (areaAt a (0x10000 + 1024 * r))
      let rest ← loadRegs hs (r + 1)
      pure (ofWords 8192 ws :: rest)

/-- The queues as the area holds them, as long as the saved ones. -/
def loadQueues (a : Word) (c : Thread) : List Nat → Op (List (List Word))
  | [] => pure []
  | q :: qs => do
    let ws ← loadWords (queueAt c q).length (areaAt a (0x400 + 128 * q))
    let rest ← loadQueues a c qs
    pure (ws :: rest)

/-- The vector registers as the area holds them. -/
def loadVector (a : Word) (c : Thread) : Op VectorState := do
  match c.v.long with
  | some _ => do
    let l ← loadLong a
    pure { c.v with long := some l }
  | none => do
    let rs ← loadWords 192 (areaAt a 0x1600)
    let ms ← loadWords 6 (areaAt a 0x1C00)
    pure { c.v with
      short := Vector.ofFn fun (i : Fin 48) => ofWords 256 ((rs.drop (4 * i.val)).take 4)
      smask := Vector.ofFn fun (i : Fin 12) => (ofWords 384 ms).extractLsb' (32 * i.val) 32 }

/-- The kernel registers of a saved context in a restored thread (R382, R385): its slot, its mode and its pending request stay. -/
def restoreKernel (now saved : KernelCsrs) : KernelCsrs :=
  { saved with
    km := now.km, ie := now.ie, ne := now.ne, saved := now.saved, ip0 := now.ip0, kvq := now.kvq, ksave := now.ksave }

/-- The thread with the items of a context (R382). -/
def restoreThread (c : Thread) (globals win shp : List Word) (queues : List (List Word)) (v : VectorState) (t : Thread) : Thread :=
  { t with
    sc := {
      globals := Vector.ofFn fun (i : Fin 8) => if i.val = 0 then 0 else globals.getD (i.val - 1) 0
      win := Vector.ofFn fun (i : Fin 448) => win.getD i.val 0
      wb := c.sc.wb
      queues := Vector.ofFn fun (i : Fin 8) => queues.getD i.val [] }
    shp := Vector.ofFn fun (i : Fin 16) => ofWords 512 ((shp.drop (8 * i.val)).take 8)
    u := { c.u with lid := t.u.lid, nthr := t.u.nthr, arg := t.u.arg, part := t.u.part }
    ce := c.ce
    k := restoreKernel t.k c.k
    v := { v with
      vq := t.v.vq ++ c.v.vq, nbq := t.v.nbq ++ c.v.nbq, outs := t.v.outs ++ c.v.outs, parked := t.v.parked ++ c.v.parked, lg := t.v.lg }
    tq := t.tq ++ c.tq
    tr := t.tr ++ c.tr
    issued := max t.issued c.issued }

/-- The B-store of the Span takes what a record holds of another (log 67). -/
def restoreBstore (cells : List Host.Cell) (secs : NMap Sector) (s : State) : State :=
  let p := s.thr.place
  let s1 := { s with
    mem := s.mem.filter (fun c => ! inBstore p c.1)
    sectors := s.sectors.filter fun x => ! inBstore p (64 * x.1) }
  let s2 := cells.foldl (fun u c => placeByte u (bstoreBase p + c.1) c.2) s1
  secs.foldl (fun u x => setSector u (bstoreBase p / 64 + x.1) x.2) s2

/-- The tiles and the scratchpad of a group leader. -/
def loadGroup (a : Word) (tags : List TileTag) (secs : List Sector) : Op Unit := do
  let p ← read (·.thr.place)
  forEach ((List.range tags.length).zip tags) fun x => do
    let ws ← loadWords 8192 (areaAt a (0x20000 + 0x10000 * x.1))
    update (setTile x.1 ((List.range 4096).foldl (fun t i =>
      setEntry (i / 64) (i % 64) (ofWords 128 ((ws.drop (2 * i)).take 2)) t) ⟨x.2, []⟩))
  forEach ((List.range secs.length).zip secs) fun x => do
    let ws ← loadWords 8 (areaAt a (0x20000 + 0x10000 * tags.length + 64 * x.1))
    let f := fpaOf p.peer p.span 0 (64 * x.1)
    update fun s => setSector (placeBytes f 64 (ofWords 512 ws).toNat s) (f / 64) x.2

/-- What a restore reads from the area and writes (R385); the group's part comes while the page tables are still those of the
dispatch. -/
def restoreContext (a : Word) (c : Thread) (leader : Bool) (tags : List TileTag) (secs : List Sector) (cells : List Host.Cell)
    (bsecs : NMap Sector) : Op Unit := do
  let k ← read fun s => s.thr.k
  let globals ← loadWords 7 (areaAt a 0x200)
  let queues ← loadQueues a c (List.range 8)
  let win ← loadWords 448 (areaAt a 0x800)
  let shp ← loadWords 128 (areaAt a 0x2000)
  let v ← loadVector a c
  copyBlock (areaAt a 0x4000) (areaAt a 0x5000) (areaAt k.kvq 0x800) (areaAt k.kvq 0x1800) c.k.vqn
  if leader then do
    loadGroup a tags secs
    update (restoreBstore cells bsecs)
    update (modMySpan fun y => { y with led := true })
  else pure ()
  modThr (restoreThread c globals win shp queues v)

/-- `ctxrest` (R385). -/
def execCtxrest (ra : BitVec 7) (s : State) : Outcome State Fault Refusal :=
  let i : Instr := .ctxrest ra
  finish (do
    checkWord i true false (srcS ra)
    let a ← readS ra
    require (a.toNat % 65536 = 0) (.trap (causeCode .misaligned) a)
    let t ← read (·.thr)
    match ← contextAt a t with
    | some (.context c cap leader tags secs cells bsecs) => do
      let x ← read mySpan
      require (c.u.part = t.u.part ∧ cap ≤ x.poolcap) (.trap (causeCode .poolCapacity) (c.u.part.setWidth 64))
      require (leader = true ∨ x.led = true) (.wait .other)
      if c.v.long.isSome ∧ ¬ (t.v.long.isSome ∧ t.v.lg = c.v.lg) then
        update fun u => modMySpan (fun y =>
          { y with waiters := y.waiters.filter (fun w => w.1 != t.place.slot) ++ [(t.place.slot, c.v.lg, t.v.long.isNone)] })
          { u with thr := { s.thr with wait := some .longMode, v := { s.thr.v with lg := 0 } } }
      else do
        restoreContext a c leader tags secs cells bsecs
        modThr fun u => retire (if c.v.long.isSome then u else { u with v := { u.v with long := none, lg := 0 } })
    | _ => raise (.trap (causeCode .illegalOperand) (wordVal i))) s

/-! ## `halt` (R386, R387) -/

/-- The thread becomes a saved thread of its launch (R353, R382). -/
def savedThread (s : State) : SavedThread where
  tid := s.thr.u.tid
  area := s.thr.k.ksave
  peer := s.thr.place.peer
  span := s.thr.place.span
  slot := s.thr.place.slot
  poolcap := (mySpan s).poolcap
  bound := (myDie s).sets.any (fun x => x.2.members.contains (threadId s.thr)) || ownColls s != []
  issued := s.thr.issued
  group := (mySpan s).group
  msg := vget (mySpan s).hmsg s.thr.place.slot HostMsg.empty

/-- A saved member has not arrived: a generation in progress waits for its restore (R363). -/
def unarrive (peer : Nat) (id : ThreadId) (s : State) : State :=
  modDie peer (fun d => { d with sets := d.sets.map fun x => (x.1, { x.2 with arrived := x.2.arrived.filter (· != id) }) }) s

/-- The thread leaves its slot and stays a saved thread; a host message of its slot goes with it (R397). -/
def parkThread (s0 : State) : State :=
  let t := s0.thr
  let x := savedThread s0
  let s := dropMessage t.place (unarrive t.place.peer (threadId t) s0)
  vacate (fun u => u.status == .running && u.place == t.place)
    (modLaunch (t.place.peer / 4) t.u.lid
      (fun l => { l with live := l.live.filter (· != t.u.tid), saved := if l.stopped then l.saved else l.saved ++ [x] }) s)

/-- The thread is terminated, and its launch will complete as failed. -/
def killThread (s : State) : State :=
  let t := s.thr
  terminate (fun u => u.place == t.place) (modLaunch (t.place.peer / 4) t.u.lid (fun l => { l with failed := true }) s)

/-- `halt` (R387). -/
def execHalt (s : State) : Outcome State Fault Refusal :=
  finish (do
    checkWord .halt true false true
    let t ← read (·.thr)
    update (if t.k.saved && ! t.host then parkThread else killThread)) s

/-! ## `xfmq` (R340) -/

/-- A command record. -/
def commandOf (x : BitVec 512) (p : Place) : Command where
  op := recField x 0 1
  target := recField x 1 1
  zero := decide (recField x 2 6 = 0 ∧ recField x 40 24 = 0)
  arg := BitVec.ofNat 64 (recField x 8 8)
  ctr := BitVec.ofNat 64 (recField x 16 8)
  inc := BitVec.ofNat 64 (recField x 24 8)
  stat := BitVec.ofNat 64 (recField x 32 8)
  place := p
  active := false

/-- `xfmq` (R340). -/
def execXfmq (ra : BitVec 7) (s : State) : Outcome State Fault Refusal :=
  finish (do
    checkWord (.xfmq ra) true false (srcS ra)
    let a ← readS ra
    let x ← loadRecord a
    let t ← read (·.thr)
    let n ← read fun s => (pkgOf s (myNode s)).commands.length
    require (n < 64) (.wait .other)
    update fun s => modPkg (myNode s) (fun p => { p with commands := p.commands ++ [commandOf x t.place] }) s
    modThr retire) s

end Sys2Proof.Machine
end

