-- ==== Sys2Proof/Machine/Fabric.lean ====
section
/-! DEFINITION. The fabric (R307 to R324): hops, requests at their homes, responses, the time-out detectors, the Keystone tokens, the
Causeway, planes and stations. -/

namespace Sys2Proof.Machine

open Host (Outcome)

def packetAt (s : State) (id : Nat) : Option Packet := s.packets.find? fun p => p.id == id

def putPacket (p : Packet) (s : State) : State := { s with packets := s.packets.map fun q => if q.id = p.id then p else q }
def dropPacket (id : Nat) (s : State) : State := { s with packets := s.packets.filter fun q => q.id != id }

/-! ## Hops (R309 to R311, R313) -/

/-- A hop over a Viaduct port is charged to its tenant and class (R391). -/
def chargeHop (x : Item) : Hop → State → State
  | .viaduct d => chargePort x.id x.route.node x.route.die d
  | _ => id

/-- `PACKET_HOP` (R311, R313): of a packet or a message; one to another pod leaves its I/O die as frames. -/
def execPacketHop (id : Nat) (hop : Hop) (s : State) : Outcome State Fault Refusal :=
  finish (do
    let x ← orStop (← read (itemAt · id)) .absent
    enabled ((← read fun s => ! x.route.drained && hopAllowed s x hop) = true)
    update fun s => sendFrames id (putRoute id (afterHop s.time s.fresh x hop) { chargeHop x hop s with fresh := s.fresh + 1 })) s

/-! ## Requests at their homes (R200, R205, R224, R321) -/

/-- The response of a request: it starts at the home, on the Causeway if the request was drained. -/
def respond (p : Packet) (c : Cargo) (s : State) : State :=
  let x := packetItem p
  let s1 := if x.route.drained then
    chargePort p.id x.toNode x.toDie (if x.fromNode = x.toNode then x.fromDie else 4) s else s
  putPacket { p with cargo := c, route := responseRoute x s.fresh }
    (takeCredit x (freeRequest x { s1 with fresh := s.fresh + 1 }))

/-- What kind of access a request makes, and how many bytes. -/
def requestKind : Cargo → Option (ReqKind × Nat)
  | .load n => some (.load, n)
  | .sector | .line _ | .code _ => some (.load, 64)
  | .store n _ | .part n _ _ => some (.store, n)
  | .put .. => some (.store, 64)
  | .hold | .release _ => some (.atomic, 16)
  | .reg n v => some (if v.isSome then .store else .load, n)
  | .atomic op _ => some (.atomic, atomicSize op)
  | .fetch op => some (.atomic, fetchSize op)
  | .data _ | .ack _ | .fault _ => none

/-- A request synchronises: it waits while a `claimt` holds a word that it touches (R360). -/
def waitsForWord (p : Packet) : Bool :=
  p.sync || (match p.cargo with | .atomic .. | .fetch _ | .hold => true | _ => false)

/-- The thread that sent a packet, if it still runs in its slot. -/
def sender (p : Packet) (t : Thread) : Bool := t.status == .running && t.place == p.place && threadId t == p.owner

/-- The sender of a packet still runs. -/
def senderRuns (s : State) (p : Packet) : Bool := (allThreads s).any (sender p)

/-- A reply with a value alone. -/
def valueReply (p : Packet) (v : Nat) : Cargo := .data ⟨p.loc.fpa, false, v, 0, 0, none⟩

/-- A reply with n bytes of the home from an address on, and with what their sector is. -/
def bytesReply (p : Packet) (code : Bool) (a n : Nat) (s : State) : Reply :=
  let sec := sectorOf s (a / 64)
  ⟨p.loc.fpa, code, memRead s p.loc.key a n, sec.fmt, sec.scale, seenRecord s p.loc.key a⟩

/-- A load performs: the reply, and what becomes of it at the issuer, or a fault. -/
def performLoad (p : Packet) (code : Bool) (a n : Nat) (take : Reply → State → State) (s : State) : Cargo × State :=
  if memoryBad s .load a n then (.fault .memoryError, s)
  else let x := bytesReply p code a n s; (.data x, take x s)

/-- A store of the Span that sent a request reaches its L1 as it performs (R188); a host core has none. -/
def reachL1 (p : Packet) (a n v : Nat) (s : State) : State :=
  if isHostPlace p.place then s else l1StoreAt p.place.peer p.place.span a n v s

/-- A write of TLBINV at its home (R380, R381): whether its invalidation is complete. Of a thread that has ended none is waited for. -/
def performInval (p : Packet) (v : Word) (s : State) : Bool × State :=
  let peer := fpaPeer p.loc.fpa
  if senderRuns s p then tryInval peer p.place v s
  else (true, modDie peer (fun d => { d with invals := d.invals.filter fun y => y.place != p.place }) (beginInval peer p.place v s))

/-- A register's read or write at its home (R192); a write that has to wait is answered by 1, and will be asked again. -/
def performReg (p : Packet) (n : Nat) (v : Option Nat) (s : State) : Cargo × State :=
  let a := p.loc.fpa
  match v with
  | none => (valueReply p (regValue s a n), readEffect (a / 8 * 8) s)
  | some v =>
    if isTlbinv a then
      let r := performInval p (BitVec.ofNat 64 v) s
      (valueReply p (if r.1 then 0 else 1), r.2)
    else match regStore p.place a n v s with
      | .ok _ s' => (valueReply p 0, s')
      | .error _ _ => (valueReply p 1, s)

/-- Step 1 of a `claimt` at the word's home (R360): the word is held, while its thread runs. -/
def performHold (p : Packet) (s : State) : Cargo × State :=
  if memoryBad s .atomic p.loc.fpa 16 then (.fault .memoryError, s)
  else (valueReply p (memRead s p.loc.key p.loc.fpa 16), if senderRuns s p then holdWord p.loc.fpa p.place s else s)

/-- A request performs at its home: the response, with what the home then holds (R200, R201, R206, R224). -/
def performRequest (p : Packet) (s : State) : Cargo × State :=
  let a := p.loc.fpa
  let k := p.loc.key
  match p.cargo with
  | .load n => performLoad p false a n (fun _ => id) s
  | .sector => performLoad p false (a / 64 * 64) 64 (fun _ => id) s
  | .line keep =>
    performLoad p false a 64 (fun x => if keep then windowFill p.place (a / 64) (x.toLine k) else id) s
  | .code keep =>
    performLoad p true a 64 (fun x => if keep then codeInstall p.place (a / 64) ⟨BitVec.ofNat 512 x.val, k⟩ else id) s
  | .store n v => (.ack 0, reachL1 p a n v (memWrite k a n v s))
  | .part n v r => (.ack 0, reachL1 p a n v (partWrite k a n v r s))
  | .put d f e => (.ack 0, reachL1 p (a / 64 * 64) 64 d.toNat (sectorWrite k (a / 64) d f e s))
  | .hold => performHold p s
  | .release next => (valueReply p 0, releaseAt p.loc p.place next s)
  | .reg n v => performReg p n v s
  | .atomic op v =>
    match atomicAt op v p.loc s with
    | (.ok fl, s') => (.ack fl, s')
    | (.error c, s') => (.fault c, s')
  | .fetch op =>
    match fetchAt op p.loc s with
    | (.ok v, s') => (valueReply p v, s')
    | (.error c, s') => (.fault c, s')
  | c => (c, s)

/-- A request performs and is answered. -/
def serve (p : Packet) (s : State) : State := respond p (performRequest p s).1 (performRequest p s).2

/-- Where a request fails at its home: at the target (R321), or under a key slot erased since it was sent (R402, log 42). -/
def requestFault (s : State) (p : Packet) (k : ReqKind) (n : Nat) : Option FatalCause :=
  if keyErased s p.loc.key p.loc.fpa then some .targetFault
  else targetFault s k p.place.peer (isHostPlace p.place) p.ctx p.loc.fpa n

/-- `REQUEST_AT_HOME` (R224, R321): checked against the export table, then performed; one that finds its word held leaves its input
and waits (R360). -/
def execRequestAtHome (id : Nat) (s : State) : Outcome State Fault Refusal :=
  finish (do
    let p ← orStop (← read (packetAt · id)) .absent
    enabled ((← read fun s => canAccept s (packetItem p)) = true)
    let (k, n) ← orStop (requestKind p.cargo) .absent
    match ← read fun s => requestFault s p k n with
    | some c => update (respond p (.fault c))
    | none =>
      if ← read fun s => waitsForWord p && heldWord s p.place p.loc.fpa n then do
        enabled (p.route.waiting = false)
        update (waitAtHome (packetItem p))
      else update (serve p)) s

/-! ## Responses (R206, R224, R322, R323) -/

/-- A response leaves the fabric, and its credit is free. -/
def endPacket (p : Packet) (s : State) : State := dropPacket p.id (freeCredit p.id (p.place.peer / 4) (placeDie p.place) s)

/-- A reply goes to the agent that asked. -/
def giveReply (p : Packet) (r : Reply) (t : Thread) : Thread :=
  match p.agent with
  | .scalar => { t with replies := t.replies ++ [r] }
  | .stream => { t with v := { t.v with vq := t.v.vq.map fun e => if e.age = p.age then { e with replies := e.replies ++ [r] } else e } }
  | .copy order => { t with tr := t.tr.map fun x => if x.order = order then { x with replies := x.replies ++ [r] } else x }
  | .truss => { t with tq := t.tq.map fun e => if e.age = p.age then { e with replies := e.replies ++ [r] } else e }

/-- Data of a load writes its element; the landed bit of the element's group is set once nothing for that group is out (R144,
R211). -/
def landElement (d : ElemDest) (r : Reply) (out : List ElemDest) (t : Thread) : Thread :=
  unland out (writeElem d.long d.reg d.elem d.sew (BitVec.ofNat 64 r.val) t)

/-- Data for a thread. -/
def landData (p : Packet) (r : Reply) (s : State) : State :=
  let out := (s.packets.filter fun q => q.owner == p.owner && q.place == p.place && q.agent == .stream).filterMap (·.dest)
  modThreads (sender p) (fun t => match p.dest with | some d => landElement d r out t | none => giveReply p r t) s

/-- `ACKNOWLEDGEMENT` (R206, R224): of a request, with the data of a load or the flags of an atomic, or of a message. -/
def execAcknowledgement (id : Nat) (s : State) : Outcome State Fault Refusal :=
  finish (do
    let x ← orStop (← read (itemAt · id)) .absent
    enabled ((← read (responseHome · x)) = true)
    match ← read (packetAt · id) with
    | some p =>
      match p.cargo with
      | .ack fl => update fun s => modThreads (sender p) (addFlags fl) (endPacket p s)
      | .data r => update fun s => landData p r (endPacket p s)
      | _ => raise .absent
    | none => do
      let m ← orStop (← read (messageAt · id)) .absent
      update (messageAcked m)) s

/-- A fault response: a memory error of a transfer's read or counter add stops the transfer once its other requests are acknowledged
(R293, R296), any other ends the context (R322). -/
def takeFault (p : Packet) (c : FatalCause) (s : State) : State :=
  match p.agent, c with
  | .copy order, .memoryError =>
    modThreads (sender p) (fun t =>
      { t with tr := t.tr.map fun x => if x.order = order then { x with failed := true, added := false } else x }) s
  | _, _ => fatalContext c p.place.peer p.ctx (some p.place) p.loc.fpa s

/-- `FAULT_RESPONSE` (R322). -/
def execFaultResponse (id : Nat) (s : State) : Outcome State Fault Refusal :=
  finish (do
    let p ← orStop (← read fun s => (packetAt s id).filter fun p => responseHome s (packetItem p)) .absent
    match p.cargo with
    | .fault c => update fun s => takeFault p c (endPacket p s)
    | _ => raise .absent) s

/-- The time-out of a die in ticks (R323). -/
def lostAfter (s : State) (peer : Nat) : Nat := (dieOf s peer).timeout.toNat * 1000

/-- The die whose collective a message of data or of a barrier, or its acknowledgement, belongs to. -/
def messageOwner (m : CollMsg) : Nat := if m.body = .ack then m.dst else m.src

/-- A message of the pod that is not acknowledged in time ends the context of its collective. -/
def loseMessage (m : CollMsg) (s : State) : State :=
  let peer := messageOwner m
  let s1 := abandonItem (messageItem m) (dropMessages (fun x => x.id == m.id) s)
  match findColl (dieOf s1 peer) m.inst with
  | some c => fatalContext .lostResponse peer c.ctx none (fpaOf (if m.body = .ack then m.src else m.dst) 255 15 0) s1
  | none => s1

/-- `LOST_RESPONSE` (R323): the request is given up. -/
def execLostResponse (id : Nat) (s : State) : Outcome State Fault Refusal :=
  finish (do
    match ← read (packetAt · id) with
    | some p => do
      enabled ((← read fun s => decide (p.sent + lostAfter s p.place.peer ≤ s.time)) = true)
      update fun s => fatalContext .lostResponse p.place.peer p.ctx (some p.place) p.loc.fpa
        (abandonItem (packetItem p) (dropPacket id s))
    | none => do
      let m ← orStop (← read (messageAt · id)) .absent
      enabled ((bodyAcked m.body || m.body == .ack) && inFabric m && m.far.isNone)
      enabled ((← read fun s => decide (m.sent + lostAfter s (messageOwner m) ≤ s.time)) = true)
      update (loseMessage m)) s

/-! ## Detectors and tokens (R313 to R318) -/

/-- T_d at a router; the I/O die has that of die 0 (log 34). -/
def detectTime (s : State) (x : Item) : Nat := (dieOf s (x.route.node * 4 + if x.route.die = 4 then 0 else x.route.die)).td.toNat

/-- A router's flag count rises, or its drain count. -/
def countFlag (node die : Nat) (s : State) : State :=
  if die = 4 then modPkg node (fun p => { p with ioFlags := p.ioFlags + 1 }) s
  else modDie (node * 4 + die) (fun d => { d with flagCount := d.flagCount + 1 }) s
def countDrain (node die : Nat) (s : State) : State :=
  if die = 4 then modPkg node (fun p => { p with ioDrains := p.ioDrains + 1 }) s
  else modDie (node * 4 + die) (fun d => { d with drainCount := d.drainCount + 1 }) s

/-- `DETECT_TIMEOUT` (R313). -/
def execDetectTimeout (id : Nat) (s : State) : Outcome State Fault Refusal :=
  finish (do
    let x ← orStop (← read (itemAt · id)) .absent
    enabled ((← read (isHead · x)) = true)
    match x.route.det with
    | .watch since => do
      enabled ((← read fun s => decide (since + detectTime s x ≤ s.time)) = true)
      update fun s => countFlag x.route.node x.route.die (putRoute id { x.route with det := .flagged } s)
    | _ => raise .absent) s

/-- The suspect of a die of a package: the head of the lowest-numbered FLAGGED input of a domain (R316). -/
def suspectAt (s : State) (node die : Nat) (pod : Bool) : Option Item :=
  (inOrder (fun a b => decide (a.route.port * 16 + a.route.vc ≤ b.route.port * 16 + b.route.vc))
    ((items s).filter fun x => isHead s x && x.route.node == node && x.route.die == die && x.route.det == .flagged
      && x.route.xpkg == pod)).head?

/-- The suspect of a package, in the order of its dies. -/
def suspectIn (s : State) (node : Nat) : Option Item := (List.range 5).findSome? fun d => suspectAt s node d true

/-- The token may capture for a suspect: a request needs the response credit of its source die, and no other token of the domain is
held (R315, R317). -/
def mayDrain (s : State) (tokens : List Token) (x : Item) : Bool :=
  tokens.all (·.held.isNone) && (! x.request || (reserveOf s x.fromNode x.fromDie x.route.xpkg).credit.isNone)

/-- An epoch is older than another, of 16 bits that wrap. DESIGN CHOICE (log 91): by half the range. -/
def epochOlder (a b : BitVec 16) : Bool := decide (a ≠ b ∧ (b - a).toNat < 2 ^ 15)

/-- A token's visit: it captures for a suspect, or goes on. -/
def visit (ring now : Nat) (suspect : Option Nat) (t : Token) : Token :=
  let u := if t.pos = 0 then { t with visited := now } else t
  match suspect with
  | some id => { u with held := some id }
  | none => { u with pos := (t.pos + 1) % ring }

/-- The token that moves next, and the others. -/
def nextToken (ts : List Token) : Option (Token × List Token) :=
  (ts.find? (·.held.isNone)).map fun t => (t, ts.erase t)

/-- The captured suspect leaves its buffer on the Causeway. -/
def startDrain (o : Option Item) (s : State) : State :=
  match o with
  | some x => putRoute x.id { x.route with drained := true, det := .idle } s
  | none => s

/-- The epoch of the package token that a die saw last, and its new one. -/
def seenEpoch (s : State) (node die : Nat) : BitVec 16 :=
  if die = 4 then (pkgOf s node).ioEpoch else (dieOf s (4 * node + die)).epoch
def seeEpoch (node die : Nat) (e : BitVec 16) (s : State) : State :=
  if die = 4 then modPkg node (fun p => { p with ioEpoch := e }) s else modDie (4 * node + die) (fun d => { d with epoch := e }) s

/-- `PACKAGE_TOKEN_VISIT` (R315, R316): a token older than the last one seen is discarded. -/
def execPackageTokenVisit (node : Nat) (s : State) : Outcome State Fault Refusal :=
  finish (do
    let ts ← read fun s => (pkgOf s node).tokens
    let (t, rest) ← orStop (nextToken ts) .absent
    if epochOlder t.epoch (← read fun s => seenEpoch s node t.pos) then update (modPkg node fun p => { p with tokens := rest })
    else do
      let o ← read fun s => (suspectAt s node t.pos false).filter (mayDrain s ts)
      update fun s => startDrain o (seeEpoch node t.pos t.epoch
        (modPkg node (fun p => { p with tokens := rest ++ [visit 5 s.time (o.map (·.id)) t] }) s))) s

/-- A write reaches the next package of the pod's ring over some plane (R315, R324). -/
def tokenPasses (s : State) (t : Token) : Bool :=
  Config.podNodes ≤ 1 || (List.range 64).any fun pl => planeUsable s t.pos pl ((t.pos + 1) % Config.podNodes)

/-- `POD_TOKEN_VISIT` (R315, R316): the token goes on as a write to the next package's message region. -/
def execPodTokenVisit (s : State) : Outcome State Fault Refusal :=
  finish (do
    let ts ← read (·.podTokens)
    let (t, rest) ← orStop (nextToken ts) .absent
    if epochOlder t.epoch (← read fun s => (pkgOf s t.pos).podEpoch) then update fun s => { s with podTokens := rest }
    else do
      let o ← read fun s => (suspectIn s t.pos).filter (mayDrain s ts)
      enabled ((o.isSome || (← read (tokenPasses · t))) = true)
      update fun s => startDrain o (modPkg t.pos (fun p => { p with podEpoch := t.epoch })
        { s with podTokens := rest ++ [visit Config.podNodes s.time (o.map (·.id)) t] })) s

/-- The tick of the last visit of any token at the head of its ring. -/
def lastVisit (ts : List Token) : Nat := (ts.map (·.visited)).foldl max 0

/-- A token is missed at the head of its ring: none has come for a time (log 45). -/
def tokenLate (ts : List Token) (limit now : Nat) : Bool := decide (lastVisit ts + limit ≤ now)

/-- The newest epoch of a list of tokens. -/
def newestEpoch (ts : List Token) : BitVec 16 := ts.foldl (fun e t => if epochOlder e t.epoch then t.epoch else e) ((ts.head?.map (·.epoch)).getD 0)

/-- A new token at the head of the ring; one that is still on its way is older now. -/
def reissued (now : Nat) (ts : List Token) : List Token :=
  ts ++ [{ epoch := newestEpoch ts + 1, pos := 0, held := none, visited := now }]

/-- `PACKAGE_TOKEN_REISSUE` (R315): after 1 µs. -/
def execPackageTokenReissue (node : Nat) (s : State) : Outcome State Fault Refusal :=
  finish (do
    enabled ((← read fun s => tokenLate (pkgOf s node).tokens 1000 s.time) = true)
    update fun s => modPkg node (fun p => { p with tokens := reissued s.time p.tokens }) s) s

/-- `POD_TOKEN_REISSUE` (R315): after 20 ms. -/
def execPodTokenReissue (s : State) : Outcome State Fault Refusal :=
  finish (do
    enabled ((← read fun s => tokenLate s.podTokens 20000000 s.time) = true)
    update fun s => { s with podTokens := reissued s.time s.podTokens }) s

/-- The epoch of the token that holds something. -/
def holdingEpoch (s : State) (id : Nat) : Nat :=
  match (s.podTokens ++ s.pkgs.flatMap fun p => p.2.tokens).find? (·.held == some id) with
  | some t => t.epoch.toNat
  | none => 0

/-- Where the Causeway has brought a drained suspect. -/
def sunkRoute (x : Item) : Route := { x.route with node := x.toNode, die := x.toDie }

/-- `SUSPECT_SUNK` (R313, R317, R318): a drained request enters the request buffer at its destination, a response reaches its issuer;
the token goes on, and the drain is counted and logged where it stood, with its input: router, port and channel. -/
def execSuspectSunk (id : Nat) (s : State) : Outcome State Fault Refusal :=
  finish (do
    let x ← orStop (← read (itemAt · id)) .absent
    enabled ((← read fun s => heldByToken s id && causewayOpen s x) = true)
    enabled ((← read fun s => ! x.request || (reserveOf s x.toNode x.toDie x.route.xpkg).request.isNone) = true)
    update fun s =>
      let r := x.route
      let entry : List Nat := [r.die, r.port, r.vc, r.xpkg.toNat, holdingEpoch s id, x.src, x.dst]
      let s0 := chargePort id r.node r.die (localTarget x) s
      let s1 := logEvent r.node .drain (4 * r.node + r.die) entry (countDrain r.node r.die s0)
      let s2 := releaseTokens id s1
      let s3 := if x.request then
          modReserve x.toNode x.toDie r.xpkg (fun y => { y with request := some id }) s2
        else s2
      sendSunk x (putRoute id (sunkRoute x) s3)) s
where
  /-- A message to another pod leaves the I/O die's reserve as frames. -/
  sendSunk (x : Item) (s : State) : State :=
    match messageAt s x.id with
    | some m => if m.far.isSome && ! m.inbound then
        modMessage x.id (fun m => { m with route := { m.route with drained := false } }) (freeRequest x (sendFrames x.id s))
      else s
    | none => s

/-! ## Planes and stations (R324) -/

/-- What a plane that stops delivering to or from a package carries is lost: all of it, or what is on its way between that package and
some nodes. -/
def loseFlights (node plane : Nat) (nodes : List Nat) (s : State) : State :=
  let hit (r : Route) : Bool := match r.flight with
    | some (pl, from0) => pl == plane
        && ((r.node == node && (nodes == [] || nodes.contains from0)) || (from0 == node && (nodes == [] || nodes.contains r.node)))
    | none => false
  { s with
    packets := s.packets.map fun p => if hit p.route then { p with route := { p.route with lost := true } } else p
    messages := s.messages.map fun m => if hit m.route then { m with route := { m.route with lost := true } } else m }

/-- `PLANE_STOPS_DELIVERING` (R324): for the nodes named, or, where none is named, the station itself. -/
def execPlaneStopsDelivering (node plane : Nat) (lost : List Nat) (s : State) : Outcome State Fault Refusal :=
  finish (do
    enabled (plane < 64)
    update fun s => loseFlights node plane lost (logEvent node .link (4 * node) [plane] (modPkg node (fun p =>
      if lost = [] then { p with down := if p.down.contains plane then p.down else p.down ++ [plane] }
      else { p with lost := p.lost ++ (lost.map fun n => (plane, n)).filter fun x => ! p.lost.contains x }) s))) s

/-- `STATION_BROUGHT_BACK` (R324). -/
def execStationBroughtBack (node plane : Nat) (s : State) : Outcome State Fault Refusal :=
  finish (do
    enabled (plane < 64)
    update (modPkg node fun p => { p with
      down := p.down.filter (· != plane), lost := p.lost.filter fun x => x.1 != plane })) s

end Sys2Proof.Machine
end

