-- ==== Sys2Proof/Machine/Mgmt.lean ====
section
/-! DEFINITION. Fabric management commands and the scale-out ports (R340, R341), boot, firmware, keys, attestation, sensors
and budgets (R34, R391, R398 to R403). -/

namespace Sys2Proof.Machine

open Host (Outcome)

/-! ## Commands (R340) -/

/-- The number of a port state (R341). -/
def portCode : PortState → Nat
  | .live => 0
  | .draining _ => 1
  | .dark _ => 2
  | .training _ => 3
  | .verify _ => 4

def setPort (node port : Nat) (x : PortState) : State → State := modPkg node fun p => { p with ports := nset p.ports port x }

/-- What a command occupies: a die's tables, or a port. -/
def commandUnit (c : Command) : Bool × Nat := (c.op == 3, c.target)

/-- The first command of the queue that no earlier command of its unit holds up, of those that meet a condition. -/
def firstCommand (cs : List Command) (p : Command → Bool) : Option Nat :=
  (List.range cs.length).find? fun i =>
    match cs[i]? with
    | some c => p c && ! (cs.take i).any fun d => commandUnit d == commandUnit c
    | none => false

/-- The next command of an operation to execute on a package's I/O die. -/
def nextCommand (s : State) (node : Nat) (p : Command → Bool) : Option (Nat × Command) :=
  let cs := (pkgOf s node).commands
  (firstCommand cs fun c => ! c.active && p c).bind fun i => cs[i]?.map fun c => (i, c)

/-- The command that executes on a port. -/
def activeCommand (s : State) (node port op : Nat) : Option (Nat × Command) :=
  let cs := (pkgOf s node).commands
  (firstCommand cs fun c => c.active && c.op == op && c.target == port).bind fun i => cs[i]?.map fun c => (i, c)

/-- The I/O die writes a word under key id 0, where something stands at its address. -/
def ioWrite (a v : Nat) (s : State) : State :=
  match homeKind a with
  | .absent | .mmio => s
  | _ => memWrite 0 a 8 v s

/-- A command ends: status, then counter, then the host's entry (R340, R396). -/
def endCommand (node i : Nat) (c : Command) (result : Nat) (s : State) : State :=
  let st := if c.op = 3 then 0 else portCode (portOf s node c.target)
  let s1 := if c.stat = 0 then s else ioWrite c.stat.toNat (result + st * 256) s
  let s2 := if c.ctr = 0 then s1 else
    ioWrite c.ctr.toNat ((memRead s1 0 c.ctr.toNat 8 + c.inc.toNat) % 2 ^ 64) s1
  let s3 := modPkg node (fun p => { p with commands := p.commands.eraseIdx i }) s2
  hostEvent node ⟨2, c.place.peer, c.place.span, c.place.slot,
    BitVec.ofNat 64 (result + st * 2 ^ 8 + c.op * 2 ^ 16 + c.target * 2 ^ 24)⟩ s3

/-- A command begins to execute on its port. -/
def startCommand (node i : Nat) (s : State) : State :=
  modPkg node (fun p => { p with commands := p.commands.modify i fun c => { c with active := true } }) s

/-- A port command whose record is in order. -/
def portCommandOk (c : Command) : Bool := c.zero && decide (c.target < 8)

/-- `DRAIN` (R341): of a port that is not LIVE it is rejected. -/
def execDrain (node : Nat) (s : State) : Outcome State Fault Refusal :=
  finish (do
    let (i, c) ← orStop (← read fun s => nextCommand s node fun c => c.op == 1) .absent
    update fun s =>
      if portCommandOk c && portOf s node c.target == .live then startCommand node i (setPort node c.target (.draining s.time) s)
      else endCommand node i c 1 s) s

/-- `RETRAIN` (R341): no sooner than 10 µs after DARK; of a port that is not DARK it is rejected. -/
def execRetrain (node : Nat) (s : State) : Outcome State Fault Refusal :=
  finish (do
    let (i, c) ← orStop (← read fun s => nextCommand s node fun c => c.op == 2) .absent
    let st ← read fun s => portOf s node c.target
    match st with
    | .dark since =>
      if portCommandOk c then do
        enabled (since + 10000 ≤ s.time)
        update fun s => startCommand node i (setPort node c.target (.training s.time) s)
      else update (endCommand node i c 1)
    | _ => update (endCommand node i c 1)) s

/-- Entries of a route table as an image in memory gives them (R338). DESIGN CHOICE (log 75): bits [127:32] of an entry, which R338 gives
as zero, are dropped whatever they are, and the entry is taken. -/
def routeImage (s : State) (a : Nat) : NMap (BitVec 128) :=
  (List.range 4096).filterMap fun i =>
    let e : BitVec 128 := (BitVec.ofNat 32 (memRead s 0 (a + 16 * i) 4)).setWidth 128
    if e.getLsbD 0 then some (i, e) else none

/-- `LOADRT` (R340): the inactive table of a die, once no posted collective uses it. -/
def execLoadrt (node : Nat) (s : State) : Outcome State Fault Refusal :=
  finish (do
    let (i, c) ← orStop (← read fun s => nextCommand s node fun c => c.op == 3) .absent
    let peer := 4 * node + c.target
    if c.zero ∧ c.target < 4 ∧ c.arg.toNat % 64 = 0 then do
      let d ← read (dieOf · peer)
      enabled (d.colls.all (fun x => x.table == d.rtsel) = true)
      update fun s =>
        let t := routeImage s c.arg.toNat
        endCommand node i c 0 (modDie peer (fun d =>
          if d.rtsel then { d with routes0 := t, rtLoaded := true } else { d with routes1 := t, rtLoaded := true }) s)
    else update (endCommand node i c 1)) s

/-- `QUERY` (R340); a command of no assigned operation is rejected here too. -/
def execQuery (node : Nat) (s : State) : Outcome State Fault Refusal :=
  finish (do
    let (i, c) ← orStop (← read fun s => nextCommand s node fun c => c.op == 0 || decide (4 ≤ c.op)) .absent
    update (endCommand node i c (if c.op = 4 && portCommandOk c then 0 else 1))) s

/-! ## Ports (R341) -/

/-- Messages of a package with frames outstanding on a port. -/
def framesOut (s : State) (node port : Nat) : List CollMsg :=
  s.messages.filter fun m => m.frames != [] && m.src / 4 == node && m.far.any fun f => f.port == port

/-- A port enters a state, and the command that executes on it ends. -/
def endPortCommand (node port op result : Nat) (x : PortState) (s : State) : State :=
  let s1 := setPort node port x s
  match activeCommand s1 node port op with
  | some (i, c) => endCommand node i c result s1
  | none => s1

/-- `PORT_DRAINED` (R341): every frame has been acknowledged, which none is after 100 µs. -/
def execPortDrained (node port : Nat) (s : State) : Outcome State Fault Refusal :=
  finish (do
    let st ← read fun s => portOf s node port
    let out ← read fun s => framesOut s node port
    match st with
    | .draining _ => do
      enabled (out = [])
      update fun s => endPortCommand node port 1 0 (.dark s.time) s
    | _ => raise .absent) s

/-- `DRAIN_TIMEOUT` (R341): after 100 µs with frames outstanding. -/
def execDrainTimeout (node port : Nat) (s : State) : Outcome State Fault Refusal :=
  finish (do
    let st ← read fun s => portOf s node port
    let out ← read fun s => framesOut s node port
    match st with
    | .draining since => do
      enabled (out ≠ [] ∧ since + 100000 ≤ s.time)
      update fun s => endPortCommand node port 1 2 (.dark s.time) s
    | _ => raise .absent) s

/-- `TRAINING_SUCCESS` (R341): before 50 ms have passed. -/
def execTrainingSuccess (node port : Nat) (s : State) : Outcome State Fault Refusal :=
  finish (do
    let st ← read fun s => portOf s node port
    match st with
    | .training since => do
      enabled (s.time < since + 50000000)
      update fun s => setPort node port (.verify s.time) s
    | _ => raise .absent) s

/-- `TRAINING_TIMEOUT` (R341): after 50 ms. -/
def execTrainingTimeout (node port : Nat) (s : State) : Outcome State Fault Refusal :=
  finish (do
    let st ← read fun s => portOf s node port
    match st with
    | .training since => do
      enabled (since + 50000000 ≤ s.time)
      update fun s => endPortCommand node port 2 3 (.dark s.time) s
    | _ => raise .absent) s

/-- Frames that a drain held are sent again (R341). -/
def resendHeld (node port : Nat) (s : State) : State :=
  { s with messages := s.messages.map fun m =>
      if m.src / 4 == node && m.far.any (fun f => f.port == port) then
        { m with frames := m.frames.map fun f => { f with sent := s.time } }
      else m }

/-- `VERIFY_RESULT` (R341): LIVE within 1 ms when the far end's FPOD, FNODE and port match ARG, otherwise DARK. -/
def execVerifyResult (node port : Nat) (far : BitVec 29) (s : State) : Outcome State Fault Refusal :=
  finish (do
    let st ← read fun s => portOf s node port
    let c ← read fun s => activeCommand s node port 2
    let want := match c with | some (_, c) => c.arg.extractLsb' 0 29 | none => 0
    match st with
    | .verify since => update fun s =>
      if far = want ∧ s.time ≤ since + 1000000 then endPortCommand node port 2 0 .live (resendHeld node port s)
      else endPortCommand node port 2 4 (.dark s.time) s
    | _ => raise .absent) s

/-! ## Boot (R34, R324, R398) -/

/-- An image verifies (R400): its signature checks, its digest is that of its body, and its security version is no lower than the blown
fuses. -/
def verifies (fuses : Nat) (x : FwImage) : Bool :=
  x.signed && x.digest == shake256 x.body && decide (fuses ≤ x.version.toNat)

/-- The slot that boots: none, or whether it is slot B (R400). -/
def bootSlot (p : Pkg) : Option Bool :=
  if verifies p.fuses p.slotA && (! verifies p.fuses p.slotB || decide (p.slotB.version.toNat ≤ p.slotA.version.toNat)) then some false
  else if verifies p.fuses p.slotB then some true
  else none

/-- A die that a step of booting excludes: none of its Spans has a usable unit; the failure is logged with its cause, 1 for HBM
training, 2 for the wavelength lock (R398, log 28). -/
def excludeDie (cause peer : Nat) (s : State) : State :=
  let s1 := modDie peer (fun d => { d with excluded := true }) s
  logEvent (peer / 4) .boot peer [cause]
    ((List.range 192).foldl (fun u k => modSpan peer k (fun x => { x with poolcap := 0 }) u) s1)

/-- It is lost on its way: nothing of it arrives any more. -/
def lostRoute (r : Route) : Route := { r with lost := true, flight := some (0, r.node), drained := false }

/-- What a package that is reset takes from the fabric: its own packets and messages are gone, and those of others that it holds, or
that go there, are lost. -/
def clearFabric (node : Nat) (s : State) : State :=
  let mine (peer : Nat) : Bool := peer / 4 == node
  let touches (x : Item) : Bool := x.route.node == node || mine x.src || mine x.dst
  let s1 := ((items s).filter touches).foldl (fun u x => abandonItem x u) s
  { s1 with
    packets := (s1.packets.filter fun q => ! mine q.place.peer).map fun q =>
      if touches (packetItem q) then { q with route := lostRoute q.route } else q
    messages := (s1.messages.filter fun m => ! mine (messageOwner m)).map fun m =>
      if inFabric m && touches (messageItem m) then { m with route := lostRoute m.route } else m }

/-- A package with nothing running: its threads, host cores, Spans, dies and memory as reset leaves them, and nothing of it in the
fabric. Firmware slots and fuses stay, and planes stay as the outside has them. -/
def clearPackage (node : Nat) (s0 : State) : State :=
  let s := clearFabric node s0
  let mine (peer : Nat) : Bool := peer / 4 == node
  let p := pkgOf s node
  let here : Thread → Bool := fun t => mine t.place.peer
  { s with
    thr := if here s.thr then Thread.reset s.thr.place else s.thr
    others := s.others.filter fun t => ! here t
    spans := s.spans.filter fun x => ! mine (x.1 / 256)
    dies := s.dies.filter fun x => ! mine x.1
    pkgs := nset s.pkgs node { Pkg.reset with
      slotA := p.slotA, slotB := p.slotB, fuses := p.fuses, lost := p.lost, down := (p.lost.map Prod.fst).eraseDups
      tokens := [{ Token.reset 0 with visited := s.time }], podEpoch := p.podEpoch, bootTick := s.time }
    mem := s.mem.filter fun c => fpaNode c.1 != node
    sectors := s.sectors.filter fun x => fpaNode (64 * x.1) != node }

/-- The package starts (R34): the booted firmware, HBM training, and wavelengths that begin to lock. -/
def bootPackage (node : Nat) (s : State) : State :=
  let s1 := clearPackage node s
  let s2 := ((pkgOf s1 node).down).foldl (fun u pl => logEvent node .link (4 * node) [pl] u) s1
  match bootSlot (pkgOf s2 node) with
  | none => logEvent node .boot (4 * node) [0] (modPkg node (fun p => { p with boot := .heldInReset }) s2)
  | some b =>
    let s3 := modPkg node (fun p => { p with boot := .locking s.time, bootedB := b }) s2
    startHosts node ((s.turn.fails.filter (· < 4)).foldl (fun u d => excludeDie 1 (4 * node + d) u) s3)

/-- `PACKAGE_RESET` (R34). -/
def execPackageReset (node : Nat) (s : State) : Outcome State Fault Refusal :=
  finish (do
    enabled (node < Config.podNodes)
    update (bootPackage node)) s

/-- Since when a die's wavelengths lock. -/
def lockingSince (s : State) (peer : Nat) : Option Nat :=
  match (pkgOf s (peer / 4)).boot with
  | .locking t => if (dieOf s peer).locked || (dieOf s peer).excluded then none else some t
  | _ => none

/-- `WAVELENGTH_LOCK` (R34), within 50 ms (R398): the die's Spans start from then on (R35). -/
def execWavelengthLock (peer : Nat) (s : State) : Outcome State Fault Refusal :=
  finish (do
    let t ← orStop (← read (lockingSince · peer)) .absent
    enabled (s.time < t + 50000000)
    update fun s => modDie peer (fun d => { d with locked := true, ramp := some s.time }) s) s

/-- `WAVELENGTH_LOCK_TIMEOUT` (R398): after 50 ms. -/
def execWavelengthLockTimeout (peer : Nat) (s : State) : Outcome State Fault Refusal :=
  finish (do
    let t ← orStop (← read (lockingSince · peer)) .absent
    enabled (t + 50000000 ≤ s.time)
    update fun s => startHosts (peer / 4) (excludeDie 2 peer s)) s

/-! ## Firmware, keys, attestation (R400 to R402) -/

def bootedImage (p : Pkg) : FwImage := if p.bootedB then p.slotB else p.slotA
def otherImage (p : Pkg) : FwImage := if p.bootedB then p.slotA else p.slotB

/-- The management processor runs an image. -/
def pkgBooted (p : Pkg) : Bool := match p.boot with | .locking _ => true | _ => false

/-- `FUSE_BLOW` (R400). -/
def execFuseBlow (node : Nat) (s : State) : Outcome State Fault Refusal :=
  finish (do
    let p ← read (pkgOf · node)
    enabled (pkgBooted p = true)
    update fun s => logEvent node .firmware (4 * node) [(bootedImage p).version.toNat]
      (modPkg node (fun p => { p with fuses := max p.fuses (bootedImage p).version.toNat }) s)) s

/-- `FIRMWARE_UPDATE` (R400): the slot that did not boot. -/
def execFirmwareUpdate (node : Nat) (image : FwImage) (s : State) : Outcome State Fault Refusal :=
  finish (do
    enabled (image.version.toNat ≤ 64)
    update fun s => logEvent node .firmware (4 * node) [image.version.toNat]
      (modPkg node (fun p => if p.bootedB then { p with slotA := image } else { p with slotB := image }) s)) s

/-- `KEY_SLOT_LOAD` (R402): data written under the slot's old key is deciphered under the new one from then on. -/
def execKeySlotLoad (node : Nat) (load : SlotKey) (s : State) : Outcome State Fault Refusal :=
  finish (do
    enabled (1 ≤ load.slot ∧ load.slot < 1024)
    update (modPkg node fun p => { p with
      keys := nset p.keys load.slot load.key
      erased := p.erased.filter (· != load.slot) })) s

/-- `KEY_SLOT_ERASE` (R402). -/
def execKeySlotErase (node slot : Nat) (s : State) : Outcome State Fault Refusal :=
  finish (do
    enabled (1 ≤ slot ∧ slot < 1024)
    update (modPkg node fun p => { p with
      keys := ndel p.keys slot
      erased := slot :: p.erased.filter (· != slot) })) s

/-- Bytes 0 to 305 of an attestation report, byte 0 the least significant (R401). -/
def reportBody (s : State) (node : Nat) (nonce : BitVec 256) : BitVec 2448 :=
  let p := pkgOf s node
  let keys : BitVec 1024 := p.keys.foldl (fun x k => setBit x k.1 true) 0
  keys ++ BitVec.ofNat 8 p.fuses ++ (BitVec.ofBool p.bootedB).setWidth 8 ++ (otherImage p).digest ++ (bootedImage p).digest
    ++ Config.serial node ++ peekReg s (fpaOf (4 * node) 192 3 0x80000000) ++ nonce

/-- `ATTESTATION_REQUEST` (R401). -/
def execAttestationRequest (node : Nat) (nonce : BitVec 256) (s : State) : Outcome State Fault Refusal :=
  finish (do
    let b ← read fun s => reportBody s node nonce
    update (modPkg node fun p => { p with report := some (Config.attestation node b ++ b) })) s

/-! ## Sensors and budgets (R391, R403) -/

/-- A sample is due: 10 µs after the last. -/
def sampleDue (d : Die) (now : Nat) : Bool := match d.sample with | some x => decide (x.tick + 10000 ≤ now) | none => true

/-- The power of a die, and its hottest Pier. -/
def samplePower (x : Sample) : Nat := x.rails.sum
def sampleHottest (x : Sample) : Nat := (x.piers.map (·.temp)).foldl max 0

/-- The clock after a sample, in MHz. -/
def nextClock (cap clock power : Nat) : Nat :=
  if cap < power then max 1200 (clock - 100)
  else if power * 100 < cap * 95 ∧ clock < 2100 then clock + 100
  else clock

/-- A die after a sample. -/
def sampled (x : Sample) (d : Die) : Die :=
  let hold := decide (105 < sampleHottest x) || (d.hold && decide (100 ≤ sampleHottest x))
  { d with hold := hold, sample := some x, clock := if hold then 1200 else nextClock d.cap d.clock (samplePower x) }

/-- `SENSOR_SAMPLE` (R403): the power of each rail, the voltage and the temperature of each of the twelve Piers; above 115 °C the
package is reset; a thermal event is logged. -/
def execSensorSample (peer : Nat) (rails : List Nat) (piers : List PierReading) (s : State) : Outcome State Fault Refusal :=
  finish (do
    enabled ((← read fun s => sampleDue (dieOf s peer) s.time) = true ∧ piers.length = 12)
    let x : Sample := { tick := s.time, rails := rails, piers := piers }
    let hottest := sampleHottest x
    update fun s =>
      if 115 < hottest then logEvent (peer / 4) .thermal peer [hottest] (bootPackage (peer / 4) s)
      else
        let s1 := modDie peer (sampled x) s
        if 105 < hottest ∧ ! (dieOf s peer).hold then logEvent (peer / 4) .thermal peer [hottest] s1 else s1) s

/-- `BUDGET_PERIOD` (R391): a period begins at a multiple of 1,000 ticks, with nothing charged in it. -/
def execBudgetPeriod (s : State) : Outcome State Fault Refusal :=
  finish (do
    enabled (s.period + 1000 ≤ s.time)
    update fun s => { s with
      period := s.time / 1000 * 1000, dies := s.dies.map fun d => (d.1, { d.2 with used := [] }) }) s

end Sys2Proof.Machine
end

