-- ==== Sys2Proof/Machine/Events.lean ====
section
/-! DEFINITION. The part's remaining steps of its own: interrupts (R375), queue deadlock (R108), the steps of the vector
stream (R141, R142, R210, R212, R251), grants of long mode (R132), fills (R188, R189), and a word with no meaning (R47). -/

namespace Sys2Proof.Machine

open Host (Outcome)

/-! ## Interrupts (R375) -/

/-- The thread is at a boundary at which it takes interrupts: in user mode, or with IE = 1, and its scalar side waits for no reply
(log 46). -/
def interruptible (s : State) : Bool := s.thr.status == .running && (! s.thr.k.km || s.thr.k.ie) && scalarQuiet s

/-- The oldest entry is a whole-vector one that has started: it is not interrupted (R161). -/
def wholeStarted (t : Thread) : Bool :=
  match headOf t with
  | some e => (e.checked || e.buf != []) && (match vword e.ins with
    | some (v, _) => (match v.sem with
      | .whole _ => true
      | .tensor .. => ! fmtRaw (shapeFmt e.shape)
      | _ => false)
    | none => false)
  | none => false

/-- Pre-emption is requested of the thread (R352). -/
def preEmptDue (s : State) : Bool := interruptible s && s.thr.k.ip0

/-- The oldest entry is within an element group. -/
def headOpened (t : Thread) : Bool := (headOf t).any (·.opened)

/-- The stream can be left for pre-emption, between element groups: every access of its entries has performed, also of non-blocking
ones (R150, R161, R211). -/
def streamLeaves (s : State) : Bool :=
  canLeave s && ! wholeStarted s.thr && ! headOpened s.thr && s.thr.v.nbq.isEmpty && (streamPackets s).isEmpty

/-- The oldest transfer with a memory error to report (R296). -/
def memoryErrorDue (s : State) : Option Transfer :=
  if interruptible s && ! preEmptDue s then s.thr.tr.find? (·.irq) else none

/-- The timer's turn: no 0x80 and no 0x82 is due. -/
def timerTurn (s : State) : Bool :=
  interruptible s && ! preEmptDue s && ! memoryIrq s.thr && timerDue s

/-- The host message's turn: nothing before it is due. -/
def messageTurn (s : State) : Bool :=
  interruptible s && ! preEmptDue s && ! memoryIrq s.thr && ! timerDue s && messageIrq s

/-- The stream stops for a trap that the scalar side takes; the entry of a held trap is saved with the others and traps again
when it is replayed (R150, R374). -/
def stopAll (t : Thread) : Thread :=
  let u := stopStream t
  { u with v := { u.v with held := none } }

/-- `PRE_EMPT` (R150, R375): the stream stops, and `kval` is 0 (R72). -/
def execPreEmpt (s : State) : Outcome State Fault Refusal :=
  finish (do
    enabled ((preEmptDue s && streamLeaves s) = true)
    update fun s => takeTrap false 0x80 0 { s with thr := stopAll s.thr }) s

/-- `TIMER` (R375): the condition stays. -/
def execTimer (s : State) : Outcome State Fault Refusal :=
  finish (do
    enabled (timerTurn s = true)
    update (takeTrap false 0x81 0)) s

/-- `TRANSFER_MEMORY_ERROR` (R296, R375): one interrupt for each transfer, the oldest first. -/
def execTransferMemoryError (s : State) : Outcome State Fault Refusal :=
  finish (do
    let x ← orStop (memoryErrorDue s) .absent
    update (modTransfer x.order fun y => { y with irq := false })
    update (takeTrap false 0x82 (x.id.setWidth 64))) s

/-- `HOST_MESSAGE` (R375, R397): taking it clears the condition; the message stays until it is read. -/
def execHostMessage (s : State) : Outcome State Fault Refusal :=
  finish (do
    enabled (messageTurn s = true)
    let p ← read fun s => s.thr.place
    update (modSpan p.peer p.span fun x =>
      { x with hmsg := vset x.hmsg p.slot { vget x.hmsg p.slot HostMsg.empty with irq := false } })
    update (takeTrap false 0x83 (BitVec.ofNat 64 p.slot))) s

/-! ## Queue deadlock (R108) -/

/-- `QUEUE_DEADLOCK` (R103, R108): a trap of the vector stream with `qstat` as it stands. -/
def execQueueDeadlock (s : State) : Outcome State Fault Refusal :=
  finish (do
    enabled ((deadlocked s && canLeave s) = true)
    let q ← read qstatOf
    update fun s => takeTrap true (causeCode .deadlock) q { s with thr := stopAll s.thr }) s

/-! ## The vector stream -/

/-- A step of the stream as an outcome: its traps are those of the vector stream (R103, R104). -/
def streamOp (m : Op Unit) (s : State) : Outcome State Fault Refusal :=
  match streamEnd s (m s) with
  | some s' => .next s'
  | none => .fault .notEnabled

/-- The head of the stream is an entry that computes or accesses memory. -/
def workHead (p : Instr → Bool) : Op Unit := do
  let e ← liveHead
  enabled (e.link = none ∧ isMarker e = false ∧ p e.ins = true)

/-- `ELEMENT_GROUP_START` (R141). -/
def execElementGroupStart (s : State) : Outcome State Fault Refusal :=
  streamOp (do workHead fun _ => true; startGroup) s

/-- `ELEMENT_GROUP_WRITE` (R142). -/
def execElementGroupWrite (s : State) : Outcome State Fault Refusal :=
  streamOp (do workHead fun i => ! isLoad i; writeElems) s

/-- `LOAD_DATA_ARRIVAL` (R210): a load's oldest group is written. -/
def execLoadDataArrival (s : State) : Outcome State Fault Refusal :=
  streamOp (do workHead isLoad; writeElems) s

/-- `NB_COUNTER_INCREMENT` (R212). -/
def execNbCounterIncrement (s : State) : Outcome State Fault Refusal := streamOp incrementCounter s

/-- `LINK_ENTRY_STAGING` (R251). -/
def execLinkEntryStaging (s : State) : Outcome State Fault Refusal := streamOp stageLink s

/-! ## Long mode (R132) -/

/-- `LONG_MODE_GRANT` (R132). -/
def execLongModeGrant (peer span : Nat) (s : State) : Outcome State Fault Refusal := finish (grantLong peer span) s

/-! ## Fills (R188, R189) -/

/-- `L1_FILL_ARRIVAL` (R188): the oldest fill that no removal has caught is installed. -/
def execL1FillArrival (peer span : Nat) (s : State) : Outcome State Fault Refusal :=
  finish (do
    let f ← orStop (← read fun s => (spanOf s peer span).fills.head?) .absent
    update (modSpan peer span fun x =>
      { x with fills := x.fills.tail, l1 := l1Install f.line { data := f.data, key := f.key } x.l1 })) s

/-- `WINDOW_FILL_ARRIVAL` (R189): the oldest fill that no removal has caught is installed, with its sector's descriptor. -/
def execWindowFillArrival (peer : Nat) (s : State) : Outcome State Fault Refusal :=
  finish (do
    let f ← orStop (← read fun s => (dieOf s peer).winFills.head?) .absent
    update (modDie peer fun d =>
      { d with winFills := d.winFills.tail, window := windowInstall f.line f.toLine d.window })) s

/-! ## Words with no meaning (R47) -/

/-- The encoding tables give a word no meaning. -/
noncomputable def meaningless (w : IWord) : Bool := match decode w with | .ok _ => false | .error _ => true

/-- `ILLEGAL_INSTRUCTION` (R47): a word that the encoding tables give no meaning takes *illegal instruction* with itself. -/
noncomputable def execIllegalInstruction (w : IWord) (s : State) : Outcome State Fault Refusal :=
  finish (do
    enabled (meaningless w = true)
    trapC .illegalInstruction (w.setWidth 64)) s

end Sys2Proof.Machine
end

