-- ==== Sys2Proof/Machine/VecWords.lean ====
section
/-! DEFINITION. The meanings of majors 0x20 to 0x3B: each word enters the vector queue (R101), and what it then does is its
`spec…` of VecArith, VecLanes or VecMem (R152 to R221). -/

namespace Sys2Proof.Machine

open Host (Outcome)

/-- `vadd` (R154). -/
def execVadd (rd ra rb : BitVec 7) (m : BitVec 4) (s : State) : Outcome State Fault Refusal :=
  vectorOp (.vadd rd ra rb m) s

/-- `vsub` (R154). -/
def execVsub (rd ra rb : BitVec 7) (m : BitVec 4) (s : State) : Outcome State Fault Refusal :=
  vectorOp (.vsub rd ra rb m) s

/-- `vmul` (R154). -/
def execVmul (rd ra rb : BitVec 7) (m : BitVec 4) (s : State) : Outcome State Fault Refusal :=
  vectorOp (.vmul rd ra rb m) s

/-- `vmulh` (R154). -/
def execVmulh (rd ra rb : BitVec 7) (m : BitVec 4) (s : State) : Outcome State Fault Refusal :=
  vectorOp (.vmulh rd ra rb m) s

/-- `vmulhu` (R154). -/
def execVmulhu (rd ra rb : BitVec 7) (m : BitVec 4) (s : State) : Outcome State Fault Refusal :=
  vectorOp (.vmulhu rd ra rb m) s

/-- `vdiv` (R154). -/
def execVdiv (rd ra rb : BitVec 7) (m : BitVec 4) (s : State) : Outcome State Fault Refusal :=
  vectorOp (.vdiv rd ra rb m) s

/-- `vdivu` (R154). -/
def execVdivu (rd ra rb : BitVec 7) (m : BitVec 4) (s : State) : Outcome State Fault Refusal :=
  vectorOp (.vdivu rd ra rb m) s

/-- `vrem` (R154). -/
def execVrem (rd ra rb : BitVec 7) (m : BitVec 4) (s : State) : Outcome State Fault Refusal :=
  vectorOp (.vrem rd ra rb m) s

/-- `vremu` (R154). -/
def execVremu (rd ra rb : BitVec 7) (m : BitVec 4) (s : State) : Outcome State Fault Refusal :=
  vectorOp (.vremu rd ra rb m) s

/-- `vand` (R154). -/
def execVand (rd ra rb : BitVec 7) (m : BitVec 4) (s : State) : Outcome State Fault Refusal :=
  vectorOp (.vand rd ra rb m) s

/-- `vor` (R154). -/
def execVor (rd ra rb : BitVec 7) (m : BitVec 4) (s : State) : Outcome State Fault Refusal :=
  vectorOp (.vor rd ra rb m) s

/-- `vxor` (R154). -/
def execVxor (rd ra rb : BitVec 7) (m : BitVec 4) (s : State) : Outcome State Fault Refusal :=
  vectorOp (.vxor rd ra rb m) s

/-- `vsll` (R154). -/
def execVsll (rd ra rb : BitVec 7) (m : BitVec 4) (s : State) : Outcome State Fault Refusal :=
  vectorOp (.vsll rd ra rb m) s

/-- `vsrl` (R154). -/
def execVsrl (rd ra rb : BitVec 7) (m : BitVec 4) (s : State) : Outcome State Fault Refusal :=
  vectorOp (.vsrl rd ra rb m) s

/-- `vsra` (R154). -/
def execVsra (rd ra rb : BitVec 7) (m : BitVec 4) (s : State) : Outcome State Fault Refusal :=
  vectorOp (.vsra rd ra rb m) s

/-- `vmin` (R154). -/
def execVmin (rd ra rb : BitVec 7) (m : BitVec 4) (s : State) : Outcome State Fault Refusal :=
  vectorOp (.vmin rd ra rb m) s

/-- `vminu` (R154). -/
def execVminu (rd ra rb : BitVec 7) (m : BitVec 4) (s : State) : Outcome State Fault Refusal :=
  vectorOp (.vminu rd ra rb m) s

/-- `vmax` (R154). -/
def execVmax (rd ra rb : BitVec 7) (m : BitVec 4) (s : State) : Outcome State Fault Refusal :=
  vectorOp (.vmax rd ra rb m) s

/-- `vmaxu` (R154). -/
def execVmaxu (rd ra rb : BitVec 7) (m : BitVec 4) (s : State) : Outcome State Fault Refusal :=
  vectorOp (.vmaxu rd ra rb m) s

/-- `vfadd` (R155). -/
def execVfadd (rd ra rb : BitVec 7) (m : BitVec 4) (s : State) : Outcome State Fault Refusal :=
  vectorOp (.vfadd rd ra rb m) s

/-- `vfsub` (R155). -/
def execVfsub (rd ra rb : BitVec 7) (m : BitVec 4) (s : State) : Outcome State Fault Refusal :=
  vectorOp (.vfsub rd ra rb m) s

/-- `vfmul` (R155). -/
def execVfmul (rd ra rb : BitVec 7) (m : BitVec 4) (s : State) : Outcome State Fault Refusal :=
  vectorOp (.vfmul rd ra rb m) s

/-- `vfdiv` (R155). -/
def execVfdiv (rd ra rb : BitVec 7) (m : BitVec 4) (s : State) : Outcome State Fault Refusal :=
  vectorOp (.vfdiv rd ra rb m) s

/-- `vfma` (R156). -/
def execVfma (rd ra rb : BitVec 7) (m : BitVec 4) (s : State) : Outcome State Fault Refusal :=
  vectorOp (.vfma rd ra rb m) s

/-- `vfms` (R156). -/
def execVfms (rd ra rb : BitVec 7) (m : BitVec 4) (s : State) : Outcome State Fault Refusal :=
  vectorOp (.vfms rd ra rb m) s

/-- `vfnma` (R156). -/
def execVfnma (rd ra rb : BitVec 7) (m : BitVec 4) (s : State) : Outcome State Fault Refusal :=
  vectorOp (.vfnma rd ra rb m) s

/-- `vfnms` (R156). -/
def execVfnms (rd ra rb : BitVec 7) (m : BitVec 4) (s : State) : Outcome State Fault Refusal :=
  vectorOp (.vfnms rd ra rb m) s

/-- `vfmin` (R157). -/
def execVfmin (rd ra rb : BitVec 7) (m : BitVec 4) (s : State) : Outcome State Fault Refusal :=
  vectorOp (.vfmin rd ra rb m) s

/-- `vfmax` (R157). -/
def execVfmax (rd ra rb : BitVec 7) (m : BitVec 4) (s : State) : Outcome State Fault Refusal :=
  vectorOp (.vfmax rd ra rb m) s

/-- `vfsign` (R158). -/
def execVfsign (rd ra rb : BitVec 7) (m : BitVec 4) (s : State) : Outcome State Fault Refusal :=
  vectorOp (.vfsign rd ra rb m) s

/-- `vfsignn` (R158). -/
def execVfsignn (rd ra rb : BitVec 7) (m : BitVec 4) (s : State) : Outcome State Fault Refusal :=
  vectorOp (.vfsignn rd ra rb m) s

/-- `vfsignx` (R158). -/
def execVfsignx (rd ra rb : BitVec 7) (m : BitVec 4) (s : State) : Outcome State Fault Refusal :=
  vectorOp (.vfsignx rd ra rb m) s

/-- `vcmp_eq` (R160). -/
def execVcmpEq (md : BitVec 4) (ra rb : BitVec 7) (m : BitVec 4) (s : State) : Outcome State Fault Refusal :=
  vectorOp (.vcmpEq md ra rb m) s

/-- `vcmp_ne` (R160). -/
def execVcmpNe (md : BitVec 4) (ra rb : BitVec 7) (m : BitVec 4) (s : State) : Outcome State Fault Refusal :=
  vectorOp (.vcmpNe md ra rb m) s

/-- `vcmp_lt` (R160). -/
def execVcmpLt (md : BitVec 4) (ra rb : BitVec 7) (m : BitVec 4) (s : State) : Outcome State Fault Refusal :=
  vectorOp (.vcmpLt md ra rb m) s

/-- `vcmp_ltu` (R160). -/
def execVcmpLtu (md : BitVec 4) (ra rb : BitVec 7) (m : BitVec 4) (s : State) : Outcome State Fault Refusal :=
  vectorOp (.vcmpLtu md ra rb m) s

/-- `vcmp_le` (R160). -/
def execVcmpLe (md : BitVec 4) (ra rb : BitVec 7) (m : BitVec 4) (s : State) : Outcome State Fault Refusal :=
  vectorOp (.vcmpLe md ra rb m) s

/-- `vcmp_leu` (R160). -/
def execVcmpLeu (md : BitVec 4) (ra rb : BitVec 7) (m : BitVec 4) (s : State) : Outcome State Fault Refusal :=
  vectorOp (.vcmpLeu md ra rb m) s

/-- `vcmp_gt` (R160). -/
def execVcmpGt (md : BitVec 4) (ra rb : BitVec 7) (m : BitVec 4) (s : State) : Outcome State Fault Refusal :=
  vectorOp (.vcmpGt md ra rb m) s

/-- `vcmp_gtu` (R160). -/
def execVcmpGtu (md : BitVec 4) (ra rb : BitVec 7) (m : BitVec 4) (s : State) : Outcome State Fault Refusal :=
  vectorOp (.vcmpGtu md ra rb m) s

/-- `vcmp_feq` (R160). -/
def execVcmpFeq (md : BitVec 4) (ra rb : BitVec 7) (m : BitVec 4) (s : State) : Outcome State Fault Refusal :=
  vectorOp (.vcmpFeq md ra rb m) s

/-- `vcmp_fne` (R160). -/
def execVcmpFne (md : BitVec 4) (ra rb : BitVec 7) (m : BitVec 4) (s : State) : Outcome State Fault Refusal :=
  vectorOp (.vcmpFne md ra rb m) s

/-- `vcmp_flt` (R160). -/
def execVcmpFlt (md : BitVec 4) (ra rb : BitVec 7) (m : BitVec 4) (s : State) : Outcome State Fault Refusal :=
  vectorOp (.vcmpFlt md ra rb m) s

/-- `vcmp_fle` (R160). -/
def execVcmpFle (md : BitVec 4) (ra rb : BitVec 7) (m : BitVec 4) (s : State) : Outcome State Fault Refusal :=
  vectorOp (.vcmpFle md ra rb m) s

/-- `vcmp_fgt` (R160). -/
def execVcmpFgt (md : BitVec 4) (ra rb : BitVec 7) (m : BitVec 4) (s : State) : Outcome State Fault Refusal :=
  vectorOp (.vcmpFgt md ra rb m) s

/-- `vcmp_fge` (R160). -/
def execVcmpFge (md : BitVec 4) (ra rb : BitVec 7) (m : BitVec 4) (s : State) : Outcome State Fault Refusal :=
  vectorOp (.vcmpFge md ra rb m) s

/-- `vcmp_funord` (R160). -/
def execVcmpFunord (md : BitVec 4) (ra rb : BitVec 7) (m : BitVec 4) (s : State) : Outcome State Fault Refusal :=
  vectorOp (.vcmpFunord md ra rb m) s

/-- `vcmp_ford` (R160). -/
def execVcmpFord (md : BitVec 4) (ra rb : BitVec 7) (m : BitVec 4) (s : State) : Outcome State Fault Refusal :=
  vectorOp (.vcmpFord md ra rb m) s

/-- `mand` (R168). -/
def execMand (rd ra rb : BitVec 7) (s : State) : Outcome State Fault Refusal :=
  vectorOp (.mand rd ra rb) s

/-- `mor` (R168). -/
def execMor (rd ra rb : BitVec 7) (s : State) : Outcome State Fault Refusal :=
  vectorOp (.mor rd ra rb) s

/-- `mxor` (R168). -/
def execMxor (rd ra rb : BitVec 7) (s : State) : Outcome State Fault Refusal :=
  vectorOp (.mxor rd ra rb) s

/-- `mandn` (R168). -/
def execMandn (rd ra rb : BitVec 7) (s : State) : Outcome State Fault Refusal :=
  vectorOp (.mandn rd ra rb) s

/-- `mnot` (R168). -/
def execMnot (rd ra : BitVec 7) (s : State) : Outcome State Fault Refusal :=
  vectorOp (.mnot rd ra) s

/-- `mset` (R168). -/
def execMset (rd : BitVec 7) (s : State) : Outcome State Fault Refusal :=
  vectorOp (.mset rd) s

/-- `mclr` (R168). -/
def execMclr (rd : BitVec 7) (s : State) : Outcome State Fault Refusal :=
  vectorOp (.mclr rd) s

/-- `mpopc` (R168). -/
def execMpopc (rd ra : BitVec 7) (s : State) : Outcome State Fault Refusal :=
  vectorOp (.mpopc rd ra) s

/-- `mfirst` (R168). -/
def execMfirst (rd ra : BitVec 7) (s : State) : Outcome State Fault Refusal :=
  vectorOp (.mfirst rd ra) s

/-- `mfromv` (R168). -/
def execMfromv (rd ra : BitVec 7) (s : State) : Outcome State Fault Refusal :=
  vectorOp (.mfromv rd ra) s

/-- `mtov` (R168). -/
def execMtov (rd ra : BitVec 7) (s : State) : Outcome State Fault Refusal :=
  vectorOp (.mtov rd ra) s

/-- `msbf` (R168). -/
def execMsbf (rd ra : BitVec 7) (s : State) : Outcome State Fault Refusal :=
  vectorOp (.msbf rd ra) s

/-- `miota` (R168). -/
def execMiota (rd ra : BitVec 7) (s : State) : Outcome State Fault Refusal :=
  vectorOp (.miota rd ra) s

/-- `vslideup` (R170). -/
def execVslideup (rd ra rb : BitVec 7) (s : State) : Outcome State Fault Refusal :=
  vectorOp (.vslideup rd ra rb) s

/-- `vslidedn` (R170). -/
def execVslidedn (rd ra rb : BitVec 7) (s : State) : Outcome State Fault Refusal :=
  vectorOp (.vslidedn rd ra rb) s

/-- `vbfly` (R170). -/
def execVbfly (rd ra rb : BitVec 7) (s : State) : Outcome State Fault Refusal :=
  vectorOp (.vbfly rd ra rb) s

/-- `vperm` (R170). -/
def execVperm (rd ra rb : BitVec 7) (s : State) : Outcome State Fault Refusal :=
  vectorOp (.vperm rd ra rb) s

/-- `vcompress` (R170). -/
def execVcompress (rd ra rb : BitVec 7) (s : State) : Outcome State Fault Refusal :=
  vectorOp (.vcompress rd ra rb) s

/-- `vexpand` (R170). -/
def execVexpand (rd ra rb : BitVec 7) (s : State) : Outcome State Fault Refusal :=
  vectorOp (.vexpand rd ra rb) s

/-- `vid` (R170). -/
def execVid (rd : BitVec 7) (s : State) : Outcome State Fault Refusal :=
  vectorOp (.vid rd) s

/-- `vbcast` (R170). -/
def execVbcast (rd ra rb : BitVec 7) (s : State) : Outcome State Fault Refusal :=
  vectorOp (.vbcast rd ra rb) s

/-- `vextr` (R170). -/
def execVextr (rd ra rb : BitVec 7) (s : State) : Outcome State Fault Refusal :=
  vectorOp (.vextr rd ra rb) s

/-- `vinsr` (R170). -/
def execVinsr (rd ra rb : BitVec 7) (s : State) : Outcome State Fault Refusal :=
  vectorOp (.vinsr rd ra rb) s

/-- `vmerge` (R170). -/
def execVmerge (rd ra rb : BitVec 7) (k : BitVec 4) (s : State) : Outcome State Fault Refusal :=
  vectorOp (.vmerge rd ra rb k) s

/-- `vfsqrt` (R173). -/
def execVfsqrt (rd ra : BitVec 7) (m : BitVec 4) (s : State) : Outcome State Fault Refusal :=
  vectorOp (.vfsqrt rd ra m) s

/-- `vneg` (R172). -/
def execVneg (rd ra : BitVec 7) (m : BitVec 4) (s : State) : Outcome State Fault Refusal :=
  vectorOp (.vneg rd ra m) s

/-- `vnot` (R172). -/
def execVnot (rd ra : BitVec 7) (m : BitVec 4) (s : State) : Outcome State Fault Refusal :=
  vectorOp (.vnot rd ra m) s

/-- `vclz` (R172). -/
def execVclz (rd ra : BitVec 7) (m : BitVec 4) (s : State) : Outcome State Fault Refusal :=
  vectorOp (.vclz rd ra m) s

/-- `vctz` (R172). -/
def execVctz (rd ra : BitVec 7) (m : BitVec 4) (s : State) : Outcome State Fault Refusal :=
  vectorOp (.vctz rd ra m) s

/-- `vpopc` (R172). -/
def execVpopc (rd ra : BitVec 7) (m : BitVec 4) (s : State) : Outcome State Fault Refusal :=
  vectorOp (.vpopc rd ra m) s

/-- `vfclass` (R173). -/
def execVfclass (rd ra : BitVec 7) (m : BitVec 4) (s : State) : Outcome State Fault Refusal :=
  vectorOp (.vfclass rd ra m) s

/-- `vfrint` (R173). -/
def execVfrint (rd ra : BitVec 7) (m : BitVec 4) (s : State) : Outcome State Fault Refusal :=
  vectorOp (.vfrint rd ra m) s

/-- `vcvt_f_i` (R174). -/
def execVcvtFI (rd ra : BitVec 7) (m : BitVec 4) (s : State) : Outcome State Fault Refusal :=
  vectorOp (.vcvtFI rd ra m) s

/-- `vcvt_f_iu` (R174). -/
def execVcvtFIu (rd ra : BitVec 7) (m : BitVec 4) (s : State) : Outcome State Fault Refusal :=
  vectorOp (.vcvtFIu rd ra m) s

/-- `vcvt_i_f` (R174). -/
def execVcvtIF (rd ra : BitVec 7) (m : BitVec 4) (s : State) : Outcome State Fault Refusal :=
  vectorOp (.vcvtIF rd ra m) s

/-- `vcvt_iu_f` (R174). -/
def execVcvtIuF (rd ra : BitVec 7) (m : BitVec 4) (s : State) : Outcome State Fault Refusal :=
  vectorOp (.vcvtIuF rd ra m) s

/-- `vwiden_i` (R176). -/
def execVwidenI (rd ra : BitVec 7) (m : BitVec 4) (s : State) : Outcome State Fault Refusal :=
  vectorOp (.vwidenI rd ra m) s

/-- `vwiden_iu` (R176). -/
def execVwidenIu (rd ra : BitVec 7) (m : BitVec 4) (s : State) : Outcome State Fault Refusal :=
  vectorOp (.vwidenIu rd ra m) s

/-- `vnarrow_i` (R176). -/
def execVnarrowI (rd ra : BitVec 7) (m : BitVec 4) (s : State) : Outcome State Fault Refusal :=
  vectorOp (.vnarrowI rd ra m) s

/-- `vnarrow_is` (R176). -/
def execVnarrowIs (rd ra : BitVec 7) (m : BitVec 4) (s : State) : Outcome State Fault Refusal :=
  vectorOp (.vnarrowIs rd ra m) s

/-- `vfwiden` (R176). -/
def execVfwiden (rd ra : BitVec 7) (m : BitVec 4) (s : State) : Outcome State Fault Refusal :=
  vectorOp (.vfwiden rd ra m) s

/-- `vfnarrow` (R176). -/
def execVfnarrow (rd ra : BitVec 7) (m : BitVec 4) (s : State) : Outcome State Fault Refusal :=
  vectorOp (.vfnarrow rd ra m) s

/-- `vrsum` (R178). -/
def execVrsum (rd ra : BitVec 7) (m : BitVec 4) (s : State) : Outcome State Fault Refusal :=
  vectorOp (.vrsum rd ra m) s

/-- `vrmax` (R178). -/
def execVrmax (rd ra : BitVec 7) (m : BitVec 4) (s : State) : Outcome State Fault Refusal :=
  vectorOp (.vrmax rd ra m) s

/-- `vrmin` (R178). -/
def execVrmin (rd ra : BitVec 7) (m : BitVec 4) (s : State) : Outcome State Fault Refusal :=
  vectorOp (.vrmin rd ra m) s

/-- `vrmaxu` (R178). -/
def execVrmaxu (rd ra : BitVec 7) (m : BitVec 4) (s : State) : Outcome State Fault Refusal :=
  vectorOp (.vrmaxu rd ra m) s

/-- `vrminu` (R178). -/
def execVrminu (rd ra : BitVec 7) (m : BitVec 4) (s : State) : Outcome State Fault Refusal :=
  vectorOp (.vrminu rd ra m) s

/-- `vredand` (R178). -/
def execVredand (rd ra : BitVec 7) (m : BitVec 4) (s : State) : Outcome State Fault Refusal :=
  vectorOp (.vredand rd ra m) s

/-- `vredor` (R178). -/
def execVredor (rd ra : BitVec 7) (m : BitVec 4) (s : State) : Outcome State Fault Refusal :=
  vectorOp (.vredor rd ra m) s

/-- `vredxor` (R178). -/
def execVredxor (rd ra : BitVec 7) (m : BitVec 4) (s : State) : Outcome State Fault Refusal :=
  vectorOp (.vredxor rd ra m) s

/-- `vfrsum` (R179). -/
def execVfrsum (rd ra : BitVec 7) (m : BitVec 4) (s : State) : Outcome State Fault Refusal :=
  vectorOp (.vfrsum rd ra m) s

/-- `vfrmax` (R179). -/
def execVfrmax (rd ra : BitVec 7) (m : BitVec 4) (s : State) : Outcome State Fault Refusal :=
  vectorOp (.vfrmax rd ra m) s

/-- `vfrmin` (R179). -/
def execVfrmin (rd ra : BitVec 7) (m : BitVec 4) (s : State) : Outcome State Fault Refusal :=
  vectorOp (.vfrmin rd ra m) s

/-- `vscan` (R180). -/
def execVscan (rd ra : BitVec 7) (m : BitVec 4) (s : State) : Outcome State Fault Refusal :=
  vectorOp (.vscan rd ra m) s

/-- `vfscan` (R180). -/
def execVfscan (rd ra : BitVec 7) (m : BitVec 4) (s : State) : Outcome State Fault Refusal :=
  vectorOp (.vfscan rd ra m) s

/-- `vscanx` (R180). -/
def execVscanx (rd ra : BitVec 7) (m : BitVec 4) (s : State) : Outcome State Fault Refusal :=
  vectorOp (.vscanx rd ra m) s

/-- `vrand` (R182). -/
def execVrand (rd ra rb : BitVec 7) (s : State) : Outcome State Fault Refusal :=
  vectorOp (.vrand rd ra rb) s

/-- `vrandf` (R182). -/
def execVrandf (rd ra rb : BitVec 7) (s : State) : Outcome State Fault Refusal :=
  vectorOp (.vrandf rd ra rb) s

/-- `vrandm` (R182). -/
def execVrandm (rd ra rb : BitVec 7) (s : State) : Outcome State Fault Refusal :=
  vectorOp (.vrandm rd ra rb) s

/-- `vld` (R208). -/
def execVld (rd ra rb : BitVec 7) (m : BitVec 4) (s : State) : Outcome State Fault Refusal :=
  vectorOp (.vld rd ra rb m) s

/-- `vld_nb` (R211). -/
def execVldNb (rd ra rb : BitVec 7) (m : BitVec 4) (s : State) : Outcome State Fault Refusal :=
  vectorOp (.vldNb rd ra rb m) s

/-- `vst` (R208). -/
def execVst (rd ra rb : BitVec 7) (m : BitVec 4) (s : State) : Outcome State Fault Refusal :=
  vectorOp (.vst rd ra rb m) s

/-- `vst_nb` (R211). -/
def execVstNb (rd ra rb : BitVec 7) (m : BitVec 4) (s : State) : Outcome State Fault Refusal :=
  vectorOp (.vstNb rd ra rb m) s

/-- `vldx` (R208). -/
def execVldx (rd ra rb : BitVec 7) (m : BitVec 4) (s : State) : Outcome State Fault Refusal :=
  vectorOp (.vldx rd ra rb m) s

/-- `vldx_nb` (R211). -/
def execVldxNb (rd ra rb : BitVec 7) (m : BitVec 4) (s : State) : Outcome State Fault Refusal :=
  vectorOp (.vldxNb rd ra rb m) s

/-- `vstx` (R209). -/
def execVstx (rd ra rb : BitVec 7) (m : BitVec 4) (s : State) : Outcome State Fault Refusal :=
  vectorOp (.vstx rd ra rb m) s

/-- `vstx_nb` (R211). -/
def execVstxNb (rd ra rb : BitVec 7) (m : BitVec 4) (s : State) : Outcome State Fault Refusal :=
  vectorOp (.vstxNb rd ra rb m) s

/-- `vaadd` (R214). -/
def execVaadd (rd ra rb : BitVec 7) (m : BitVec 4) (s : State) : Outcome State Fault Refusal :=
  vectorOp (.vaadd rd ra rb m) s

/-- `vafadd` (R214). -/
def execVafadd (rd ra rb : BitVec 7) (m : BitVec 4) (s : State) : Outcome State Fault Refusal :=
  vectorOp (.vafadd rd ra rb m) s

/-- `tld` (R219). -/
def execTld (rd : BitVec 7) (t : BitVec 4) (rs : BitVec 7) (m : BitVec 4) (s : State) : Outcome State Fault Refusal :=
  vectorOp (.tld rd t rs m) s

/-- `tst` (R220). -/
def execTst (rd : BitVec 7) (t : BitVec 4) (rs : BitVec 7) (m : BitVec 4) (s : State) : Outcome State Fault Refusal :=
  vectorOp (.tst rd t rs m) s

/-- `tld_nb` (R219). -/
def execTldNb (rd : BitVec 7) (t : BitVec 4) (rs : BitVec 7) (m : BitVec 4) (s : State) : Outcome State Fault Refusal :=
  vectorOp (.tldNb rd t rs m) s

/-- `tst_nb` (R220). -/
def execTstNb (rd : BitVec 7) (t : BitVec 4) (rs : BitVec 7) (m : BitVec 4) (s : State) : Outcome State Fault Refusal :=
  vectorOp (.tstNb rd t rs m) s

end Sys2Proof.Machine
end

