-- ==== Sys2Proof/Machine/Dispatch.lean ====
section
/-! DEFINITION. One arm per constructor of `Instr`. Each arm calls the meaning of its instruction or step. -/

namespace Sys2Proof.Machine

open Host in noncomputable def exec (i : Instr) (s : State) : Host.Outcome State Fault Refusal :=
  match i with
  | .add rd ra rb => Sys2Proof.Machine.execAdd rd ra rb s
  | .sub rd ra rb => Sys2Proof.Machine.execSub rd ra rb s
  | .and rd ra rb => Sys2Proof.Machine.execAnd rd ra rb s
  | .or rd ra rb => Sys2Proof.Machine.execOr rd ra rb s
  | .xor rd ra rb => Sys2Proof.Machine.execXor rd ra rb s
  | .andn rd ra rb => Sys2Proof.Machine.execAndn rd ra rb s
  | .orn rd ra rb => Sys2Proof.Machine.execOrn rd ra rb s
  | .sll rd ra rb => Sys2Proof.Machine.execSll rd ra rb s
  | .srl rd ra rb => Sys2Proof.Machine.execSrl rd ra rb s
  | .sra rd ra rb => Sys2Proof.Machine.execSra rd ra rb s
  | .rol rd ra rb => Sys2Proof.Machine.execRol rd ra rb s
  | .ror rd ra rb => Sys2Proof.Machine.execRor rd ra rb s
  | .slt rd ra rb => Sys2Proof.Machine.execSlt rd ra rb s
  | .sltu rd ra rb => Sys2Proof.Machine.execSltu rd ra rb s
  | .min rd ra rb => Sys2Proof.Machine.execMin rd ra rb s
  | .max rd ra rb => Sys2Proof.Machine.execMax rd ra rb s
  | .minu rd ra rb => Sys2Proof.Machine.execMinu rd ra rb s
  | .maxu rd ra rb => Sys2Proof.Machine.execMaxu rd ra rb s
  | .mul rd ra rb => Sys2Proof.Machine.execMul rd ra rb s
  | .mulh rd ra rb => Sys2Proof.Machine.execMulh rd ra rb s
  | .mulhu rd ra rb => Sys2Proof.Machine.execMulhu rd ra rb s
  | .div rd ra rb => Sys2Proof.Machine.execDiv rd ra rb s
  | .divu rd ra rb => Sys2Proof.Machine.execDivu rd ra rb s
  | .rem rd ra rb => Sys2Proof.Machine.execRem rd ra rb s
  | .remu rd ra rb => Sys2Proof.Machine.execRemu rd ra rb s
  | .clz rd ra => Sys2Proof.Machine.execClz rd ra s
  | .ctz rd ra => Sys2Proof.Machine.execCtz rd ra s
  | .popc rd ra => Sys2Proof.Machine.execPopc rd ra s
  | .sextb rd ra => Sys2Proof.Machine.execSextb rd ra s
  | .sexth rd ra => Sys2Proof.Machine.execSexth rd ra s
  | .sextw rd ra => Sys2Proof.Machine.execSextw rd ra s
  | .zextw rd ra => Sys2Proof.Machine.execZextw rd ra s
  | .addw rd ra rb => Sys2Proof.Machine.execAddw rd ra rb s
  | .subw rd ra rb => Sys2Proof.Machine.execSubw rd ra rb s
  | .sllw rd ra rb => Sys2Proof.Machine.execSllw rd ra rb s
  | .srlw rd ra rb => Sys2Proof.Machine.execSrlw rd ra rb s
  | .sraw rd ra rb => Sys2Proof.Machine.execSraw rd ra rb s
  | .mulw rd ra rb => Sys2Proof.Machine.execMulw rd ra rb s
  | .divw rd ra rb => Sys2Proof.Machine.execDivw rd ra rb s
  | .divuw rd ra rb => Sys2Proof.Machine.execDivuw rd ra rb s
  | .remw rd ra rb => Sys2Proof.Machine.execRemw rd ra rb s
  | .remuw rd ra rb => Sys2Proof.Machine.execRemuw rd ra rb s
  | .addi rd ra imm => Sys2Proof.Machine.execAddi rd ra imm s
  | .andi rd ra imm => Sys2Proof.Machine.execAndi rd ra imm s
  | .ori rd ra imm => Sys2Proof.Machine.execOri rd ra imm s
  | .xori rd ra imm => Sys2Proof.Machine.execXori rd ra imm s
  | .slli rd ra n => Sys2Proof.Machine.execSlli rd ra n s
  | .srli rd ra n => Sys2Proof.Machine.execSrli rd ra n s
  | .srai rd ra n => Sys2Proof.Machine.execSrai rd ra n s
  | .rori rd ra n => Sys2Proof.Machine.execRori rd ra n s
  | .slti rd ra imm => Sys2Proof.Machine.execSlti rd ra imm s
  | .lui rd imm => Sys2Proof.Machine.execLui rd imm s
  | .auipc rd imm => Sys2Proof.Machine.execAuipc rd imm s
  | .beq ra rb off => Sys2Proof.Machine.execBeq ra rb off s
  | .bne ra rb off => Sys2Proof.Machine.execBne ra rb off s
  | .blt ra rb off => Sys2Proof.Machine.execBlt ra rb off s
  | .bge ra rb off => Sys2Proof.Machine.execBge ra rb off s
  | .bltu ra rb off => Sys2Proof.Machine.execBltu ra rb off s
  | .bgeu ra rb off => Sys2Proof.Machine.execBgeu ra rb off s
  | .jal rd off => Sys2Proof.Machine.execJal rd off s
  | .jalr rd ra imm => Sys2Proof.Machine.execJalr rd ra imm s
  | .lb rd ra imm => Sys2Proof.Machine.execLb rd ra imm s
  | .lbu rd ra imm => Sys2Proof.Machine.execLbu rd ra imm s
  | .lh rd ra imm => Sys2Proof.Machine.execLh rd ra imm s
  | .lhu rd ra imm => Sys2Proof.Machine.execLhu rd ra imm s
  | .lw rd ra imm => Sys2Proof.Machine.execLw rd ra imm s
  | .lwu rd ra imm => Sys2Proof.Machine.execLwu rd ra imm s
  | .ld rd ra imm => Sys2Proof.Machine.execLd rd ra imm s
  | .ldb rd ra imm => Sys2Proof.Machine.execLdb rd ra imm s
  | .sb rd ra imm => Sys2Proof.Machine.execSb rd ra imm s
  | .sh rd ra imm => Sys2Proof.Machine.execSh rd ra imm s
  | .sw rd ra imm => Sys2Proof.Machine.execSw rd ra imm s
  | .sd rd ra imm => Sys2Proof.Machine.execSd rd ra imm s
  | .ldaS rd ra => Sys2Proof.Machine.execLdaS rd ra s
  | .ldaD rd ra => Sys2Proof.Machine.execLdaD rd ra s
  | .ldaP rd ra => Sys2Proof.Machine.execLdaP rd ra s
  | .strS ra rb => Sys2Proof.Machine.execStrS ra rb s
  | .strD ra rb => Sys2Proof.Machine.execStrD ra rb s
  | .strP ra rb => Sys2Proof.Machine.execStrP ra rb s
  | .aadd ra rb => Sys2Proof.Machine.execAadd ra rb s
  | .aand ra rb => Sys2Proof.Machine.execAand ra rb s
  | .aor ra rb => Sys2Proof.Machine.execAor ra rb s
  | .axor ra rb => Sys2Proof.Machine.execAxor ra rb s
  | .amin ra rb => Sys2Proof.Machine.execAmin ra rb s
  | .amax ra rb => Sys2Proof.Machine.execAmax ra rb s
  | .aminu ra rb => Sys2Proof.Machine.execAminu ra rb s
  | .amaxu ra rb => Sys2Proof.Machine.execAmaxu ra rb s
  | .afadd ra rb => Sys2Proof.Machine.execAfadd ra rb s
  | .afadds ra rb => Sys2Proof.Machine.execAfadds ra rb s
  | .afetch rd ra rb => Sys2Proof.Machine.execAfetch rd ra rb s
  | .acas rd ra rb => Sys2Proof.Machine.execAcas rd ra rb s
  | .aswap rd ra rb => Sys2Proof.Machine.execAswap rd ra rb s
  | .sumrd rd ra => Sys2Proof.Machine.execSumrd rd ra s
  | .sumrds rd ra => Sys2Proof.Machine.execSumrds rd ra s
  | .fenceSv sc => Sys2Proof.Machine.execFenceSv sc s
  | .fenceVs sc => Sys2Proof.Machine.execFenceVs sc s
  | .fenceVv sc => Sys2Proof.Machine.execFenceVv sc s
  | .fenceAll sc => Sys2Proof.Machine.execFenceAll sc s
  | .fenceAcq sc => Sys2Proof.Machine.execFenceAcq sc s
  | .fenceRel sc => Sys2Proof.Machine.execFenceRel sc s
  | .fenceRem sc => Sys2Proof.Machine.execFenceRem sc s
  | .csrrw rd ra c => Sys2Proof.Machine.execCsrrw rd ra c s
  | .csrrs rd ra c => Sys2Proof.Machine.execCsrrs rd ra c s
  | .winadj n => Sys2Proof.Machine.execWinadj n s
  | .winset ra => Sys2Proof.Machine.execWinset ra s
  | .trap imm => Sys2Proof.Machine.execTrap imm s
  | .eret => Sys2Proof.Machine.execEret s
  | .brk => Sys2Proof.Machine.execBrk s
  | .l1inv => Sys2Proof.Machine.execL1inv s
  | .winv => Sys2Proof.Machine.execWinv s
  | .ctxsave ra => Sys2Proof.Machine.execCtxsave ra s
  | .ctxrest ra => Sys2Proof.Machine.execCtxrest ra s
  | .halt => Sys2Proof.Machine.execHalt s
  | .xfmq ra => Sys2Proof.Machine.execXfmq ra s
  | .vmodeS => Sys2Proof.Machine.execVmodeS s
  | .vmodeL ra => Sys2Proof.Machine.execVmodeL ra s
  | .setvl rd ra => Sys2Proof.Machine.execSetvl rd ra s
  | .setvlD rd ra rb => Sys2Proof.Machine.execSetvlD rd ra rb s
  | .setvt ra => Sys2Proof.Machine.execSetvt ra s
  | .rep cnt fd fa fb st => Sys2Proof.Machine.execRep cnt fd fa fb st s
  | .loop t len nm => Sys2Proof.Machine.execLoop t len nm s
  | .vadd rd ra rb m => Sys2Proof.Machine.execVadd rd ra rb m s
  | .vsub rd ra rb m => Sys2Proof.Machine.execVsub rd ra rb m s
  | .vmul rd ra rb m => Sys2Proof.Machine.execVmul rd ra rb m s
  | .vmulh rd ra rb m => Sys2Proof.Machine.execVmulh rd ra rb m s
  | .vmulhu rd ra rb m => Sys2Proof.Machine.execVmulhu rd ra rb m s
  | .vdiv rd ra rb m => Sys2Proof.Machine.execVdiv rd ra rb m s
  | .vdivu rd ra rb m => Sys2Proof.Machine.execVdivu rd ra rb m s
  | .vrem rd ra rb m => Sys2Proof.Machine.execVrem rd ra rb m s
  | .vremu rd ra rb m => Sys2Proof.Machine.execVremu rd ra rb m s
  | .vand rd ra rb m => Sys2Proof.Machine.execVand rd ra rb m s
  | .vor rd ra rb m => Sys2Proof.Machine.execVor rd ra rb m s
  | .vxor rd ra rb m => Sys2Proof.Machine.execVxor rd ra rb m s
  | .vsll rd ra rb m => Sys2Proof.Machine.execVsll rd ra rb m s
  | .vsrl rd ra rb m => Sys2Proof.Machine.execVsrl rd ra rb m s
  | .vsra rd ra rb m => Sys2Proof.Machine.execVsra rd ra rb m s
  | .vmin rd ra rb m => Sys2Proof.Machine.execVmin rd ra rb m s
  | .vminu rd ra rb m => Sys2Proof.Machine.execVminu rd ra rb m s
  | .vmax rd ra rb m => Sys2Proof.Machine.execVmax rd ra rb m s
  | .vmaxu rd ra rb m => Sys2Proof.Machine.execVmaxu rd ra rb m s
  | .vfadd rd ra rb m => Sys2Proof.Machine.execVfadd rd ra rb m s
  | .vfsub rd ra rb m => Sys2Proof.Machine.execVfsub rd ra rb m s
  | .vfmul rd ra rb m => Sys2Proof.Machine.execVfmul rd ra rb m s
  | .vfdiv rd ra rb m => Sys2Proof.Machine.execVfdiv rd ra rb m s
  | .vfma rd ra rb m => Sys2Proof.Machine.execVfma rd ra rb m s
  | .vfms rd ra rb m => Sys2Proof.Machine.execVfms rd ra rb m s
  | .vfnma rd ra rb m => Sys2Proof.Machine.execVfnma rd ra rb m s
  | .vfnms rd ra rb m => Sys2Proof.Machine.execVfnms rd ra rb m s
  | .vfmin rd ra rb m => Sys2Proof.Machine.execVfmin rd ra rb m s
  | .vfmax rd ra rb m => Sys2Proof.Machine.execVfmax rd ra rb m s
  | .vfsign rd ra rb m => Sys2Proof.Machine.execVfsign rd ra rb m s
  | .vfsignn rd ra rb m => Sys2Proof.Machine.execVfsignn rd ra rb m s
  | .vfsignx rd ra rb m => Sys2Proof.Machine.execVfsignx rd ra rb m s
  | .vcmpEq md ra rb m => Sys2Proof.Machine.execVcmpEq md ra rb m s
  | .vcmpNe md ra rb m => Sys2Proof.Machine.execVcmpNe md ra rb m s
  | .vcmpLt md ra rb m => Sys2Proof.Machine.execVcmpLt md ra rb m s
  | .vcmpLtu md ra rb m => Sys2Proof.Machine.execVcmpLtu md ra rb m s
  | .vcmpLe md ra rb m => Sys2Proof.Machine.execVcmpLe md ra rb m s
  | .vcmpLeu md ra rb m => Sys2Proof.Machine.execVcmpLeu md ra rb m s
  | .vcmpGt md ra rb m => Sys2Proof.Machine.execVcmpGt md ra rb m s
  | .vcmpGtu md ra rb m => Sys2Proof.Machine.execVcmpGtu md ra rb m s
  | .vcmpFeq md ra rb m => Sys2Proof.Machine.execVcmpFeq md ra rb m s
  | .vcmpFne md ra rb m => Sys2Proof.Machine.execVcmpFne md ra rb m s
  | .vcmpFlt md ra rb m => Sys2Proof.Machine.execVcmpFlt md ra rb m s
  | .vcmpFle md ra rb m => Sys2Proof.Machine.execVcmpFle md ra rb m s
  | .vcmpFgt md ra rb m => Sys2Proof.Machine.execVcmpFgt md ra rb m s
  | .vcmpFge md ra rb m => Sys2Proof.Machine.execVcmpFge md ra rb m s
  | .vcmpFunord md ra rb m => Sys2Proof.Machine.execVcmpFunord md ra rb m s
  | .vcmpFord md ra rb m => Sys2Proof.Machine.execVcmpFord md ra rb m s
  | .mand rd ra rb => Sys2Proof.Machine.execMand rd ra rb s
  | .mor rd ra rb => Sys2Proof.Machine.execMor rd ra rb s
  | .mxor rd ra rb => Sys2Proof.Machine.execMxor rd ra rb s
  | .mandn rd ra rb => Sys2Proof.Machine.execMandn rd ra rb s
  | .mnot rd ra => Sys2Proof.Machine.execMnot rd ra s
  | .mset rd => Sys2Proof.Machine.execMset rd s
  | .mclr rd => Sys2Proof.Machine.execMclr rd s
  | .mpopc rd ra => Sys2Proof.Machine.execMpopc rd ra s
  | .mfirst rd ra => Sys2Proof.Machine.execMfirst rd ra s
  | .mfromv rd ra => Sys2Proof.Machine.execMfromv rd ra s
  | .mtov rd ra => Sys2Proof.Machine.execMtov rd ra s
  | .msbf rd ra => Sys2Proof.Machine.execMsbf rd ra s
  | .miota rd ra => Sys2Proof.Machine.execMiota rd ra s
  | .vslideup rd ra rb => Sys2Proof.Machine.execVslideup rd ra rb s
  | .vslidedn rd ra rb => Sys2Proof.Machine.execVslidedn rd ra rb s
  | .vbfly rd ra rb => Sys2Proof.Machine.execVbfly rd ra rb s
  | .vperm rd ra rb => Sys2Proof.Machine.execVperm rd ra rb s
  | .vcompress rd ra rb => Sys2Proof.Machine.execVcompress rd ra rb s
  | .vexpand rd ra rb => Sys2Proof.Machine.execVexpand rd ra rb s
  | .vid rd => Sys2Proof.Machine.execVid rd s
  | .vbcast rd ra rb => Sys2Proof.Machine.execVbcast rd ra rb s
  | .vextr rd ra rb => Sys2Proof.Machine.execVextr rd ra rb s
  | .vinsr rd ra rb => Sys2Proof.Machine.execVinsr rd ra rb s
  | .vmerge rd ra rb k => Sys2Proof.Machine.execVmerge rd ra rb k s
  | .vfsqrt rd ra m => Sys2Proof.Machine.execVfsqrt rd ra m s
  | .vneg rd ra m => Sys2Proof.Machine.execVneg rd ra m s
  | .vnot rd ra m => Sys2Proof.Machine.execVnot rd ra m s
  | .vclz rd ra m => Sys2Proof.Machine.execVclz rd ra m s
  | .vctz rd ra m => Sys2Proof.Machine.execVctz rd ra m s
  | .vpopc rd ra m => Sys2Proof.Machine.execVpopc rd ra m s
  | .vfclass rd ra m => Sys2Proof.Machine.execVfclass rd ra m s
  | .vfrint rd ra m => Sys2Proof.Machine.execVfrint rd ra m s
  | .vcvtFI rd ra m => Sys2Proof.Machine.execVcvtFI rd ra m s
  | .vcvtFIu rd ra m => Sys2Proof.Machine.execVcvtFIu rd ra m s
  | .vcvtIF rd ra m => Sys2Proof.Machine.execVcvtIF rd ra m s
  | .vcvtIuF rd ra m => Sys2Proof.Machine.execVcvtIuF rd ra m s
  | .vwidenI rd ra m => Sys2Proof.Machine.execVwidenI rd ra m s
  | .vwidenIu rd ra m => Sys2Proof.Machine.execVwidenIu rd ra m s
  | .vnarrowI rd ra m => Sys2Proof.Machine.execVnarrowI rd ra m s
  | .vnarrowIs rd ra m => Sys2Proof.Machine.execVnarrowIs rd ra m s
  | .vfwiden rd ra m => Sys2Proof.Machine.execVfwiden rd ra m s
  | .vfnarrow rd ra m => Sys2Proof.Machine.execVfnarrow rd ra m s
  | .vrsum rd ra m => Sys2Proof.Machine.execVrsum rd ra m s
  | .vrmax rd ra m => Sys2Proof.Machine.execVrmax rd ra m s
  | .vrmin rd ra m => Sys2Proof.Machine.execVrmin rd ra m s
  | .vrmaxu rd ra m => Sys2Proof.Machine.execVrmaxu rd ra m s
  | .vrminu rd ra m => Sys2Proof.Machine.execVrminu rd ra m s
  | .vredand rd ra m => Sys2Proof.Machine.execVredand rd ra m s
  | .vredor rd ra m => Sys2Proof.Machine.execVredor rd ra m s
  | .vredxor rd ra m => Sys2Proof.Machine.execVredxor rd ra m s
  | .vfrsum rd ra m => Sys2Proof.Machine.execVfrsum rd ra m s
  | .vfrmax rd ra m => Sys2Proof.Machine.execVfrmax rd ra m s
  | .vfrmin rd ra m => Sys2Proof.Machine.execVfrmin rd ra m s
  | .vscan rd ra m => Sys2Proof.Machine.execVscan rd ra m s
  | .vfscan rd ra m => Sys2Proof.Machine.execVfscan rd ra m s
  | .vscanx rd ra m => Sys2Proof.Machine.execVscanx rd ra m s
  | .vrand rd ra rb => Sys2Proof.Machine.execVrand rd ra rb s
  | .vrandf rd ra rb => Sys2Proof.Machine.execVrandf rd ra rb s
  | .vrandm rd ra rb => Sys2Proof.Machine.execVrandm rd ra rb s
  | .vld rd ra rb m => Sys2Proof.Machine.execVld rd ra rb m s
  | .vldNb rd ra rb m => Sys2Proof.Machine.execVldNb rd ra rb m s
  | .vst rd ra rb m => Sys2Proof.Machine.execVst rd ra rb m s
  | .vstNb rd ra rb m => Sys2Proof.Machine.execVstNb rd ra rb m s
  | .vldx rd ra rb m => Sys2Proof.Machine.execVldx rd ra rb m s
  | .vldxNb rd ra rb m => Sys2Proof.Machine.execVldxNb rd ra rb m s
  | .vstx rd ra rb m => Sys2Proof.Machine.execVstx rd ra rb m s
  | .vstxNb rd ra rb m => Sys2Proof.Machine.execVstxNb rd ra rb m s
  | .vaadd rd ra rb m => Sys2Proof.Machine.execVaadd rd ra rb m s
  | .vafadd rd ra rb m => Sys2Proof.Machine.execVafadd rd ra rb m s
  | .tld rd t rs m => Sys2Proof.Machine.execTld rd t rs m s
  | .tst rd t rs m => Sys2Proof.Machine.execTst rd t rs m s
  | .tldNb rd t rs m => Sys2Proof.Machine.execTldNb rd t rs m s
  | .tstNb rd t rs m => Sys2Proof.Machine.execTstNb rd t rs m s
  | .mmav az tB va sn m => Sys2Proof.Machine.execMmav az tB va sn m s
  | .mmat az tB tA sn m => Sys2Proof.Machine.execMmat az tB tA sn m s
  | .mmatG az tB tA sn m => Sys2Proof.Machine.execMmatG az tB tA sn m s
  | .mz rd => Sys2Proof.Machine.execMz rd s
  | .mst rd ra rb => Sys2Proof.Machine.execMst rd ra rb s
  | .mrd rd ra rb => Sys2Proof.Machine.execMrd rd ra rb s
  | .msync => Sys2Proof.Machine.execMsync s
  | .mwr rd ra rb => Sys2Proof.Machine.execMwr rd ra rb s
  | .ceresume ra => Sys2Proof.Machine.execCeresume ra s
  | .cecancel ra => Sys2Proof.Machine.execCecancel ra s
  | .cestat rd ra => Sys2Proof.Machine.execCestat rd ra s
  | .waitge ra rb => Sys2Proof.Machine.execWaitge ra rb s
  | .waitt ra => Sys2Proof.Machine.execWaitt ra s
  | .waitp ra => Sys2Proof.Machine.execWaitp ra s
  | .claim rd ra rb => Sys2Proof.Machine.execClaim rd ra rb s
  | .claimt rd ra rb => Sys2Proof.Machine.execClaimt rd ra rb s
  | .launch rd ra => Sys2Proof.Machine.execLaunch rd ra s
  | .cancel ra => Sys2Proof.Machine.execCancel ra s
  | .exit => Sys2Proof.Machine.execExit s
  | .yield => Sys2Proof.Machine.execYield s
  | .gjoin ra => Sys2Proof.Machine.execGjoin ra s
  | .gleave ra => Sys2Proof.Machine.execGleave ra s
  | .gbar ra => Sys2Proof.Machine.execGbar ra s
  | .crs rd ra rb => Sys2Proof.Machine.execCrs rd ra rb s
  | .car rd ra rb => Sys2Proof.Machine.execCar rd ra rb s
  | .cbc rd ra rb => Sys2Proof.Machine.execCbc rd ra rb s
  | .cag rd ra rb => Sys2Proof.Machine.execCag rd ra rb s
  | .cbar ra rb => Sys2Proof.Machine.execCbar ra rb s
  | .cbarRt ra rb => Sys2Proof.Machine.execCbarRt ra rb s
  | .tldr rd ra => Sys2Proof.Machine.execTldr rd ra s
  | .tstr rd ra => Sys2Proof.Machine.execTstr rd ra s
  | .tset rd ra rb => Sys2Proof.Machine.execTset rd ra rb s
  | .tget rd ra rb => Sys2Proof.Machine.execTget rd ra rb s
  | .vshp rd ra => Sys2Proof.Machine.execVshp rd ra s
  | .ceprom rd ra => Sys2Proof.Machine.execCeprom rd ra s
  | .ceLaunch => Sys2Proof.Machine.execCeLaunch s
  | .vtypeWrite v => Sys2Proof.Machine.execVtypeWrite v s
  | .vlWrite v => Sys2Proof.Machine.execVlWrite v s
  | .vstartWrite v => Sys2Proof.Machine.execVstartWrite v s
  | .wbWrite v => Sys2Proof.Machine.execWbWrite v s
  | .nbctrWrite v => Sys2Proof.Machine.execNbctrWrite v s
  | .mstatWrite v => Sys2Proof.Machine.execMstatWrite v s
  | .kstatusWrite v => Sys2Proof.Machine.execKstatusWrite v s
  | .ptbrWrite c v => Sys2Proof.Machine.execPtbrWrite c v s
  | .kbgrantWrite v => Sys2Proof.Machine.execKbgrantWrite v s
  | .registerWrite r v => Sys2Proof.Machine.execRegisterWrite r v s
  | .tlbinv peer v => Sys2Proof.Machine.execTlbinv peer v s
  | .invalidationComplete peer => Sys2Proof.Machine.execInvalidationComplete peer s
  | .hmsgWrite peer span slot v => Sys2Proof.Machine.execHmsgWrite peer span slot v s
  | .hmsgRead peer span slot => Sys2Proof.Machine.execHmsgRead peer span slot s
  | .devmsg v => Sys2Proof.Machine.execDevmsg v s
  | .hevqd node => Sys2Proof.Machine.execHevqd node s
  | .detectWrite peer v => Sys2Proof.Machine.execDetectWrite peer v s
  | .timeoutWrite peer v => Sys2Proof.Machine.execTimeoutWrite peer v s
  | .communicatorWord0Write peer comm v => Sys2Proof.Machine.execCommunicatorWord0Write peer comm v s
  | .drain node => Sys2Proof.Machine.execDrain node s
  | .retrain node => Sys2Proof.Machine.execRetrain node s
  | .loadrt node => Sys2Proof.Machine.execLoadrt node s
  | .query node => Sys2Proof.Machine.execQuery node s
  | .portDrained node port => Sys2Proof.Machine.execPortDrained node port s
  | .drainTimeout node port => Sys2Proof.Machine.execDrainTimeout node port s
  | .trainingSuccess node port => Sys2Proof.Machine.execTrainingSuccess node port s
  | .trainingTimeout node port => Sys2Proof.Machine.execTrainingTimeout node port s
  | .verifyResult node port far => Sys2Proof.Machine.execVerifyResult node port far s
  | .preEmpt => Sys2Proof.Machine.execPreEmpt s
  | .timer => Sys2Proof.Machine.execTimer s
  | .transferMemoryError => Sys2Proof.Machine.execTransferMemoryError s
  | .hostMessage => Sys2Proof.Machine.execHostMessage s
  | .queueDeadlock => Sys2Proof.Machine.execQueueDeadlock s
  | .elementGroupStart => Sys2Proof.Machine.execElementGroupStart s
  | .elementGroupWrite => Sys2Proof.Machine.execElementGroupWrite s
  | .loadDataArrival => Sys2Proof.Machine.execLoadDataArrival s
  | .nbCounterIncrement => Sys2Proof.Machine.execNbCounterIncrement s
  | .linkEntryStaging => Sys2Proof.Machine.execLinkEntryStaging s
  | .trussEntryStart => Sys2Proof.Machine.execTrussEntryStart s
  | .trussEntryComplete => Sys2Proof.Machine.execTrussEntryComplete s
  | .deferredQueuePush q => Sys2Proof.Machine.execDeferredQueuePush q s
  | .copyUnit id => Sys2Proof.Machine.execCopyUnit id s
  | .transferCompletion id => Sys2Proof.Machine.execTransferCompletion id s
  | .waitgeWake => Sys2Proof.Machine.execWaitgeWake s
  | .waittWake => Sys2Proof.Machine.execWaittWake s
  | .waitpWake => Sys2Proof.Machine.execWaitpWake s
  | .missedPromise => Sys2Proof.Machine.execMissedPromise s
  | .generationComplete peer setAddr => Sys2Proof.Machine.execGenerationComplete peer setAddr s
  | .longModeGrant peer span => Sys2Proof.Machine.execLongModeGrant peer span s
  | .dependenceMet peer entry => Sys2Proof.Machine.execDependenceMet peer entry s
  | .placement peer => Sys2Proof.Machine.execPlacement peer s
  | .spanStart peer span => Sys2Proof.Machine.execSpanStart peer span s
  | .dispatch peer entry => Sys2Proof.Machine.execDispatch peer entry s
  | .threadRestore peer entry => Sys2Proof.Machine.execThreadRestore peer entry s
  | .victimTermination peer span => Sys2Proof.Machine.execVictimTermination peer span s
  | .launchCompletion peer entry => Sys2Proof.Machine.execLaunchCompletion peer entry s
  | .packetHop id hop => Sys2Proof.Machine.execPacketHop id hop s
  | .requestAtHome id => Sys2Proof.Machine.execRequestAtHome id s
  | .acknowledgement id => Sys2Proof.Machine.execAcknowledgement id s
  | .faultResponse id => Sys2Proof.Machine.execFaultResponse id s
  | .lostResponse id => Sys2Proof.Machine.execLostResponse id s
  | .detectTimeout id => Sys2Proof.Machine.execDetectTimeout id s
  | .packageTokenVisit node => Sys2Proof.Machine.execPackageTokenVisit node s
  | .podTokenVisit => Sys2Proof.Machine.execPodTokenVisit s
  | .packageTokenReissue node => Sys2Proof.Machine.execPackageTokenReissue node s
  | .podTokenReissue => Sys2Proof.Machine.execPodTokenReissue s
  | .suspectSunk id => Sys2Proof.Machine.execSuspectSunk id s
  | .l1FillArrival peer span => Sys2Proof.Machine.execL1FillArrival peer span s
  | .windowFillArrival peer => Sys2Proof.Machine.execWindowFillArrival peer s
  | .chunkSend peer => Sys2Proof.Machine.execChunkSend peer s
  | .contributionArrival id => Sys2Proof.Machine.execContributionArrival id s
  | .barrierMessage id => Sys2Proof.Machine.execBarrierMessage id s
  | .collectiveCompletion peer comm => Sys2Proof.Machine.execCollectiveCompletion peer comm s
  | .frameResend id => Sys2Proof.Machine.execFrameResend id s
  | .frameAck id => Sys2Proof.Machine.execFrameAck id s
  | .budgetPeriod => Sys2Proof.Machine.execBudgetPeriod s
  | .packageReset node => Sys2Proof.Machine.execPackageReset node s
  | .wavelengthLockTimeout peer => Sys2Proof.Machine.execWavelengthLockTimeout peer s
  | .sensorSample peer rails piers => Sys2Proof.Machine.execSensorSample peer rails piers s
  | .keySlotLoad node load => Sys2Proof.Machine.execKeySlotLoad node load s
  | .keySlotErase node slot => Sys2Proof.Machine.execKeySlotErase node slot s
  | .fuseBlow node => Sys2Proof.Machine.execFuseBlow node s
  | .firmwareUpdate node image => Sys2Proof.Machine.execFirmwareUpdate node image s
  | .attestationRequest node nonce => Sys2Proof.Machine.execAttestationRequest node nonce s
  | .illegalInstruction w => Sys2Proof.Machine.execIllegalInstruction w s
  | .wavelengthLock peer => Sys2Proof.Machine.execWavelengthLock peer s
  | .planeStopsDelivering node plane lost => Sys2Proof.Machine.execPlaneStopsDelivering node plane lost s
  | .stationBroughtBack node plane => Sys2Proof.Machine.execStationBroughtBack node plane s
  | .cancelArrival handle ctx => Sys2Proof.Machine.execCancelArrival handle ctx s
  | .resultDataArrival id => Sys2Proof.Machine.execResultDataArrival id s
  | .creditGrant id => Sys2Proof.Machine.execCreditGrant id s
  | .collectiveFailureMessage id => Sys2Proof.Machine.execCollectiveFailureMessage id s

end Sys2Proof.Machine
end

