-- ==== Sys2Proof/Machine/Auto.lean ====
section
/-! DEFINITION. What moves at a step (logs 4, 5): time and the turn, the part's own steps that are due, in an order of the
model's own, and the fetch of the next instruction. -/

namespace Sys2Proof.Machine

open Host (Outcome)

/-! ## The turn and time -/

/-- The next turn of the list, or the default one. -/
def takeTurn (s : State) : State :=
  match s.turns with
  | [] => { s with turn := Turn.default }
  | t :: ts => { s with turn := t, turns := ts }

/-- Ticks pass for a Span of a die while it runs (R7): the cycle in progress ends at its own clock, and those after it run at the
die's (R403). -/
def passCycles (clock ticks : Nat) (x : Span) : Span :=
  if x.started && ! x.stopped then
    let passed := x.phase + ticks * x.rate
    if passed < 1000 then { x with phase := passed }
    else
      let rest := if clock = x.rate then passed - 1000 else (passed - 1000) * clock / x.rate
      { x with cycle := x.cycle + 1 + rest / 1000, phase := rest % 1000, rate := clock }
  else x

/-- Time passes: the ticks of the pod, and the cycles of every Span that runs (R7). DESIGN CHOICE (log 4): R6 leaves the skew between
the clocks of dies and packages open within its bound; here it is 0, one time for the pod. -/
def passTime (s : State) : State :=
  { s with
    time := s.time + s.turn.ticks
    spans := s.spans.map fun x => (x.1, passCycles (dieOf s (x.1 / 256)).clock s.turn.ticks x.2) }

/-- A die enters a capped idle state, its Spans' clocks stopped, or leaves it, its Spans to start again staggered (R7, R35, R403,
log 14). -/
def setIdle (s : State) (x : Nat × Bool) : State :=
  let d := dieOf s x.1
  if d.idle = x.2 ∨ ! d.locked then s
  else if x.2 then
    { modDie x.1 (fun d => { d with idle := true, ramp := none }) s with
      spans := s.spans.map fun e => (e.1, if e.1 / 256 = x.1 then { e.2 with stopped := true } else e.2) }
  else modDie x.1 (fun d => { d with idle := false, ramp := some s.time }) s

/-- A Span counts lost reads of a lane group's bank (R147, log 19). -/
def countLost (s : State) (x : Nat × Nat × Nat × Nat × Nat) : State :=
  let i := 4 * x.2.2.1 + x.2.2.2.1
  modSpan x.1 x.2.1 (fun y => { y with lost := vset y.lost i (vget y.lost i 0 + BitVec.ofNat 32 x.2.2.2.2) }) s

/-- The place whose caches replacement acts on at this turn. -/
def turnPlace (s : State) : Place :=
  match s.turn.choice with
  | .event (some p) _ => p
  | .run p => p
  | _ => s.thr.place

/-- Lines that replacement removes, and the TLB entries of a die if they are replaced (R188, R189, R197, R378, R394). -/
def replaceLines (s : State) : State :=
  let p := turnPlace s
  let s1 := if s.turn.evict = [] then s else
    modPkg (p.peer / 4) (fun k => { k with
        hostLines := s.turn.evict.foldl ndel k.hostLines, hostCode := k.hostCode.filter fun e => ! s.turn.evict.contains (e.1 / 32) })
      (modDie p.peer (fun d => { d with window := s.turn.evict.foldl ndel d.window })
        (modSpan p.peer p.span (fun x =>
          { x with l1 := s.turn.evict.foldl ndel x.l1, icache := s.turn.evict.foldl ndel x.icache }) s))
  if s.turn.flushTlb then
    modDie p.peer (fun d => { d with tlb := [] })
      { s1 with spans := s1.spans.map fun e => (e.1, if e.1 / 256 = p.peer then { e.2 with utlb := [] } else e.2) }
  else s1

/-- What a turn brings to the pod. -/
def applyTurn (s : State) : State :=
  s.turn.inbound.foldl enterInbound (s.turn.lost.foldl countLost (s.turn.idle.foldl setIdle s))

/-- The beginning of a step. -/
def beginStep (s : State) : State := replaceLines (applyTurn (passTime (takeTurn s)))

/-! ## Steps of the part that are due -/

/-- The thread sleeps until a step of the part wakes it (R302, R363, R132, R380). -/
def asleep (t : Thread) : Bool :=
  match t.wait with
  | some (.waitge _ _) | some (.waitt _) | some (.waitp _) | some (.gbar _) | some .longMode | some .inval => true
  | _ => false

/-- The clock of a thread's Span runs (R7); a host core's does. -/
def clocked (s : State) (t : Thread) : Bool := t.host || ! (spanOf s t.place.peer t.place.span).stopped

/-- The thread can execute its next instruction, or try again. -/
def canTry (s : State) (t : Thread) : Bool := t.status == .running && ! asleep t && clocked s t

/-- What a thread takes at an instruction boundary before its next instruction (R108, R375). -/
noncomputable def boundaryEvents : List Instr := [.queueDeadlock, .preEmpt, .transferMemoryError, .timer, .hostMessage]

/-- The steps of the engines and wakes that a thread may have due. -/
noncomputable def threadEvents (t : Thread) : List Instr :=
  (if t.tq = [] then [] else [.trussEntryStart, .trussEntryComplete, .deferredQueuePush 6])
    ++ (t.tr.flatMap fun x => [.copyUnit x.id, .transferCompletion x.id])
    ++ (if t.tr = [] then [] else [.deferredQueuePush 7])
    ++ (match t.wait with
      | some (.waitge _ _) => [.waitgeWake]
      | some (.waitt _) => [.waittWake]
      | some (.waitp _) => [.waitpWake, .missedPromise]
      | _ => [])

/-- The steps of a die: sets, the scheduler, invalidations, collectives, fills. -/
noncomputable def dieEvents (s : State) (peer : Nat) (d : Die) : List Instr :=
  (d.sets.map fun x => .generationComplete peer x.1)
    ++ (d.queue.flatMap fun x => [.launchCompletion peer x.1, .dependenceMet peer x.1, .threadRestore peer x.1, .dispatch peer x.1])
    ++ (d.queue.flatMap fun x => x.2.chosen.map fun c => .spanStart c.peer c.span)
    ++ ((rampSpans s peer).map fun k => .spanStart peer k)
    ++ (if d.queue = [] then [] else [.placement peer])
    ++ (if d.invals = [] then [] else [.invalidationComplete peer])
    ++ (if d.colls = [] then [] else [.chunkSend peer])
    ++ (d.colls.map fun x => .collectiveCompletion peer x.comm)
    ++ (if d.winFills = [] then [] else [.windowFillArrival peer])

/-- The steps of a Span. -/
noncomputable def spanEvents (key : Nat) (x : Span) : List Instr :=
  (if x.waiters = [] then [] else [.longModeGrant (key / 256) (key % 256)])
    ++ (if x.preempted.isNone then [] else [.victimTermination (key / 256) (key % 256)])
    ++ (if x.fills = [] then [] else [.l1FillArrival (key / 256) (key % 256)])

/-- The hops that the model's own order takes: the direct one, over the first plane that reaches the destination. -/
def ownHops (s : State) (x : Item) : List Hop :=
  [.arrive, .viaduct (localTarget x)]
    ++ ((List.range 64).find? fun pl => planeUsable s x.route.node pl x.toNode).toList.map fun pl => .plane pl x.toNode

/-- The steps of what is on its way. -/
noncomputable def itemEvents (s : State) (x : Item) : List Instr :=
  (if x.request then [.requestAtHome x.id, .contributionArrival x.id, .resultDataArrival x.id, .creditGrant x.id, .barrierMessage x.id,
      .collectiveFailureMessage x.id]
    else [.acknowledgement x.id, .faultResponse x.id])
    ++ ((ownHops s x).map fun h => .packetHop x.id h) ++ [.lostResponse x.id]

/-- The steps of a message that waits at its receiver, or has gone out as frames. -/
noncomputable def messageEvents (m : CollMsg) : List Instr :=
  if m.sunk then
    [.contributionArrival m.id, .resultDataArrival m.id, .creditGrant m.id, .barrierMessage m.id, .collectiveFailureMessage m.id]
  else if m.frames ≠ [] then [.frameAck m.id] else []

/-- The dies of a package whose wavelengths may have failed to lock. -/
def lockingDies (node : Nat) (p : Pkg) : List Nat :=
  match p.boot with
  | .locking _ => (List.range 4).map (4 * node + ·)
  | _ => []

/-- The steps of a package: boot, cancels, commands, the ports that they wait for. -/
noncomputable def pkgEvents (node : Nat) (p : Pkg) : List Instr :=
  (lockingDies node p).map .wavelengthLockTimeout
    ++ (p.cancels.map fun c => .cancelArrival c.1 c.2)
    ++ (if p.commands = [] then [] else [.drain node, .retrain node, .loadrt node, .query node])
    ++ (p.ports.flatMap fun x => [.portDrained node x.1, .drainTimeout node x.1, .trainingTimeout node x.1])

/-- The Spans of threads that their `yield` had pre-empted. -/
noncomputable def yieldEvents (s : State) : List Instr :=
  ((allThreads s).filter fun t => t.yielded.isSome).map fun t => .victimTermination t.place.peer t.place.span

/-- The events of the units that are no thread, in the order the model tries them (log 4). -/
noncomputable def unitEvents (s : State) : List Instr :=
  (s.spans.flatMap fun x => spanEvents x.1 x.2) ++ (s.dies.flatMap fun x => dieEvents s x.1 x.2)
    ++ yieldEvents s ++ (items s).flatMap (itemEvents s) ++ s.messages.flatMap messageEvents
    ++ (s.pkgs.flatMap fun x => pkgEvents x.1 x.2) ++ [.budgetPeriod]

/-- Every step that may be due, with the thread that it acts on. -/
noncomputable def candidates (s : State) : List (Option Place × Instr) :=
  ((allThreads s).filter fun t => t.status == .running && clocked s t).flatMap
      (fun t => (boundaryEvents ++ threadEvents t).map fun i => (some t.place, i))
    ++ (unitEvents s).map fun i => (none, i)

/-- The clock of the Span that a step acts on runs. -/
def placeClocked (s : State) (p : Place) : Bool := match threadAt s p with | some t => clocked s t | none => true

/-- The state after a step of the part, where the part takes it. -/
noncomputable def tryEvent (s : State) (e : Option Place × Instr) : Option State :=
  match (match e.1 with | some p => if placeClocked s p then focus p s else none | none => some s) with
  | none => none
  | some u => match exec e.2 u with
    | .next v => some v
    | _ => none

/-- Something of the current thread's stream cannot be left for pre-emption: a whole-vector entry, an element group, a counter
(R150, R161, R212). -/
def streamStays (s : State) : Bool := wholeStarted s.thr || headOpened s.thr || ! s.thr.v.nbq.isEmpty

/-- The stream of the current thread moves: where pre-emption is due, only with what cannot be left. -/
def moveStream (s : State) : Option State :=
  if preEmptDue s then (if streamStays s then streamTurn s else none) else (streamTurn s).map (settle 4096)

/-- A thread whose stream can move, with the stream moved. -/
def tryStream (s : State) (t : Thread) : Option State :=
  if t.status = .running ∧ clocked s t ∧ s.turn.defer = false ∧ (t.v.vq ≠ [] ∨ t.v.nbq ≠ []) then
    (focus t.place s).bind moveStream
  else none

/-- The first step of the part that is due, taken. Vector streams come first. -/
noncomputable def dueEvent (s : State) : Option State :=
  match (allThreads s).findSome? (tryStream s) with
  | some v => some v
  | none => (candidates s).findSome? (tryEvent s)

/-- What a thread takes at its boundary before its next instruction, taken. -/
noncomputable def boundary (s : State) : Option State := boundaryEvents.findSome? fun i => tryEvent s (none, i)

/-! ## The next instruction -/

/-- The word that the current thread executes next: the body word of its running loop (R281), else the word at its pc. -/
def nextWord : Op IWord := do
  let t ← read (·.thr)
  match t.loop with
  | some l => pure (l.words.getD (lctlPos t.u.lctl) 0)
  | none => fetchWord t.pc

/-- The instruction of a word; a word with no meaning is an illegal instruction (R47). -/
noncomputable def instrOf (w : IWord) : Instr := match decode w with | .ok i => i | .error _ => .illegalInstruction w

/-- The current thread fetches and executes its next instruction. -/
noncomputable def runThread (s : State) : Outcome State Fault Refusal :=
  match nextWord s with
  | .ok w u => exec (instrOf w) u
  | .error e _ => finish (raise e) s

/-- The thread whose turn it is to issue: of those that can try, the one that did so longest ago (R98, log 4). -/
def nextThread (s : State) : Option State :=
  match s.others.reverse.find? (canTry s) with
  | some t => focus t.place s
  | none => if canTry s s.thr then some s else none

/-- The step that the model's own order gives: what is due, else an instruction, else time alone passes. -/
noncomputable def autoStep (s : State) : Outcome State Fault Refusal :=
  match dueEvent s with
  | some v => .next v
  | none =>
    match nextThread s with
    | some u => runThread u
    | none => .next s

/-- The thread at a place goes on: with what its boundary brings, else with its next instruction. -/
noncomputable def runAt (p : Place) (s : State) : Outcome State Fault Refusal :=
  match focus p s with
  | none => autoStep s
  | some u =>
    match boundary u with
    | some v => .next v
    | none => if canTry u u.thr then runThread u else .next s

/-- The steps that come of themselves or from outside; the others are the effects of an instruction's write or load. -/
def ofItself (i : Instr) : Bool :=
  match i with
  | .ceLaunch | .vtypeWrite _ | .vlWrite _ | .vstartWrite _ | .wbWrite _ | .nbctrWrite _ | .mstatWrite _ | .kstatusWrite _
  | .ptbrWrite _ _ | .kbgrantWrite _ | .registerWrite _ _ | .tlbinv _ _ | .hmsgRead _ _ _ | .devmsg _ | .detectWrite _ _
  | .timeoutWrite _ _ | .communicatorWord0Write _ _ _ | .illegalInstruction _ => false
  | .hmsgWrite .. | .invalidationComplete .. | .hevqd .. | .drain .. | .retrain .. | .loadrt .. | .query .. | .portDrained ..
  | .drainTimeout .. | .trainingSuccess .. | .trainingTimeout .. | .verifyResult .. | .preEmpt | .timer | .transferMemoryError
  | .hostMessage | .queueDeadlock | .elementGroupStart | .elementGroupWrite | .loadDataArrival | .nbCounterIncrement
  | .linkEntryStaging | .trussEntryStart | .trussEntryComplete | .deferredQueuePush .. | .copyUnit .. | .transferCompletion ..
  | .waitgeWake | .waittWake | .waitpWake | .missedPromise | .generationComplete .. | .longModeGrant .. | .dependenceMet ..
  | .placement .. | .spanStart .. | .dispatch .. | .threadRestore .. | .victimTermination .. | .launchCompletion ..
  | .packetHop .. | .requestAtHome .. | .acknowledgement .. | .faultResponse .. | .lostResponse .. | .detectTimeout ..
  | .packageTokenVisit .. | .podTokenVisit | .packageTokenReissue .. | .podTokenReissue | .suspectSunk .. | .l1FillArrival ..
  | .windowFillArrival .. | .chunkSend .. | .contributionArrival .. | .barrierMessage .. | .collectiveCompletion ..
  | .frameResend .. | .frameAck .. | .budgetPeriod | .packageReset .. | .wavelengthLockTimeout .. | .sensorSample ..
  | .keySlotLoad .. | .keySlotErase .. | .fuseBlow .. | .firmwareUpdate .. | .attestationRequest .. | .wavelengthLock ..
  | .planeStopsDelivering .. | .stationBroughtBack .. | .cancelArrival .. | .resultDataArrival .. | .creditGrant ..
  | .collectiveFailureMessage .. => true
  | _ => false

/-- A step of the part that the turn names; where the part does not take it, the model's own order decides. -/
noncomputable def eventStep (who : Option Place) (i : Instr) (s : State) : Outcome State Fault Refusal :=
  if ofItself i then
    match tryEvent s (who, i) with
    | some v => .next v
    | none => autoStep s
  else autoStep s

/-- What the turn chooses. -/
noncomputable def chosenStep (s : State) : Outcome State Fault Refusal :=
  match s.turn.choice with
  | .auto => autoStep s
  | .event who i => eventStep who i s
  | .run p => runAt p s

/-! ## Placing an instruction (log 1) -/

/-- Where `withFetchWord` places an instruction: the virtual page, and the home in the B-store of the thread's Span, which has
no key ids. -/
def placedVa : Word := 0x10000
def placedFpa (p : Place) : Nat := fpaOf p.peer p.span 1 0

/-- A global page that the thread may fetch from in its mode, at the home. -/
def placedEntry (t : Thread) : TlbEntry :=
  { vpn := 1, large := false, ctx := t.k.ctxid,
    pte := BitVec.ofNat 64 (placedFpa t.place + (if t.k.km then 0x109 else 0x119)) }

/-- The current thread runs at the placed page, outside any loop and any wait. -/
def placeThreadAt (t : Thread) : Thread :=
  { t with
    host := false, status := .running, pc := placedVa, loop := none, wait := none, replies := [], pages := [], acting := none }

/-- The turn that runs the thread. -/
def runTurn (p : Place) : Turn := { Turn.default with choice := .run p }

end Sys2Proof.Machine
end

