-- ==== Sys2Proof/Machine/Step.lean ====
section
/-! DEFINITION. One step of the machine, and the state in which the next step runs a given instruction. -/

namespace Sys2Proof.Machine

/-- One step: the turn is taken, time passes, and what the turn chooses moves. -/
noncomputable def step (s : State) : Host.Outcome State Fault Refusal := chosenStep (beginStep s)

/-- The state with an instruction placed for the current thread, which the next step runs (log 1): the thread runs at a page
that the TLBs map to the placed bytes, no instruction line covers them, the Span's clock runs, and the next turn is the thread's. The bytes
above the instruction's are zero, as far as the longest instruction reaches: `loop` with 16 body words. -/
def State.withFetchWord (s : State) (nbits w : Nat) : State :=
  let p := s.thr.place
  let s1 := { s with thr := placeThreadAt s.thr, turns := runTurn p :: s.turns }
  let s2 := modDie p.peer (fun d => { d with tlb := placedEntry s1.thr :: d.tlb }) s1
  let s3 := modSpan p.peer p.span (fun x => { x with
    icache := (sectorsOf (placedFpa p) 68).foldl ndel x.icache, utlb := placedEntry s1.thr :: x.utlb, stopped := false }) s2
  memWrite 0 (placedFpa p) 68 (w % 2 ^ nbits) s3

end Sys2Proof.Machine
end

