-- ==== Sys2Proof/Safety.lean ====
section
/-! DEFINITION. What counts as a safe run, and the words in which claims speak of a thread that completes an instruction. -/

namespace Sys2Proof

open Machine

/-- A step goes on: it ends in a next state, neither in a fault nor in a refusal. -/
def GoesOn (s : State) : Prop := ∃ t, step s = .next t

/-- The invariant of the model: memory is in its canonical form. -/
def Inv (s : State) : Prop := Memory.wf s = true

/-- A predicate on states that every step keeps. -/
def Kept (P : State → Prop) : Prop := ∀ s t, P s → step s = .next t → P t

namespace Claims

/-- The instruction has completed and the thread goes on at the next word, or within its loop (R36, R281). -/
def advance (s : State) : State := { s with thr := retire s.thr }

/-- The vector stream of a thread has no entry, no counter to increment and nothing held (R101, R104, R212). -/
def NoEntries (t : Thread) : Prop := t.v.vq = [] ∧ t.v.nbq = [] ∧ t.v.held = none

/-- The vector stream of the current thread has nothing to do, nothing held and nothing out on other dies (R101, R104, R211,
R212). -/
def Idle (s : State) : Prop := s.thr.v.vq = [] ∧ s.thr.v.nbq = [] ∧ s.thr.v.held = none ∧ streamPackets s = []

/-- The thread with other entries in its vector queue. -/
def withVq (q : List VEntry) (t : Thread) : Thread := { t with v := { t.v with vq := q } }

/-- A vector word leaves the scalar side: `vstart` returns to 0, the landed bits of its destinations go, the thread goes
on (R101, R137, R144). -/
def issue (dests : List Nat) (t : Thread) : Thread :=
  retire (setLanded false dests { t with issued := t.issued + 1, u := { t.u with vstart := 0 } })

/-- The thread after a vector word, its scalar operands read, has come and gone on an idle stream: its writes in order, its
flags, its destinations landed (R138, R142, R144). -/
def performed (dests : List Nat) (ws : List VWrite) (fl : BitVec 5) (t : Thread) : Thread :=
  setLanded true dests (addFlags fl (ws.foldl (applyWrite (isLong t)) (issue dests t)))

/-- Position i is active under msel m: from `vstart`, below `vl` and VLMAX, and not masked out (R66, R130). -/
def active (t : Thread) (m : BitVec 4) (i : Nat) : Bool :=
  decide (t.u.vstart.toNat ≤ i) && decide (i < vecLen t)
    && (m.toNat == 0 || (mreg t (isLong t) (m.toNat - 1)).getLsbD i)

/-- The active positions, rising. -/
def actives (t : Thread) (m : BitVec 4) : List Nat := (List.range (vecLen t)).filter (active t m)

/-- The element width (R134). -/
def sew (t : Thread) : Nat := vtSew t.u.vtype

/-- Element i of vector register r. -/
def elem (t : Thread) (w : Nat) (r : BitVec 7) (i : Nat) : BitVec w := elemOf (vreg t (isLong t) r.toNat) w i

/-- Bit i of mask k. -/
def bit (t : Thread) (k : BitVec 7) (i : Nat) : Bool := (mreg t (isLong t) k.toNat).getLsbD i

/-- A vector operand at position i: a register's element, or the low bits of a broadcast scalar (R43, R153). -/
def operand (t : Thread) (w : Nat) (f : BitVec 7) (i : Nat) : BitVec w :=
  if f.toNat < 48 then elem t w f i else (scalar t (BitVec.ofNat 7 (f.toNat - 64))).setWidth w

/-- All the flags of a list of results. -/
def flagsOf (fs : List (BitVec 5)) : BitVec 5 := fs.foldl (· ||| ·) 0

end Claims

end Sys2Proof
end

