-- ==== Sys2Proof/Certificates/Slice0/Obligations.lean ====
section
/-! DEFINITION. The statements for the provers, and the words in which they speak. -/

open Sys2Proof Sys2Proof.Machine

namespace Sys2Proof.Claims

/-- The state with another current thread. -/
def withThr (s : State) (t : Thread) : State := { s with thr := t }

/-- Every byte of memory reads as before, under every key id, and every sector's descriptor stands. -/
def SameMemory (s t : State) : Prop :=
  (∀ key a, memByte t key a = memByte s key a) ∧ ∀ sec, sectorOf t sec = sectorOf s sec

/-- The agent executes the word: a host core executes only the words of R392. -/
def Executes (i : Instr) (s : State) : Prop := s.thr.host = false ∨ hostExecutes i = true

/-- Reading a source field: a register's value, or the head of a queue, which is popped (R42, R105, R114). -/
def Reads (f : BitVec 7) (s : State) (v : Word) (s' : State) : Prop :=
  (f.toNat < 120 ∧ v = scalar s.thr f ∧ s' = s) ∨
  (120 ≤ f.toNat ∧ ∃ rest, queueAt s.thr (f.toNat - 120) = v :: rest ∧
    s' = withThr s (setQueue (f.toNat - 120) rest s.thr))

/-- Writing a destination field: a register is replaced, a queue with room is pushed (R42, R105, R114). -/
def Writes (f : BitVec 7) (v : Word) (s s' : State) : Prop :=
  (f.toNat < 120 ∧ s' = withThr s (setScalar f v s.thr)) ∨
  (120 ≤ f.toNat ∧ (queueAt s.thr (f.toNat - 120)).length < 16 ∧
    s' = withThr s (setQueue (f.toNat - 120) (queueAt s.thr (f.toNat - 120) ++ [v]) s.thr))

/-- The address of the word in execution: within a loop, that of the body word at POS (R281, R283). -/
def wordAddress (t : Thread) : Word :=
  if t.loop.isSome then t.pc + 4 + 4 * (t.u.lctl.extractLsb' 21 4).setWidth 64 else t.pc

/-- The window base is one that R109 allows. -/
def WindowLegal (t : Thread) : Prop := t.sc.wb ≤ 336 ∧ t.sc.wb % 16 = 0

/-- Outside its general registers, its queues, its pc and the indices of a running loop, the thread is as before. -/
def SameControl (t u : Thread) : Prop :=
  u.sc.wb = t.sc.wb ∧ u.shp = t.shp ∧ { u.u with li := t.u.li, lctl := t.u.lctl } = t.u ∧ u.ce = t.ce ∧ u.k = t.k ∧
    u.v = t.v ∧ u.tq = t.tq ∧ u.tr = t.tr ∧ u.issued = t.issued ∧ u.place = t.place ∧ u.host = t.host ∧ u.status = t.status

/-- The physical windowed register that a field names, with the window as it stands (R109). -/
def windowIndex (t : Thread) (f : BitVec 7) : Nat := t.sc.wb + (f.toNat - 8)

/-- The frame of a word that writes only the destination field rd and pops only the source fields named: every other register
stands, the 448 windowed ones and the eight globals by their places too, those that no name reaches among them. -/
def RegisterFrame (rd : BitVec 7) (srcs : List (BitVec 7)) (s t : State) : Prop :=
  t = withThr s t.thr ∧ SameControl s.thr t.thr ∧ SameMemory s t ∧
  (∀ k < 448, (8 ≤ rd.toNat ∧ rd.toNat < 120 → k ≠ windowIndex s.thr rd) → vget t.thr.sc.win k 0 = vget s.thr.sc.win k 0) ∧
  (∀ k < 8, k ≠ rd.toNat → vget t.thr.sc.globals k 0 = vget s.thr.sc.globals k 0) ∧
  (∀ f : BitVec 7, f.toNat < 120 → f ≠ rd → scalar t.thr f = scalar s.thr f) ∧
  (∀ q < 8, q + 120 ≠ rd.toNat → (∀ f ∈ srcs, q + 120 ≠ f.toNat) → queueAt t.thr q = queueAt s.thr q)

/-- A word's formula over its two operands. -/
abbrev Word2 : Type := (BitVec 7 → BitVec 7 → BitVec 7 → Instr) × (Word → Word → Word)

/-- The 32-bit words: on the low halves, the result sign-extended (R117). -/
def low32 (f : BitVec 32 → BitVec 32 → BitVec 32) (a b : Word) : Word := (f (a.setWidth 32) (b.setWidth 32)).signExtend 64

/-- `div`, `rem`, `divu`, `remu` as R116 writes them. -/
def quot (w : Nat) (a b : BitVec w) : BitVec w :=
  if b = 0 then BitVec.ofInt w (-1)
  else if a.toInt = -(2 : Int) ^ (w - 1) ∧ b.toInt = -1 then a
  else BitVec.ofInt w (Int.tdiv a.toInt b.toInt)
def remainder (w : Nat) (a b : BitVec w) : BitVec w :=
  if b = 0 then a
  else if a.toInt = -(2 : Int) ^ (w - 1) ∧ b.toInt = -1 then 0
  else BitVec.ofInt w (a.toInt - b.toInt * Int.tdiv a.toInt b.toInt)
def uquot (w : Nat) (a b : BitVec w) : BitVec w := if b = 0 then BitVec.allOnes w else BitVec.ofNat w (a.toNat / b.toNat)
def uremainder (w : Nat) (a b : BitVec w) : BitVec w :=
  if b = 0 then a else BitVec.ofNat w (a.toNat - b.toNat * (a.toNat / b.toNat))

/-- Majors 0x01 and 0x02 with two sources, as the tables of R115 to R117 give them. -/
def binaryWords : List Word2 :=
  [ (.add, fun a b => a + b), (.sub, fun a b => a - b), (.and, fun a b => a &&& b), (.or, fun a b => a ||| b),
    (.xor, fun a b => a ^^^ b), (.andn, fun a b => a &&& ~~~b), (.orn, fun a b => a ||| ~~~b),
    (.sll, fun a b => a <<< (b.setWidth 6)), (.srl, fun a b => a >>> (b.setWidth 6)),
    (.sra, fun a b => BitVec.ofInt 64 (a.toInt / (2 : Int) ^ (b.setWidth 6).toNat)),
    (.rol, fun a b => (a <<< (b.toNat % 64)) ||| (a >>> (64 - b.toNat % 64))),
    (.ror, fun a b => (a >>> (b.toNat % 64)) ||| (a <<< (64 - b.toNat % 64))),
    (.slt, fun a b => if a.toInt < b.toInt then 1 else 0), (.sltu, fun a b => if a.toNat < b.toNat then 1 else 0),
    (.min, fun a b => BitVec.ofInt 64 (min a.toInt b.toInt)), (.max, fun a b => BitVec.ofInt 64 (max a.toInt b.toInt)),
    (.minu, fun a b => BitVec.ofNat 64 (min a.toNat b.toNat)), (.maxu, fun a b => BitVec.ofNat 64 (max a.toNat b.toNat)) ] ++
  [ (.mul, fun a b => BitVec.ofInt 64 (a.toInt * b.toInt)),
    (.mulh, fun a b => (BitVec.ofInt 128 (a.toInt * b.toInt)).extractLsb' 64 64),
    (.mulhu, fun a b => (BitVec.ofNat 128 (a.toNat * b.toNat)).extractLsb' 64 64),
    (.div, quot 64), (.divu, uquot 64), (.rem, remainder 64), (.remu, uremainder 64),
    (.addw, low32 fun x y => x + y), (.subw, low32 fun x y => x - y), (.sllw, low32 fun x y => x <<< (y.setWidth 5)),
    (.srlw, low32 fun x y => x >>> (y.setWidth 5)),
    (.sraw, low32 fun x y => BitVec.ofInt 32 (x.toInt / (2 : Int) ^ (y.setWidth 5).toNat)),
    (.mulw, low32 fun x y => x * y), (.divw, low32 (quot 32)), (.divuw, low32 (uquot 32)), (.remw, low32 (remainder 32)),
    (.remuw, low32 (uremainder 32)) ]

/-- Words with one source: the unary ones of R115 and the immediates of R118 and R119. -/
def unaryWords : List ((BitVec 7 → BitVec 7 → Instr) × (Word → Word)) :=
  [ (.clz, fun a => BitVec.ofNat 64 (64 - (if a = 0 then 0 else Nat.log2 a.toNat + 1))),
    (.ctz, fun a => BitVec.ofNat 64 ((List.range 64).takeWhile fun i => ! a.getLsbD i).length),
    (.popc, fun a => BitVec.ofNat 64 ((List.range 64).filter fun i => a.getLsbD i).length),
    (.sextb, fun a => (a.setWidth 8).signExtend 64), (.sexth, fun a => (a.setWidth 16).signExtend 64),
    (.sextw, fun a => (a.setWidth 32).signExtend 64), (.zextw, fun a => (a.setWidth 32).setWidth 64) ]
def immediateWords : List ((BitVec 7 → BitVec 7 → BitVec 12 → Instr) × (Word → Word → Word)) :=
  [ (.addi, fun a k => a + k), (.andi, fun a k => a &&& k), (.ori, fun a k => a ||| k), (.xori, fun a k => a ^^^ k),
    (.slti, fun a k => if a.toInt < k.toInt then 1 else 0) ]
def shiftWords : List ((BitVec 7 → BitVec 7 → BitVec 6 → Instr) × (Word → BitVec 6 → Word)) :=
  [ (.slli, fun a n => a <<< n), (.srli, fun a n => a >>> n),
    (.srai, fun a n => BitVec.ofInt 64 (a.toInt / (2 : Int) ^ n.toNat)),
    (.rori, fun a n => (a >>> n.toNat) ||| (a <<< (64 - n.toNat))) ]

/-- Branches and when they are taken (R121). -/
def branchWords : List ((BitVec 7 → BitVec 7 → BitVec 12 → Instr) × (Word → Word → Bool)) :=
  [ (.beq, fun a b => decide (a = b)), (.bne, fun a b => decide (a ≠ b)), (.blt, fun a b => decide (a.toInt < b.toInt)),
    (.bge, fun a b => decide (b.toInt ≤ a.toInt)), (.bltu, fun a b => decide (a.toNat < b.toNat)),
    (.bgeu, fun a b => decide (b.toNat ≤ a.toNat)) ]

end Sys2Proof.Claims

open Sys2Proof.Claims

/-! ## Encodings -/

/-- Every well-formed instruction of every family is what its own words decode to: no field of an encoding is dropped or
merged (R39, R40, R48). -/
def Sys2Proof.Claims.InstructionsRoundTrip : Prop :=
  ∀ i : Instr, i.wellFormed = true → decode (encode i) = .ok i

/-- A word that decodes is the word of the instruction that it gives: a reserved major or function, and a nonzero field that must be
zero, decode to nothing (R47, R49). -/
def Sys2Proof.Claims.WordsRoundTrip : Prop :=
  ∀ (w : IWord) (i : Instr), decode w = .ok i → i.wellFormed = true ∧ encode i = w

/-- Encoding and decoding are inverse to each other (R39, R40, R47 to R49). -/
def Obligations.DecodeOfEncodeIsTheInstruction : Prop :=
  InstructionsRoundTrip ∧ WordsRoundTrip

/-- Words written out field by field from the encoding tables decode to the instructions they stand for. -/
def Obligations.WrittenWordsDecode : Prop :=
  decode (0b000001_0000011_0000001_0000010_00000#32) = .ok (.add 3 1 2) ∧
  decode (0b000011_0001000_0001001_111111111111#32) = .ok (.addi 8 9 (-1)) ∧
  decode (0b001111_0000001_0000010_000000000011#32) = .ok (.bge 1 2 3)

/-! ## The machine as a whole -/

/-- The registers that R70, R110, R276, R283, R286, R368, R369 and R390 give one value at dispatch have it: queues empty, short mode,
and the user, copy and kernel CSRs. -/
def Sys2Proof.Claims.AtDispatchValues (t : Thread) : Prop :=
  t.sc.wb = 0 ∧ (∀ q < 8, queueAt t q = []) ∧ NoEntries t ∧ t.tq = [] ∧ t.tr = [] ∧ t.v.long = none ∧ (∀ k < 16, vget t.shp k 0 = 0) ∧
  t.u.vl = 0 ∧ t.u.vtype = 0x003 ∧ t.u.vstart = 0 ∧ t.u.rep = 0 ∧ t.u.fflags = 0 ∧ t.u.nbctr = 0 ∧ t.u.rthr = 0 ∧
  t.u.mbth = 48 ∧ t.u.mstat = 0 ∧ (∀ d < 6, vget t.u.li d 0 = 0) ∧ t.u.lctl = 0 ∧
  t.ce.src = 0 ∧ t.ce.dst = 0 ∧ t.ce.sh = 0 ∧ t.ce.ctr = 0 ∧ t.ce.inc = 0 ∧ t.ce.mode = 0 ∧ t.ce.last = 0 ∧
  t.k.km = false ∧ t.k.pkm = false ∧ t.k.ie = false ∧ t.k.pie = false ∧ t.k.ne = false ∧ t.k.vkm = false ∧ t.k.saved = false ∧
  t.k.pvt = 0x003 ∧ t.k.vqn = 0 ∧ t.k.ip0 = false ∧ t.k.kepc = 0 ∧ t.k.kcause = 0 ∧ t.k.kval = 0 ∧ t.k.kscratch = 0 ∧
  t.k.ksave = 0 ∧ t.k.kbsel = 0

/-- The state after reset: every current die's memory reads zero as stored, no launch occupies a Span, no grant is set, and the
registers that R70, R110, R276, R283, R286, R368, R369 and R390 give values have them, every global and windowed register zero (R34,
R70, R81, R110). -/
def Sys2Proof.Claims.ResetLeavesTheGivenValues : Prop :=
  (∀ a, storedByte State.reset a = 0) ∧
  (∀ sec, sectorOf State.reset sec = { fmt := 0x00, scale := 127, key := none, bad := false, record := none }) ∧
  (∀ peer span, (spanOf State.reset peer span).launch = none) ∧
  State.reset.thr.status = .empty ∧ State.reset.others = [] ∧
  (∀ peer, (dieOf State.reset peer).grants = []) ∧ AtDispatchValues State.reset.thr ∧
  (∀ k < 8, vget State.reset.thr.sc.globals k 0 = 0) ∧ ∀ k < 448, vget State.reset.thr.sc.win k 0 = 0

/-- Memory after reset stands in the model's canonical form (the model's own representation; log 7). -/
def Sys2Proof.Claims.ResetMemoryIsCanonical : Prop := Inv State.reset

/-- The state after reset, and its canonical form. -/
def Obligations.ResetStateIsTheSpecs : Prop :=
  ResetLeavesTheGivenValues ∧ ResetMemoryIsCanonical

/-- Every step, whatever the turn chooses, keeps memory in canonical form: bytes and sector records strictly rise, and none
equals what an unlisted one reads as. -/
def Obligations.EveryStepKeepsMemoryCanonical : Prop := Kept Inv

/-- A thread that is given the turn fetches, decodes and executes: a step whose turn runs it, with nothing due at its
boundary, is the execution of the instruction that the fetched word decodes to. -/
def Sys2Proof.Claims.StepRunsTheDecodedInstruction : Prop :=
  ∀ (s u v : State) (p : Place) (w : IWord) (i : Instr),
    (beginStep s).turn.choice = .run p → focus p (beginStep s) = some u → boundary u = none → canTry u u.thr = true →
    nextWord u = .ok w v → decode w = .ok i → step s = exec i v

/-- Where the model's own order decides and nothing of the part is due, the step is the execution of the next thread's
instruction. -/
def Sys2Proof.Claims.AutomaticStepRunsTheDecodedInstruction : Prop :=
  ∀ (s u v : State) (w : IWord) (i : Instr),
    (beginStep s).turn.choice = .auto → dueEvent (beginStep s) = none → nextThread (beginStep s) = some u →
    nextWord u = .ok w v → decode w = .ok i → step s = exec i v

/-- A step is the execution of the decoded instruction, chosen or in the model's own order (log 4). -/
def Obligations.AStepRunsTheDecodedInstruction : Prop :=
  StepRunsTheDecodedInstruction ∧ AutomaticStepRunsTheDecodedInstruction

/-- No word stops the machine: at every state, executing any instruction that has an encoding gives a next state (its effect, a
trap, a wait, or the end of its context), never a fault or a refusal. -/
def Obligations.NoInstructionStopsTheMachine : Prop :=
  ∀ (i : Instr) (s : State), i.wellFormed = true → ∃ t, exec i s = .next t

/-! ## Scalar registers, queues and the window -/

/-- The scalar register file (R41, R109, R114): s0 reads zero and discards writes, every other register keeps what is
written to it, and no write reaches another register. -/
def Sys2Proof.Claims.ScalarRegistersHoldWhatIsWritten : Prop :=
  ∀ (t : Thread) (f g : BitVec 7) (v : Word), WindowLegal t → f.toNat < 120 → g.toNat < 120 →
    scalar t 0 = 0 ∧ setScalar 0 v t = t ∧
    scalar (setScalar f v t) g = if g = f ∧ f ≠ 0 then v else scalar t g

/-- The register window (R109): moving the base by n names each windowed register as its neighbour n higher was named; s0
to s7 do not move. -/
def Sys2Proof.Claims.WindowMovesNamesNotValues : Prop :=
  ∀ (t : Thread) (wb n : Nat) (f g : BitVec 7), f.toNat < 120 → g.toNat < 120 →
    let at_ (b : Nat) : Thread := { t with sc := { t.sc with wb := b } }
    (8 ≤ f.toNat → g.toNat = f.toNat + n → scalar (at_ (wb + n)) f = scalar (at_ wb) g) ∧
    (f.toNat < 8 → scalar (at_ (wb + n)) f = scalar (at_ wb) f)

/-- The window base of every thread, and of every saved context, stays one that R109 allows. -/
def Sys2Proof.Claims.WindowBasesStayLegal : Prop :=
  Kept fun s => (∀ t ∈ allThreads s, WindowLegal t) ∧
    ∀ r ∈ s.vault, match r.2 with | .context t _ _ _ _ _ _ => WindowLegal t | .queue _ => True

/-- Between steps no thread, and no saved context, has its accesses made for another of its agents (the model's own field; log 46). -/
def Sys2Proof.Claims.NoThreadActsForAnother : Prop :=
  Kept fun s => (∀ t ∈ allThreads s, t.acting = none) ∧
    ∀ r ∈ s.vault, match r.2 with | .context t _ _ _ _ _ _ => t.acting = none | .queue _ => True

/-- Two invariants of every thread and of every saved context (R109; log 46). -/
def Obligations.EveryStepKeepsWindowBasesLegal : Prop :=
  WindowBasesStayLegal ∧ NoThreadActsForAnother

/-- The ALU and ALU32 words with two sources complete with the result of their row: a is read, then b, then rd written
(R114 to R117). -/
def Sys2Proof.Claims.AluWordsWriteTheirResult : Prop :=
  ∀ p ∈ binaryWords, ∀ (rd ra rb : BitVec 7) (s s1 s2 s3 : State) (a b : Word),
    Executes (p.1 rd ra rb) s → dstS rd = true → srcS ra = true → srcS rb = true →
    Reads ra s a s1 → Reads rb s1 b s2 → Writes rd (p.2 a b) s2 s3 →
    exec (p.1 rd ra rb) s = .next (advance s3)

/-- The unary and immediate words, `lui` and `auipc` complete with their result (R115, R118 to R120). -/
def Sys2Proof.Claims.ImmediateWordsWriteTheirResult : Prop :=
  (∀ p ∈ unaryWords, ∀ (rd ra : BitVec 7) (s s1 s2 : State) (a : Word),
    Executes (p.1 rd ra) s → dstS rd = true → srcS ra = true → Reads ra s a s1 → Writes rd (p.2 a) s1 s2 →
    exec (p.1 rd ra) s = .next (advance s2)) ∧
  (∀ p ∈ immediateWords, ∀ (rd ra : BitVec 7) (imm : BitVec 12) (s s1 s2 : State) (a : Word),
    Executes (p.1 rd ra imm) s → dstS rd = true → srcS ra = true → Reads ra s a s1 →
    Writes rd (p.2 a (imm.signExtend 64)) s1 s2 → exec (p.1 rd ra imm) s = .next (advance s2)) ∧
  (∀ p ∈ shiftWords, ∀ (rd ra : BitVec 7) (n : BitVec 6) (s s1 s2 : State) (a : Word),
    Executes (p.1 rd ra n) s → dstS rd = true → srcS ra = true → Reads ra s a s1 → Writes rd (p.2 a n) s1 s2 →
    exec (p.1 rd ra n) s = .next (advance s2)) ∧
  (∀ (rd : BitVec 7) (imm : BitVec 19) (s s1 : State), Executes (.lui rd imm) s → dstS rd = true →
    Writes rd (BitVec.ofInt 64 (imm.toInt * 2 ^ 13)) s s1 → exec (.lui rd imm) s = .next (advance s1)) ∧
  (∀ (rd : BitVec 7) (imm : BitVec 19) (s s1 : State), Executes (.auipc rd imm) s → dstS rd = true →
    Writes rd (wordAddress s.thr + BitVec.ofInt 64 (imm.toInt * 2 ^ 12)) s s1 → exec (.auipc rd imm) s = .next (advance s1))

/-- Every ALU and immediate word completes with its result (R114 to R120). -/
def Obligations.AluAndImmediateWordsWriteTheirResult : Prop :=
  AluWordsWriteTheirResult ∧ ImmediateWordsWriteTheirResult

/-- The frame of every ALU and immediate word, whatever comes of it: a trap, a wait on a queue, or completion, which
changes no register but rd, no flag, no control, vector or special register and no byte of memory. -/
def Obligations.AluWordsChangeOnlyTheirDestination : Prop :=
  (∀ p ∈ binaryWords, ∀ (rd ra rb : BitVec 7) (s t : State), WindowLegal s.thr → exec (p.1 rd ra rb) s = .next t →
    (∃ c v, t = takeTrap false c v s) ∨ (∃ w, t = park w s) ∨ RegisterFrame rd [ra, rb] s t) ∧
  (∀ p ∈ unaryWords, ∀ (rd ra : BitVec 7) (s t : State), WindowLegal s.thr → exec (p.1 rd ra) s = .next t →
    (∃ c v, t = takeTrap false c v s) ∨ (∃ w, t = park w s) ∨ RegisterFrame rd [ra] s t) ∧
  (∀ p ∈ immediateWords, ∀ (rd ra : BitVec 7) (imm : BitVec 12) (s t : State), WindowLegal s.thr →
    exec (p.1 rd ra imm) s = .next t →
    (∃ c v, t = takeTrap false c v s) ∨ (∃ w, t = park w s) ∨ RegisterFrame rd [ra] s t) ∧
  (∀ p ∈ shiftWords, ∀ (rd ra : BitVec 7) (n : BitVec 6) (s t : State), WindowLegal s.thr → exec (p.1 rd ra n) s = .next t →
    (∃ c v, t = takeTrap false c v s) ∨ (∃ w, t = park w s) ∨ RegisterFrame rd [ra] s t) ∧
  (∀ (rd : BitVec 7) (imm : BitVec 19) (s t : State), WindowLegal s.thr →
    exec (.lui rd imm) s = .next t ∨ exec (.auipc rd imm) s = .next t →
    (∃ c v, t = takeTrap false c v s) ∨ (∃ w, t = park w s) ∨ RegisterFrame rd [] s t)

/-- Queues hold up to 16 entries, first in, first out (R105): a pop of an empty one, a second pop of one with a single entry, and a push
into a full one wait, with nothing popped; a queue used against its direction is *illegal operand* with the word (R42). -/
def Obligations.QueuesWaitAndRefuse : Prop :=
  (∀ p ∈ binaryWords, ∀ (rd ra rb : BitVec 7) (s : State), s.thr.host = false → dstS rd = true → srcS ra = true →
    srcS rb = true → 120 ≤ ra.toNat → queueAt s.thr (ra.toNat - 120) = [] →
    exec (p.1 rd ra rb) s = .next (withThr s { s.thr with wait := some (.popEmpty (ra.toNat - 120) 0) })) ∧
  (∀ p ∈ binaryWords, ∀ (rd ra rb : BitVec 7) (s s1 : State) (a : Word), s.thr.host = false → dstS rd = true → srcS ra = true →
    srcS rb = true → Reads ra s a s1 → 120 ≤ rb.toNat → queueAt s1.thr (rb.toNat - 120) = [] →
    exec (p.1 rd ra rb) s = .next (withThr s { s.thr with
      wait := some (.popEmpty (rb.toNat - 120) (queueAt s.thr (rb.toNat - 120)).length) })) ∧
  (∀ p ∈ binaryWords, ∀ (rd ra rb : BitVec 7) (s s1 s2 : State) (a b : Word), s.thr.host = false → dstS rd = true →
    srcS ra = true → srcS rb = true → Reads ra s a s1 → Reads rb s1 b s2 → 120 ≤ rd.toNat →
    16 ≤ (queueAt s2.thr (rd.toNat - 120)).length →
    exec (p.1 rd ra rb) s = .next (park (.pushFull (rd.toNat - 120)) s)) ∧
  (∀ p ∈ binaryWords, ∀ (rd ra rb : BitVec 7) (s : State), s.thr.host = false →
    (rd.toNat ∈ [120, 121, 122, 123, 126, 127] ∨ ra.toNat ∈ [124, 125] ∨ rb.toNat ∈ [124, 125]) →
    exec (p.1 rd ra rb) s = .next (takeTrap false 0x02 ((encode (p.1 rd ra rb)).setWidth 64) s))

/-- Branches pop their sources whether or not they are taken, and go to their own address plus four times the offset, or
on (R121); no branch stands in a loop (R56). -/
def Sys2Proof.Claims.BranchesGoWhereTheyCompare : Prop :=
  ∀ p ∈ branchWords, ∀ (ra rb : BitVec 7) (off : BitVec 12) (s s1 s2 : State) (a b : Word),
    Executes (p.1 ra rb off) s → srcS ra = true → srcS rb = true → Reads ra s a s1 → Reads rb s1 b s2 →
    exec (p.1 ra rb off) s = .next (if p.2 a b then
      withThr s2 { s2.thr with pc := s.thr.pc + BitVec.ofInt 64 (off.toInt * 4), wait := none, replies := [], pages := [] } else advance s2)

/-- `jal` and `jalr` write the address of the next word and go to their target; a target of `jalr` that is not a multiple of
4 is *misaligned address* with the target, and nothing is written (R122). -/
def Sys2Proof.Claims.JumpsLinkAndGo : Prop :=
  (∀ (rd : BitVec 7) (off : BitVec 19) (s s1 : State), Executes (.jal rd off) s → dstS rd = true →
    Writes rd (s.thr.pc + 4) s s1 →
    exec (.jal rd off) s = .next (withThr s1 { s1.thr with pc := s.thr.pc + BitVec.ofInt 64 (off.toInt * 4), wait := none, replies := [], pages := [] })) ∧
  (∀ (rd ra : BitVec 7) (imm : BitVec 12) (s s1 s2 : State) (a : Word), Executes (.jalr rd ra imm) s → dstS rd = true →
    srcS ra = true → Reads ra s a s1 →
    ((a + imm.signExtend 64).toNat % 4 = 0 → Writes rd (s.thr.pc + 4) s1 s2 →
      exec (.jalr rd ra imm) s = .next (withThr s2 { s2.thr with pc := a + imm.signExtend 64, wait := none, replies := [], pages := [] })) ∧
    ((a + imm.signExtend 64).toNat % 4 ≠ 0 →
      exec (.jalr rd ra imm) s = .next (takeTrap false 0x05 (a + imm.signExtend 64) s)))

/-- Branches and jumps (R121, R122). -/
def Obligations.ControlFlowGoesWhereItSays : Prop :=
  BranchesGoWhereTheyCompare ∧ JumpsLinkAndGo

/-- `winadj` and `winset` set the window base, or take *window fault* with the requested base and leave it (R111). -/
def Sys2Proof.Claims.WindowWordsMoveTheBase : Prop :=
  (∀ (n : BitVec 7) (s : State), Executes (.winadj n) s → let nw : Int := s.thr.sc.wb + n.toInt * 16
    (0 ≤ nw ∧ nw ≤ 336 ∧ nw % 16 = 0 →
      exec (.winadj n) s = .next (advance (withThr s { s.thr with sc := { s.thr.sc with wb := nw.toNat } }))) ∧
    (¬ (0 ≤ nw ∧ nw ≤ 336 ∧ nw % 16 = 0) → exec (.winadj n) s = .next (takeTrap false 0x09 (BitVec.ofInt 64 nw) s))) ∧
  (∀ (ra : BitVec 7) (s s1 : State) (a : Word), Executes (.winset ra) s → srcS ra = true → Reads ra s a s1 →
    (a.toNat ≤ 336 ∧ a.toNat % 16 = 0 →
      exec (.winset ra) s = .next (advance (withThr s1 { s1.thr with sc := { s1.thr.sc with wb := a.toNat } }))) ∧
    (¬ (a.toNat ≤ 336 ∧ a.toNat % 16 = 0) → exec (.winset ra) s = .next (takeTrap false 0x09 a s)))

/-- The scalar registers and their window (R41, R109, R111, R114). -/
def Obligations.WindowRenamesRegisters : Prop :=
  ScalarRegistersHoldWhatIsWritten ∧ WindowMovesNamesNotValues ∧ WindowWordsMoveTheBase

/-! ## Checks before a word, traps, returns -/

namespace Sys2Proof.Claims

/-- The word of an instruction as `kval` reports it (R72). -/
def failing (i : Instr) : Word := (encode i).setWidth 64

/-- The thread takes a synchronous trap: in user mode, or in kernel mode with NE = 1 (R372). -/
def TakesTraps (t : Thread) : Prop := t.host = false ∧ (t.k.km = false ∨ t.k.ne = true)

/-- The thread after TrapEntry of R370 with n entries saved, those of the mode vkm first. -/
def trapped (cause : BitVec 8) (val : Word) (n : Nat) (vkm : Bool) (t : Thread) : Thread :=
  { t with
    pc := t.k.ktvec, wait := none, loop := none, replies := [], pages := [], saving := none
    u := { t.u with vtype := 0x003 }
    k := { t.k with
      kepc := t.pc, kcause := cause, kval := val, vqn := n, vkm := vkm, pkm := t.k.km, pie := t.k.ie, km := true
      ie := false, ne := false, saved := false, pvt := t.u.vtype
      ip0 := if cause = 0x80 then false else t.k.ip0 } }

/-- The CSRs of a thread that are plain storage: number, value, and the thread after a write (R70, R138, R283, R286, R369,
R390). -/
def storageCsrs : List (BitVec 12 × (Thread → Word) × (Word → Thread → Thread)) :=
  [ (0x004, fun t => t.u.rep.setWidth 64, fun v t => { t with u := { t.u with rep := v.setWidth 6 } }),
    (0x005, fun t => t.u.fflags.setWidth 64, fun v t => { t with u := { t.u with fflags := v.setWidth 5 } }),
    (0x008, fun t => t.u.rthr.setWidth 64, fun v t => { t with u := { t.u with rthr := v.setWidth 32 } }),
    (0x009, fun t => t.u.mbth.setWidth 64, fun v t => { t with u := { t.u with mbth := v.setWidth 7 } }),
    (0x016, fun t => t.u.lctl.setWidth 64, fun v t => { t with u := { t.u with lctl := v.setWidth 26 } }) ] ++
  (List.range 6).map (fun d => (BitVec.ofNat 12 (0x010 + d), fun t => (vget t.u.li d 0).setWidth 64,
    fun v t => { t with u := { t.u with li := vset t.u.li d (v.setWidth 16) } })) ++
  [ (0x020, fun t => t.ce.src, fun v t => { t with ce := { t.ce with src := v } }),
    (0x021, fun t => t.ce.dst, fun v t => { t with ce := { t.ce with dst := v } }),
    (0x022, fun t => t.ce.sh.setWidth 64, fun v t => { t with ce := { t.ce with sh := v.setWidth 8 } }),
    (0x023, fun t => t.ce.ctr, fun v t => { t with ce := { t.ce with ctr := v } }),
    (0x024, fun t => t.ce.inc, fun v t => { t with ce := { t.ce with inc := v } }),
    (0x025, fun t => t.ce.mode.setWidth 64, fun v t => { t with ce := { t.ce with mode := v.setWidth 3 } }) ] ++
  [ (0x801, fun t => t.k.kepc, fun v t => { t with k := { t.k with kepc := v &&& ~~~ 0x3 } }),
    (0x802, fun t => t.k.kcause.setWidth 64, fun v t => { t with k := { t.k with kcause := v.setWidth 8 } }),
    (0x803, fun t => t.k.kval, fun v t => { t with k := { t.k with kval := v } }),
    (0x804, fun t => t.k.ktvec, fun v t => { t with k := { t.k with ktvec := v &&& ~~~ 0x3 } }),
    (0x805, fun t => t.k.kscratch, fun v t => { t with k := { t.k with kscratch := v } }),
    (0x806, fun t => t.k.ksave, fun v t => { t with k := { t.k with ksave := v &&& ~~~ 0xFFFF } }),
    (0x80A, fun t => t.k.kvq, fun v t => { t with k := { t.k with kvq := v &&& ~~~ 0x1FFF } }),
    (0x810, fun t => t.k.kprio.setWidth 64, fun v t => { t with k := { t.k with kprio := v.setWidth 2 } }),
    (0x811, fun t => t.k.kplace.setWidth 64, fun v t => { t with k := { t.k with kplace := v.setWidth 48 } }),
    (0x812, fun t => t.k.kvqbase, fun v t => { t with k := { t.k with kvqbase := v &&& ~~~ 0x1FFF } }),
    (0x813, fun t => t.k.ktenant.setWidth 64, fun v t => { t with k := { t.k with ktenant := v.setWidth 4 } }),
    (0x814, fun t => t.k.kbsel.setWidth 64, fun v t => { t with k := { t.k with kbsel := v.setWidth 14 } }) ]

/-- The CSRs that a write leaves as they are, with their values (R7, R70, R286). -/
def readOnlyCsrs : List (BitVec 12 × (State → Word)) :=
  [ (0x027, fun s => s.thr.ce.last), (0x030, fun s => BitVec.ofNat 64 s.time),
    (0x031, fun s => BitVec.ofNat 64 (spanOf s s.thr.place.peer s.thr.place.span).cycle),
    (0x032, fun s => s.thr.u.tid), (0x033, fun s => s.thr.u.nthr), (0x034, fun s => s.thr.u.lid),
    (0x035, fun s => BitVec.ofNat 64 (s.thr.place.span + 256 * (s.thr.place.peer % 4))),
    (0x036, fun s => BitVec.ofNat 64 s.thr.place.peer), (0x037, fun s => s.thr.u.part.setWidth 64), (0x038, fun s => s.thr.u.arg),
    (0x039, fun s => BitVec.ofNat 64 (spanOf s s.thr.place.peer s.thr.place.span).poolcap) ] ++
  (List.range 9).map (fun n => (BitVec.ofNat 12 (0x817 + n), fun _ => 0))

/-- VLMAX (R129). -/
def vlmaxAt (t : Thread) (vtype : BitVec 9) : Nat :=
  (if t.v.long.isSome then 8192 else 256) / (8 * 2 ^ (vtype.extractLsb' 0 2).toNat)

/-- The values that R77 lets `vtype` take. -/
def vtypeLegal (v : BitVec 9) : Prop :=
  (v.extractLsb' 2 2).toNat < 2 ∧ ((v.extractLsb' 0 2).toNat < 2 ∨ v.extractLsb' 2 2 = 0) ∧
    (v.extractLsb' 4 2).toNat ≠ 3 ∧ (v.extractLsb' 6 3).toNat ≤ 4

/-- A thread with a new `vtype`, its `vl` within the new VLMAX (R136). -/
def withVtype (v : BitVec 9) (t : Thread) : Thread :=
  { t with u := { t.u with vtype := v, vl := BitVec.ofNat 11 (min t.u.vl.toNat (vlmaxAt t v)) } }

/-- The CSRs whose write has a rule of its own: number, value, when the value is accepted, the trap where it is not, and the
thread after it (R77, R112, R136, R137, R212, R266). -/
structure RuledCsr where
  num : BitVec 12
  val : Thread → Word
  ok : Thread → Word → Prop
  cause : BitVec 8
  report : Word → Word → Word
  set : Word → Thread → Thread

def vtypeValue (t : Thread) : Word :=
  BitVec.ofNat 64 (t.u.vtype.toNat + t.v.lg * 2 ^ 12 + (if t.v.long.isSome then 2 ^ 16 else 0))

def ruledCsrs : List RuledCsr :=
  [ ⟨0x000, fun t => t.u.vl.setWidth 64, fun t v => (v.setWidth 11).toNat ≤ vlmaxAt t t.u.vtype, 0x02, fun w _ => w,
      fun v t => { t with u := { t.u with vl := v.setWidth 11 } }⟩,
    ⟨0x001, vtypeValue, fun _ v => vtypeLegal (v.setWidth 9), 0x02, fun w _ => w, fun v t => withVtype (v.setWidth 9) t⟩,
    ⟨0x002, fun t => t.u.vstart.setWidth 64, fun t v => (v.setWidth 11).toNat ≤ vlmaxAt t t.u.vtype, 0x02, fun w _ => w,
      fun v t => { t with u := { t.u with vstart := v.setWidth 11 } }⟩,
    ⟨0x006, fun t => BitVec.ofNat 64 t.sc.wb, fun _ v => v.toNat ≤ 336 ∧ v.toNat % 16 = 0, 0x09, fun _ v => v,
      fun v t => { t with sc := { t.sc with wb := v.toNat } }⟩,
    ⟨0x007, fun t => t.u.nbctr, fun _ v => v.toNat % 8 = 0, 0x05, fun _ v => v,
      fun v t => { t with u := { t.u with nbctr := v &&& 0x007FFFFFFFFFFFF8 } }⟩,
    ⟨0x00A, fun t => t.u.mstat &&& 0x0000FFFFFFFF0F7B, fun _ _ => True, 0, fun _ _ => 0,
      fun v t => { t with u := { t.u with mstat :=
        t.u.mstat &&& ~~~ (v &&& 0x7B) &&& ~~~ (if v.getLsbD 5 then 0xFFFF0F00 else 0) } }⟩ ]

/-- The steps of their own by which those CSRs are written. -/
noncomputable def ruledSteps : List (BitVec 12 × (Word → Instr)) :=
  [(0x000, .vlWrite), (0x001, .vtypeWrite), (0x002, .vstartWrite), (0x006, .wbWrite), (0x007, .nbctrWrite), (0x00A, .mstatWrite)]

/-- The thread after a write of `kstatus` by a control thread (R368). -/
def withKstatus (v : Word) (t : Thread) : Thread :=
  { t with k := { t.k with
    pkm := v.getLsbD 1, ie := v.getLsbD 2, pie := v.getLsbD 3, ne := v.getLsbD 4, vkm := v.getLsbD 5
    pvt := v.extractLsb' 8 9, vqn := min 64 (v.extractLsb' 24 7).toNat } }

/-- `ptbr`, `ctxid` and `keysel`: value, and the thread after a write (R369). -/
def spaceCsrs : List (BitVec 12 × (Thread → Word) × (Word → Thread → Thread)) :=
  [ (0x807, fun t => t.k.ptbr, fun v t => { t with k := { t.k with ptbr := v &&& 0x01FFFFFFFFFF0000 } }),
    (0x808, fun t => t.k.ctxid.setWidth 64, fun v t => { t with k := { t.k with ctxid := v.setWidth 16 } }),
    (0x809, fun t => t.k.keysel.setWidth 64, fun v t => { t with k := { t.k with keysel := v.setWidth 3 } }) ]

/-- A request or a response of the thread's vector stream, or of its Truss, is out. -/
def StreamOut (s : State) (q : Packet) : Prop := ownPacket s.thr q = true ∧ (q.agent = .stream ∨ q.agent = .truss)

/-- The agent is a control thread in kernel mode. -/
def Kernel (s : State) : Prop := s.thr.host = false ∧ s.thr.k.km = true

/-- A control thread may access the CSR, and no older vector entry holds the access back (R47, R71). -/
def CsrOpen (c : BitVec 12) (s : State) : Prop :=
  s.thr.host = false ∧ (c.toNat < 0x800 ∨ s.thr.k.km = true) ∧ s.thr.v.vq = []

end Sys2Proof.Claims

/-- Decoding checks a word in the order of R47: a word of no instruction is *illegal instruction*; a privileged word in user
mode is *privilege*; a long-only word in short mode is *mode*; a field outside R42 to R46 is *illegal operand*. Each reports
the word, and the trap is the whole effect. -/
def Obligations.DecodingChecksInOrder : Prop :=
  (∀ (w : IWord) (s : State), (∀ i, decode w ≠ .ok i) → exec (.illegalInstruction w) s = .next (takeTrap false 0x01 (w.setWidth 64) s)) ∧
  (∀ (i : Instr) (s : State), s.thr.host = false → s.thr.k.km = false →
    (i = .eret ∨ i = .halt ∨ (∃ ra, i = .ctxsave ra ∨ i = .ctxrest ra ∨ i = .xfmq ra) ∨
      ∃ p ∈ storageCsrs, ∃ rd ra, 0x800 ≤ p.1.toNat ∧ (i = .csrrw rd ra p.1 ∨ i = .csrrs rd ra p.1)) →
    exec i s = .next (takeTrap false 0x04 (failing i) s)) ∧
  (∀ (i : Instr) (s : State), s.thr.host = false → s.thr.v.long = none →
    ((∃ az tB va sn m, i = .mmav az tB va sn m) ∨ (∃ rd ra rb, i = .mrd rd ra rb ∨ i = .mwr rd ra rb) ∨
      ∃ rd ra, i = .vshp rd ra) →
    exec i s = .next (takeTrap false 0x03 (failing i) s)) ∧
  (∀ (i : Instr) (s : State), s.thr.host = false →
    ((∃ rd ra rb, 48 ≤ rd.toNat ∧ (i = .vadd rd ra rb 0 ∨ i = .vfadd rd ra rb 0)) ∨
      (∃ rd ra, 16 ≤ rd.toNat ∧ (i = .tldr rd ra ∨ i = .tstr rd ra)) ∨
      (∃ rd ra rb, (rb.toNat = 0 ∨ rb.toNat = 7 ∨ 119 ≤ rb.toNat) ∧ i = .acas rd ra rb) ∨
      (∃ rd, partNtile s.thr.u.part ≤ rd.toNat ∧ i = .mz rd)) →
    exec i s = .next (takeTrap false 0x02 (failing i) s))

/-- TrapEntry (R370, R135) for a trap that the vector stream did not raise: the pc, status and `vtype` are saved, the mode
becomes kernel with interrupts off, the pc is `ktvec`; queued vector entries stay; memory and every other thread stand. A trap of the
vector stream first saves the queue into the block at `kvq` (R103, R371): the records, then their scalars, then the queue is empty, VQN
is the number of entries and VKM the mode of the oldest; where that fails the context ends (R371). That `vl` is kept where `vtype`
changes is the model's (log 62). -/
def Sys2Proof.Claims.TrapEntrySavesAndGoesToTheHandler : Prop :=
  ∀ (s : State) (cause : BitVec 8) (val : Word), TakesTraps s.thr → cause ≠ 0x80 →
    (takeTrap false cause val s).thr = trapped cause val 0 s.thr.k.vkm s.thr ∧
    SameMemory s (takeTrap false cause val s) ∧ (takeTrap false cause val s).others = s.others

/-- A trap that the vector stream raises (R103, R370, R371): the queue is saved first, then trap entry as for any other, with VQN and
VKM; a save that fails ends the context. An entry comes back as it was saved: 64 bytes of record and its scalars, stored at `kvq` + 0x800
and + 0x1800, whose bytes are a free value (log 9). -/
def Sys2Proof.Claims.StreamTrapsSaveTheQueue : Prop :=
  (∀ (s s' : State) (cause : BitVec 8) (val : Word), TakesTraps s.thr → saveQueue s = some s' →
    (takeTrap true cause val s).thr = trapped cause val s.thr.v.vq.length
      (match s.thr.v.vq with | e :: _ => e.kernel | [] => false) s'.thr ∧ SameMemory s' (takeTrap true cause val s)) ∧
  (∀ (s : State) (cause : BitVec 8) (val : Word), TakesTraps s.thr → saveQueue s = none →
    takeTrap true cause val s = fatalHere .queueSave 0 s) ∧
  (∀ s : State, s.thr.v.vq = [] → saveQueue s = some s) ∧
  (∀ s s' : State, s.thr.v.vq ≠ [] → saveQueue s = some s' →
    s'.thr.v.vq = [] ∧ vaultQueue s' s.fresh = s.thr.v.vq ∧ s.thr.v.vq.length ≤ 64 ∧ s'.thr.u = s.thr.u ∧ s'.thr.sc = s.thr.sc ∧
      s'.thr.k = s.thr.k ∧ s'.thr.pc = s.thr.pc) ∧
  (∀ s s1 s2 s3 : State, s.thr.v.vq ≠ [] → s.thr.v.vq.length ≤ 64 → (s.thr.v.vq.map (·.nscal)).sum ≤ 256 →
    blockPage s.thr.k.kvq s = .ok () s1 →
    recordWrite s.fresh 0 (s.thr.k.kvq + 0x800) (64 * s.thr.v.vq.length) s1 = .ok () s2 →
    recordWrite s.fresh 64 (s.thr.k.kvq + 0x1800) (8 * (s.thr.v.vq.map (·.nscal)).sum) s2 = .ok () s3 →
    ∃ s', saveQueue s = some s' ∧ SameMemory s3 s') ∧
  (∀ (s s1 : State) (stamp base : Nat) (va : Word) (r : Ref), access .store true 8 va s = .ok r s1 → s1.thr.host = false →
    fpaPeer r.fpa = s1.thr.place.peer →
    ∃ t, recordWrite stamp base va 8 s = .ok () t ∧
      (∀ j < 8, memByte t r.key (r.fpa + j) = Config.recordByte stamp (64 * base + j)) ∧
      (sectorOf t (r.fpa / 64)).record = some ⟨stamp, base⟩)

/-- `trap` and `brk` take their traps, with the immediate and 0 (R127, R388). -/
def Sys2Proof.Claims.TrapAndBreakpointTakeTheirTraps : Prop :=
  ∀ s : State,
    (∀ imm, Executes (.trap imm) s → exec (.trap imm) s = .next (takeTrap false 0x10 (imm.setWidth 64) s)) ∧
    exec .brk s = .next (takeTrap false 0x0F 0 s)

/-- Taking a trap, and the words that take one (R127, R370). -/
def Obligations.TrapsEnterTheHandler : Prop :=
  TrapEntrySavesAndGoesToTheHandler ∧ StreamTrapsSaveTheQueue ∧ TrapAndBreakpointTakeTheirTraps

/-- A synchronous trap in kernel mode with NE = 0 is a fatal context error (R372, R322): no thread of the context runs on
the die, and its end is logged with the cause and the context. -/
def Sys2Proof.Claims.KernelTrapsEndTheContext : Prop :=
  ∀ (s : State) (cause : BitVec 8) (val : Word), s.thr.host = false → s.thr.k.km = true → s.thr.k.ne = false →
    cause.toNat < 0x80 →
    let t := takeTrap false cause val s
    (∀ u ∈ allThreads t, u.host = false → u.place.peer = s.thr.place.peer → u.k.ctxid = s.thr.k.ctxid → u.status ≠ .running) ∧
    SameMemory s t ∧
    ∃ e ∈ (pkgOf t (s.thr.place.peer / 4)).log, e.code = .fatal .kernelTrap ∧ e.peer = s.thr.place.peer ∧
      e.data.head? = some s.thr.k.ctxid.toNat ∧ e.tick = s.time

/-- `eret` with no entry saved and none held (R373, R135): the pc, mode, interrupt enable and `vtype` return; `vl` is what it was (log 62). -/
def Sys2Proof.Claims.ReturnRestoresWhatTheTrapSaved : Prop :=
  (∀ s : State, Kernel s → s.thr.k.vqn = 0 → NoEntries s.thr → s.thr.v.parked = [] → (∀ x ∈ s.thr.tr, x.held = false) →
    exec .eret s = .next (withThr s { s.thr with
      pc := s.thr.k.kepc, wait := none, replies := [], pages := [], u := { s.thr.u with vtype := s.thr.k.pvt }
      k := { s.thr.k with km := s.thr.k.pkm, ie := s.thr.k.pie, vqn := 0 } })) ∧
  (∀ (s : State) (cause : BitVec 8) (val : Word), s.thr.host = false → s.thr.k.km = false → NoEntries s.thr →
    s.thr.v.parked = [] → (∀ x ∈ s.thr.tr, x.held = false) → cause ≠ 0x80 →
    ∃ t, exec .eret (takeTrap false cause val s) = .next t ∧ t.thr.pc = s.thr.pc ∧ t.thr.sc = s.thr.sc ∧ t.thr.u = s.thr.u ∧
      t.thr.v = s.thr.v ∧ t.thr.k.km = false ∧ t.thr.k.ie = s.thr.k.ie ∧ t.thr.k.kcause = cause ∧ t.thr.k.kval = val ∧
      SameMemory s t)

/-- `eret` with saved entries (R373, R144): each record is read back and verified, the entries join the queue in order, the first at
the element that `vstart` names, which returns to 0 with VQN; a record that fails its check ends the context. That the return waits
while the queue has no room is the model's (log 93); that the stream does not move in this step is the turn's choice (log 4). -/
def Sys2Proof.Claims.ReturnReplaysTheSavedEntries : Prop :=
  (∀ (s s1 : State) (e : VEntry) (rest : List VEntry), Kernel s → restoreQueue s = .ok (e :: rest) s1 → s.thr.v.held = none →
    (s.thr.v.vq.length + (e :: rest).length ≤ 64 → ((s.thr.v.vq ++ e :: rest).map (·.nscal)).sum ≤ 256 → s1.turn.defer = true →
      (∀ x ∈ s.thr.tr, x.held = false) → s1.thr.v.held = none →
      ∃ (u : Thread) (f : VEntry), exec .eret s = .next (withThr s1 u) ∧ u.v.vq = s1.thr.v.vq ++ f :: rest ∧
        { f with start := e.start, vstart := e.vstart, pos := e.pos, wpos := e.wpos, buf := e.buf, checked := e.checked,
                 ctr := e.ctr, first := e.first, j := e.j } = e ∧
        f.start = s1.thr.u.vstart.toNat ∧ f.pos = s1.thr.u.vstart.toNat ∧ f.j = (if e.rep.isSome then s1.thr.u.rep.toNat else e.j) ∧
        u.pc = s1.thr.k.kepc ∧ u.u.vtype = s1.thr.k.pvt ∧ u.u.vstart = 0 ∧ u.k.vqn = 0 ∧ u.k.km = s1.thr.k.pkm ∧
        u.k.ie = s1.thr.k.pie ∧ u.sc = s1.thr.sc) ∧
    (64 < s.thr.v.vq.length + (e :: rest).length → exec .eret s = .next (park .vqFull s))) ∧
  (∀ (s u : State) (x : Nat), Kernel s → restoreQueue s = .error (.fatal .queueRestore x) u →
    exec .eret s = .next (fatalHere .queueRestore x u)) ∧
  (∀ (s s1 : State) (kvq : Word) (j : Nat) (r : Ref), access .load true 64 (kvq + BitVec.ofNat 64 (0x800 + 64 * j)) s = .ok r s1 →
    s1.thr.host = false → fpaPeer r.fpa = s1.thr.place.peer → memoryBad s1 .load r.fpa 64 = false → keyMatches s1 r.key r.fpa = true →
    ∀ (p : RecordPart) (es : List VEntry), (sectorOf s1 (r.fpa / 64)).record = some p → vaultQueue s1 p.stamp = es →
      (∀ e, p.index = j → es[j]? = some e → e.nscal = 0 → restoreEntry kvq j s = .ok e s1) ∧
      (p.index ≠ j → restoreEntry kvq j s = .error (.fatal .queueRestore r.fpa) s1))

/-- A trap in kernel mode, and the return from one (R372, R373). -/
def Obligations.KernelTrapsAndReturns : Prop :=
  KernelTrapsEndTheContext ∧ ReturnRestoresWhatTheTrapSaved ∧ ReturnReplaysTheSavedEntries

/-! ## Control and status registers -/

/-- `csrrw` and `csrrs` on a CSR that is plain storage: the old value goes to rd, then the source, or its OR with the old
value, is written with the reserved bits dropped; `csrrs` with s0 writes nothing (R71, R126). As a step of its own the write
is all. -/
def Sys2Proof.Claims.CsrWordsReadThenWrite : Prop :=
  ∀ p ∈ storageCsrs,
    (∀ (rd ra : BitVec 7) (s s1 s2 : State) (a : Word), CsrOpen p.1 s → dstS rd = true → srcS ra = true → Reads ra s a s1 →
      Writes rd (p.2.1 s.thr) s1 s2 →
      exec (.csrrw rd ra p.1) s = .next (advance (withThr s2 (p.2.2 a s2.thr))) ∧
      exec (.csrrs rd ra p.1) s = .next (advance (if ra = 0 then s2 else withThr s2 (p.2.2 (p.2.1 s.thr ||| a) s2.thr)))) ∧
    (∀ (v : Word) (s : State), CsrOpen p.1 s → exec (.registerWrite (.csr p.1) v) s = .next (withThr s (p.2.2 v s.thr)))

/-- Read-only CSRs give their value and discard a write (R7, R70, R71). -/
def Sys2Proof.Claims.ReadOnlyCsrsDiscardWrites : Prop :=
  ∀ p ∈ readOnlyCsrs, ∀ (rd ra : BitVec 7) (s s1 s2 : State) (a : Word), CsrOpen p.1 s → dstS rd = true → srcS ra = true →
    Reads ra s a s1 → Writes rd (p.2 s) s1 s2 →
    exec (.csrrw rd ra p.1) s = .next (advance s2) ∧ exec (.csrrs rd ra p.1) s = .next (advance s2)

/-- `vcp` gives the address of the oldest entry of the vector queue, or 0 (R102); `qstat` gives the occupancy of every queue at the read, before ra is popped (R42, R105), no
wait of the scalar side that executes the read, and the queue that the vector stream waits on (R106). Neither waits for the vector
stream, and a write to either is discarded. -/
def Sys2Proof.Claims.StreamCsrsShowTheStream : Prop :=
  (∀ (rd ra : BitVec 7) (s s1 s2 : State) (a : Word), s.thr.host = false → s.thr.k.vqn = 0 → dstS rd = true → srcS ra = true →
    Reads ra s a s1 → Writes rd (match s.thr.v.vq with | e :: _ => e.pc | [] => 0) s1 s2 →
    exec (.csrrw rd ra 0x003) s = .next (advance s2) ∧ exec (.csrrs rd ra 0x003) s = .next (advance s2)) ∧
  (∀ (rd ra : BitVec 7) (s s1 : State) (a : Word), s.thr.host = false → dstS rd = true → srcS ra = true → Reads ra s a s1 →
    (∀ q < 8, (queueAt s.thr q).length ≤ 16) → (rd.toNat < 120 ∨ (queueAt s1.thr (rd.toNat - 120)).length < 16) →
    ∃ v s2, Writes rd v s1 s2 ∧ exec (.csrrw rd ra 0x00B) s = .next (advance s2) ∧
      exec (.csrrs rd ra 0x00B) s = .next (advance s2) ∧
      (∀ q < 8, (v.extractLsb' (5 * q) 5).toNat = (queueAt s.thr q).length) ∧
      v.getLsbD 40 = false ∧ v.extractLsb' 42 5 = 0 ∧ v.extractLsb' 51 13 = 0 ∧
      (match streamWaits (withThr s { s.thr with wait := none }) with
        | some (q, push) => q < 8 → v.getLsbD 41 = true ∧ (v.extractLsb' 47 3).toNat = q ∧ v.getLsbD 50 = push
        | none => v.getLsbD 41 = false ∧ v.extractLsb' 47 4 = 0))

/-- CSRs that are plain storage or read-only, and those that show the vector stream (R70, R71, R102, R106, R126). -/
def Obligations.CsrsReadAndWrite : Prop :=
  CsrWordsReadThenWrite ∧ ReadOnlyCsrsDiscardWrites ∧ StreamCsrsShowTheStream

/-- `vl`, `vtype`, `vstart`, `wb`, `nbctr` and `mstat`: a value that their rule accepts is written; any other traps, and
neither rd nor the register changes (R77, R112, R136, R137, R212, R266). As steps of their own likewise. -/
def Sys2Proof.Claims.RuledCsrsCheckWhatTheyTake : Prop :=
  (∀ p ∈ ruledCsrs, ∀ (rd ra : BitVec 7) (s s1 s2 : State) (a : Word), CsrOpen p.num s → dstS rd = true → srcS ra = true →
    Reads ra s a s1 → Writes rd (p.val s.thr) s1 s2 →
    (p.ok s.thr a → exec (.csrrw rd ra p.num) s = .next (advance (withThr s2 (p.set a s2.thr)))) ∧
    (¬ p.ok s.thr a → exec (.csrrw rd ra p.num) s =
      .next (takeTrap false p.cause (p.report (failing (.csrrw rd ra p.num)) a) s)) ∧
    (ra = 0 → exec (.csrrs rd ra p.num) s = .next (advance s2)) ∧
    (ra ≠ 0 → let v := p.val s.thr ||| a
      (p.ok s.thr v → exec (.csrrs rd ra p.num) s = .next (advance (withThr s2 (p.set v s2.thr)))) ∧
      (¬ p.ok s.thr v → exec (.csrrs rd ra p.num) s =
        .next (takeTrap false p.cause (p.report (failing (.csrrs rd ra p.num)) v) s)))) ∧
  (∀ p ∈ ruledCsrs, ∀ q ∈ ruledSteps, p.num = q.1 → ∀ (v : Word) (s : State), s.thr.host = false →
    (p.ok s.thr v → exec (q.2 v) s = .next (withThr s (p.set v s.thr))) ∧
    (¬ p.ok s.thr v → ∃ w, exec (q.2 v) s = .next (takeTrap false p.cause (p.report w v) s)))

/-- `kstatus` takes its writable fields, VQN at most 64 (R368); `ptbr`, `ctxid` and `keysel` are written once older vector
entries, Truss entries and transfers are done, or the vector stream is stopped at a held trap, and wait otherwise (R369), but for
Truss entries and transfers that wait for a stopped vector entry themselves. -/
def Sys2Proof.Claims.KernelControlWrites : Prop :=
  (∀ (v : Word) (s : State), Kernel s → exec (.kstatusWrite v) s = .next (withThr s (withKstatus v s.thr))) ∧
  (∀ p ∈ spaceCsrs, ∀ (v : Word) (s : State), Kernel s →
    ((s.thr.v.vq = [] ∨ s.thr.v.held.isSome) → s.thr.v.nbq = [] → s.thr.tq = [] → (∀ q ∈ s.packets, ¬ StreamOut s q) →
      (∀ x ∈ s.thr.tr, x.state ≠ .running) →
      exec (.ptbrWrite p.1 v) s = .next (withThr s (p.2.2 v s.thr)) ∧
      (∀ (rd ra : BitVec 7) (s1 s2 : State), dstS rd = true → srcS ra = true → Reads ra s v s1 → Writes rd (p.2.1 s.thr) s1 s2 →
        exec (.csrrw rd ra p.1) s = .next (advance (withThr s2 (p.2.2 v s2.thr))))) ∧
    (s.thr.v.vq ≠ [] ∧ s.thr.v.held = none ∨ s.thr.v.nbq ≠ [] ∨ (∃ q ∈ s.packets, StreamOut s q) ∨
        s.thr.v.held = none ∧ s.thr.v.parked = [] ∧ (s.thr.tq ≠ [] ∨ ∃ x ∈ s.thr.tr, x.state = .running) →
      exec (.ptbrWrite p.1 v) s = .next (park .other s) ∧
      ∀ (rd ra : BitVec 7) (s1 s2 : State), dstS rd = true → srcS ra = true → Reads ra s v s1 → Writes rd (p.2.1 s.thr) s1 s2 →
        exec (.csrrw rd ra p.1) s = .next (park .other s)))

/-- `kbgrant` (R390): another context than 0 is refused by *privilege*; a reserved selection discards the write; a grant that
would exceed the resource's capacity is *illegal operand*; any other becomes the selected entry's grant. -/
def Sys2Proof.Claims.GrantsStayWithinCapacity : Prop :=
  ∀ (v : Word) (s : State), Kernel s →
    let res := (s.thr.k.kbsel.extractLsb' 0 4).toNat
    let cls := (s.thr.k.kbsel.extractLsb' 4 3).toNat
    let ten := (s.thr.k.kbsel.extractLsb' 8 4).toNat
    let peer := 4 * (s.thr.place.peer / 4) + (s.thr.k.kbsel.extractLsb' 12 2).toNat
    let entry := 128 * res + 16 * cls + ten
    let others := ((dieOf s peer).grants.filter fun e => e.1 / 128 = res ∧ e.1 ≠ entry).map fun e => e.2.toNat
    let cap := if res < 2 then 3200000 else if res < 5 then 2000000 else 1000000
    (s.thr.k.ctxid ≠ 0 → ∃ w, exec (.kbgrantWrite v) s = .next (takeTrap false 0x04 w s)) ∧
    (s.thr.k.ctxid = 0 → ¬ (res < 6 ∧ cls < 6) → exec (.kbgrantWrite v) s = .next s) ∧
    (s.thr.k.ctxid = 0 → res < 6 ∧ cls < 6 → cap < others.sum + (v.setWidth 32).toNat →
      ∃ w, exec (.kbgrantWrite v) s = .next (takeTrap false 0x02 w s)) ∧
    (s.thr.k.ctxid = 0 → res < 6 ∧ cls < 6 → others.sum + (v.setWidth 32).toNat ≤ cap →
      exec (.kbgrantWrite v) s = .next (modDie peer (fun d => { d with grants := nset d.grants entry (v.setWidth 32) }) s))

/-- CSRs whose writes have rules of their own (R77, R112, R136, R137, R212, R266, R368, R369, R390). -/
def Obligations.RuledAndKernelCsrs : Prop :=
  RuledCsrsCheckWhatTheyTake ∧ KernelControlWrites ∧ GrantsStayWithinCapacity

/-! ## Addresses, loads, stores, atomics, fences -/

namespace Sys2Proof.Claims

/-- An access of n bytes at va by the current thread passes its checks and reaches r (R62, R190 to R193). -/
def Granted (acc : Acc) (n : Nat) (va : Word) (s : State) (r : Ref) (s' : State) : Prop :=
  access acc s.thr.k.km n va s = .ok r s'

/-- Nothing older of the thread conflicts with n bytes at va (R226). -/
def Unheld (va : Word) (n : Nat) (wr : Bool) (s : State) : Prop := interlockScalar va n wr s = .ok () s

/-- The request performs at its home: no export table or limit refuses it, and memory is sound (R200, R201, R321). -/
def Reaches (k : ReqKind) (r : Ref) (n : Nat) (s : State) : Prop :=
  targetFault s k (myPeer s) s.thr.host s.thr.k.ctxid r.fpa n = none ∧ memoryBad s k r.fpa n = false

/-- Nothing of the thread is outstanding, nor saved by a trap. -/
def NothingOlder (s : State) : Prop :=
  s.thr.v.vq = [] ∧ s.thr.v.parked = [] ∧ s.thr.v.nbq = [] ∧ s.thr.tq = [] ∧ s.thr.tr = [] ∧
    (∀ p ∈ s.packets, ownPacket s.thr p = false) ∧ ∀ c ∈ (myDie s).colls, c.owner ≠ threadId s.thr

/-- The home of r is on the control thread's own die (R224). -/
def Here (r : Ref) (s : State) : Prop := s.thr.host = false ∧ fpaPeer r.fpa = s.thr.place.peer

/-- The home of r is remote to the agent, which acts for itself: on another die, or anywhere, to a host core (R307, R394). -/
def Away (r : Ref) (s : State) : Prop := (s.thr.host = true ∨ fpaPeer r.fpa ≠ s.thr.place.peer) ∧ s.thr.acting = none

/-- No other thread's `claimt` holds a word that n bytes at a touch (R360). -/
def NotHeld (a n : Nat) (s : State) : Prop :=
  ∀ x ∈ (dieOf s (fpaPeer a)).claims, x.2 = s.thr.place ∨ ¬ (a < x.1 + 16 ∧ x.1 < a + n)

/-- The agent has sent its request and waits for the reply, u being the state at which it found that it must ask: translations that it
made there stay (R197, R312; that a word executes again with its reply is the model's, log 46). -/
def asked (q : Request) (s u : State) : State :=
  let t := sendRequest (actingOf s.thr) q { s with thr := { s.thr with pages := u.thr.pages }, dies := u.dies }
  { t with thr := { t.thr with wait := some .other } }

/-- The destination is a register, or a queue with room (R99). -/
def Room (rd : BitVec 7) (s : State) : Prop := rd.toNat < 120 ∨ (queueAt s.thr (rd.toNat - 120)).length < 16

/-- A word that needs a reply from another die, as it finds at u, sends its request and waits; with the reply, v being the state that
the word has reached, the reply's value goes to rd and the word completes (R312). -/
def Asks (i : Instr) (rd : BitVec 7) (q : Request) (value : Nat → Word) (s u v : State) : Prop :=
  (s.thr.replies = [] → Room rd u → exec i s = .next (asked q s u)) ∧
  ∀ x t, s.thr.replies = [x] → x.loc = q.ref.fpa → x.code = false →
    Writes rd (value x.val) (withThr v { v.thr with replies := [] }) t → exec i s = .next (advance t)

/-- After a store of n bytes at a under a key id: they read v there, every byte outside them reads as before, that of another
sector under every key id, and no descriptor of another sector changes. -/
def Stored (key a n v : Nat) (s t : State) : Prop :=
  memRead t key a n = v ∧
  (∀ b, b < a ∨ a + n ≤ b → memByte t key b = memByte s key b) ∧
  (∀ key' b, b / 64 < a / 64 ∨ (a + n - 1) / 64 < b / 64 → memByte t key' b = memByte s key' b) ∧
  (∀ sec, sec < a / 64 ∨ (a + n - 1) / 64 < sec → sectorOf t sec = sectorOf s sec)

/-- Requests of some agents for window lines serve their accesses alone: what they bring is not installed (R189). -/
def linesDropped (p : Place → Bool) (s : State) : State :=
  { s with packets := s.packets.map fun x =>
      { x with cargo := match x.cargo with | .line keep => .line (keep && ! p x.place) | c => c } }

/-- The copies that an acquire of a scope removes: from a control thread's Span and die (R204, R229), or, whatever the scope, the window
lines of a host core's shared cache (R394). -/
def copiesRemoved (sc : Nat) (s : State) : State :=
  if s.thr.host then
    modPkg (s.thr.place.peer / 4) (fun p => { p with hostLines := [] })
      (linesDropped (fun x => isHostPlace x && x.peer == s.thr.place.peer) s)
  else
    let s1 := if 1 ≤ sc then modSpan s.thr.place.peer s.thr.place.span (fun x => { x with l1 := [], fills := [] }) s else s
    if 2 ≤ sc then modDie s.thr.place.peer (fun d => { d with window := [], winFills := [] })
      (linesDropped (fun x => x.peer == s.thr.place.peer && ! isHostPlace x) s1) else s1

/-- Loads: constructor, size, whether the L1 may serve it, extension (R123). -/
def loadTable : List ((BitVec 7 → BitVec 7 → BitVec 9 → Instr) × Nat × Bool × (Nat → Word)) :=
  [ (.lb, 1, true, fun v => (BitVec.ofNat 8 v).signExtend 64), (.lbu, 1, true, BitVec.ofNat 64),
    (.lh, 2, true, fun v => (BitVec.ofNat 16 v).signExtend 64), (.lhu, 2, true, BitVec.ofNat 64),
    (.lw, 4, true, fun v => (BitVec.ofNat 32 v).signExtend 64), (.lwu, 4, true, BitVec.ofNat 64),
    (.ld, 8, true, BitVec.ofNat 64), (.ldb, 8, false, BitVec.ofNat 64) ]

def storeTable : List ((BitVec 7 → BitVec 7 → BitVec 9 → Instr) × Nat) := [(.sb, 1), (.sh, 2), (.sw, 4), (.sd, 8)]

def acquireLoads : List ((BitVec 7 → BitVec 7 → Instr) × Nat) := [(.ldaS, 0), (.ldaD, 1), (.ldaP, 3)]
def releaseStores : List ((BitVec 7 → BitVec 7 → Instr) × Nat) := [(.strS, 0), (.strD, 1), (.strP, 3)]

/-- The atomics that return nothing: bytes, new value, flags (R203, R206). -/
def atomicWords : List ((BitVec 7 → BitVec 7 → Instr) × Nat × (Word → Nat → Nat) × (Word → Nat → BitVec 5)) :=
  let int (f : Word → Word → Word) : Nat × (Word → Nat → Nat) × (Word → Nat → BitVec 5) :=
    (8, fun b old => (f (BitVec.ofNat 64 old) b).toNat, fun _ _ => 0)
  let sum (f : Fmt) (n : Nat) : Nat × (Word → Nat → Nat) × (Word → Nat → BitVec 5) :=
    (16, fun b old => (sumAdd (BitVec.ofNat 128 old) (fpVal f (b.toNat % 2 ^ n))).1.toNat,
      fun b old => (sumAdd (BitVec.ofNat 128 old) (fpVal f (b.toNat % 2 ^ n))).2)
  [ (.aadd, int fun o b => o + b), (.aand, int fun o b => o &&& b), (.aor, int fun o b => o ||| b), (.axor, int fun o b => o ^^^ b),
    (.amin, int fun o b => BitVec.ofInt 64 (min o.toInt b.toInt)), (.amax, int fun o b => BitVec.ofInt 64 (max o.toInt b.toInt)),
    (.aminu, int fun o b => BitVec.ofNat 64 (min o.toNat b.toNat)), (.amaxu, int fun o b => BitVec.ofNat 64 (max o.toNat b.toNat)),
    (.afadd, sum fp64 64), (.afadds, sum fp32 32) ]

/-- The fences that hold the scalar side and take every copy of theirs away (R231). -/
def acquireFences : List (BitVec 2 → Instr) := [.fenceAcq, .fenceAll]
def otherHoldingFences : List (BitVec 2 → Instr) := [.fenceVs, .fenceRel, .fenceRem]
def markerFences : List (BitVec 2 → Instr) := [.fenceSv, .fenceVv]

/-- The 8-byte entry of a table of the walk, read on die `peer` under key id 0 (R377). -/
def pte (s : State) (peer table idx : Nat) : Word :=
  BitVec.ofNat 64 (memRead s 0 (peer * 2 ^ 45 + table % 2 ^ 45 + 8 * idx) 8)

/-- A valid pointer of the walk. -/
def PtePointer (p : Word) : Prop :=
  p.getLsbD 0 = true ∧ p.getLsbD 1 = false ∧ p.getLsbD 2 = false ∧ p.getLsbD 3 = false ∧ p.extractLsb' 9 7 = 0

/-- A leaf that the walk accepts: reserved bits zero, W only with R and not in a window page, a 512 MiB page aligned (R377). -/
def PteLeaf (p : Word) (large : Bool) : Prop :=
  p.getLsbD 0 = true ∧ (p.getLsbD 1 = true ∨ p.getLsbD 2 = true ∨ p.getLsbD 3 = true) ∧ p.extractLsb' 9 7 = 0 ∧
    (p.getLsbD 2 = true → p.getLsbD 1 = true ∧ p.getLsbD 7 = false) ∧ (large = true → p.extractLsb' 16 13 = 0)

/-- The leaf gives the access its rights (R62, R378). -/
def LeafAllows (acc : Acc) (km : Bool) (p : Word) : Prop :=
  (acc.rd = true → p.getLsbD 1 = true) ∧ (acc.wr = true → p.getLsbD 2 = true) ∧ (acc.ex = true → p.getLsbD 3 = true) ∧
    (km = false → p.getLsbD 4 = true) ∧ (km = true → acc.ex = true → p.getLsbD 4 = false)

/-- The FPA field of an entry. -/
def pteTarget (p : Word) : Nat := (p.extractLsb' 16 41).toNat * 65536

end Sys2Proof.Claims

/-- An access is checked in order: alignment, then translation, then rights and place; the first failure is the trap, with the
address (R62, R191, R198). In the local window nothing is translated: the scratchpad up to its size, and the Span's B-store but for
the swap region, which is offsets 0x1C000 to 0x1FFFF of each bank (R191, R247). -/
def Sys2Proof.Claims.AccessesAreCheckedInOrder : Prop :=
  ∀ (acc : Acc) (n : Nat) (va : Word) (s : State), s.thr.host = false → 0 < n →
    (va.toNat % n ≠ 0 → access acc s.thr.k.km n va s = .error (.trap 0x05 va) s) ∧
    (va.toNat % n = 0 → 0x7FF00000000000 ≤ va.toNat → va.toNat < 0x7FF00000000000 + 0x80000000 →
      let off := va.toNat - 0x7FF00000000000
      (acc.ex = false → off + n ≤ padLimit (mySpan s) → off < 2 ^ 20 →
        access acc s.thr.k.km n va s = .ok ⟨fpaOf (myPeer s) s.thr.place.span 0 off, 0, false, va, none, false⟩ s) ∧
      (acc.ex = false → 0x40000000 ≤ off → off + n ≤ 0x40100000 → (off - 0x40000000) % 0x20000 < 0x1C000 →
        access acc s.thr.k.km n va s =
          .ok ⟨fpaOf (myPeer s) s.thr.place.span 1 (off - 0x40000000), 0, false, va, none, false⟩ s) ∧
      (acc.ex = true ∨ (2 ^ 20 ≤ off ∧ off < 0x40000000) ∨ (0x40000000 ≤ off ∧ 0x40100000 < off + n) ∨
          (0x40000000 ≤ off ∧ 0x1C000 ≤ (off - 0x40000000) % 0x20000) ∨ (off < 2 ^ 20 ∧ padLimit (mySpan s) < off + n) →
        access acc s.thr.k.km n va s = .error (.trap 0x07 va) s)) ∧
    (va.toNat % n = 0 → 2 ^ 55 ≤ va.toNat → access acc s.thr.k.km n va s = .error (.trap 0x06 va) s)

/-- The walk (R377) and the rights of the leaf (R62, R378), where neither the instruction, nor the Span's micro-TLB, nor the die's TLB
has a translation: two pointers and a 64 KiB leaf, or one and a 512 MiB leaf, all inside the firmware region; anything else is
*translation fault*. A leaf without the R, W or X that the access needs, without U in user mode, or with U for a kernel fetch, is
*permission fault*, as are a page of another die that is not pinned (R320), a home that does not exist (R193), key id 0 outside the
firmware region (R379) and an erased key slot (R402). Any other HBM page of the own die is reached under its key id. -/
def Sys2Proof.Claims.TheWalkTranslatesPages : Prop :=
  ∀ (acc : Acc) (n : Nat) (va : Word) (s : State), s.thr.host = false → s.thr.acting = none → s.thr.pages = [] → va.toNat % n = 0 →
    va.toNat < 2 ^ 55 → (va.toNat < 0x7FF00000000000 ∨ 0x7FF00000000000 + 0x80000000 ≤ va.toNat) →
    (∀ e ∈ tlbOf s, tlbHit va.toNat s.thr.k.ctxid e = false) →
    let km := s.thr.k.km
    let t0 := pteTarget s.thr.k.ptbr
    let p0 := pte s (myPeer s) t0 (va.toNat / 2 ^ 42 % 8192)
    let p1 := pte s (myPeer s) (pteTarget p0) (va.toNat / 2 ^ 29 % 8192)
    let p2 := pte s (myPeer s) (pteTarget p1) (va.toNat / 2 ^ 16 % 8192)
    let inside (table idx : Nat) : Prop := inFirmware (myPeer s * 2 ^ 45 + table % 2 ^ 45 + 8 * idx) = true
    let in0 := inside t0 (va.toNat / 2 ^ 42 % 8192)
    let in1 := inside (pteTarget p0) (va.toNat / 2 ^ 29 % 8192)
    let in2 := inside (pteTarget p1) (va.toNat / 2 ^ 16 % 8192)
    let denied : Prop := ∃ u, access acc km n va s = .error (.trap 0x07 va) u
    let reaches (p : Word) (large : Bool) : Prop :=
      let a := pteTarget p + va.toNat % (if large then 2 ^ 29 else 2 ^ 16)
      let key := s.thr.k.keysel.toNat * 128 + (p.extractLsb' 57 7).toNat
      (¬ LeafAllows acc km p → denied) ∧
      (fpaPeer a ≠ myPeer s ∧ p.getLsbD 5 = false → denied) ∧
      (homeKind a = .absent → denied) ∧
      (homeKind a = .hbm → (key = 0 ∧ inFirmware a = false) ∨ key ∈ (pkgOf s (fpaNode a)).erased → denied) ∧
      (LeafAllows acc km p → homeKind a = .hbm → fpaPeer a = myPeer s → key ≠ 0 ∨ inFirmware a = true →
        key ∉ (pkgOf s (fpaNode a)).erased →
        ∃ s', access acc km n va s = .ok ⟨a, key, false, va, some (p, large), false⟩ s' ∧
          s'.thr = { s.thr with pages := s'.thr.pages } ∧ SameMemory s s')
    (¬ in0 ∨ ¬ PtePointer p0 ∨ ¬ in1 ∨ (¬ PtePointer p1 ∧ ¬ PteLeaf p1 true) ∨ (PtePointer p1 ∧ (¬ in2 ∨ ¬ PteLeaf p2 false)) →
      access acc km n va s = .error (.trap 0x06 va) s) ∧
    (in0 → PtePointer p0 → in1 → PteLeaf p1 true → reaches p1 true) ∧
    (in0 → PtePointer p0 → in1 → PtePointer p1 → in2 → PteLeaf p2 false → reaches p2 false)

/-- The checks of an access and the page walk (R62, R191, R377, R378). -/
def Obligations.AccessesTranslateAndCheck : Prop :=
  AccessesAreCheckedInOrder ∧ TheWalkTranslatesPages

/-- Loads (R123): the value at the home goes to rd, extended; the address is S[ra] + imm · size, moved by a loop's nest. Only
copies and the TLB fill. A line that the L1 holds, or that a fill brings it, serves every load but `ldb` (R188). A home on another
die is asked (R312). A failed check is a precise trap. -/
def Obligations.LoadsReadMemory : Prop :=
  ∀ p ∈ loadTable, ∀ (rd ra : BitVec 7) (imm : BitVec 9) (s s1 : State) (a : Word), Executes (p.1 rd ra imm) s → dstS rd = true →
    srcS ra = true → Reads ra s a s1 →
    let n := p.2.1
    let va := lsAddress s1.thr a imm n
    (∀ c v u, Room rd s1 → access (.scalarLoad n) s1.thr.k.km n va s1 = .error (.trap c v) u →
      exec (p.1 rd ra imm) s = .next (takeTrap false c v s)) ∧
    (∀ (r : Ref) (s2 : State), Granted (.scalarLoad n) n va s1 r s2 → Unheld va n false s2 → homeKind r.fpa ≠ .mmio →
      r.win = false → Here r s2 → Reaches .load r n s2 →
      (p.2.2.1 = false ∨ cacheable s2 r = false ∨ heldLine r s2 = none →
        ∃ s3, s3.thr = s1.thr ∧ SameMemory s s3 ∧ s3.others = s.others ∧
          ∀ s4, Writes rd (p.2.2.2 (memRead s2 r.key r.fpa n)) s3 s4 → exec (p.1 rd ra imm) s = .next (advance s4)) ∧
      (∀ l s4, p.2.2.1 = true → cacheable s2 r = true → nget (mySpan s2).l1 (r.fpa / 64) = some l → l.key = r.key →
        Writes rd (p.2.2.2 (l.data.toNat / 2 ^ (8 * (r.fpa % 64)) % 2 ^ (8 * n))) s2 s4 →
        exec (p.1 rd ra imm) s = .next (advance s4)) ∧
      (∀ f s4, p.2.2.1 = true → cacheable s2 r = true → nget (mySpan s2).l1 (r.fpa / 64) = none →
        (mySpan s2).fills.find? (fun f => f.line == r.fpa / 64 && f.key == r.key) = some f →
        Writes rd (p.2.2.2 (f.data.toNat / 2 ^ (8 * (r.fpa % 64)) % 2 ^ (8 * n))) s2 s4 →
        exec (p.1 rd ra imm) s = .next (advance s4))) ∧
    (∀ (r : Ref) (s2 : State), Granted (.scalarLoad n) n va s1 r s2 → Unheld va n false s2 → homeKind r.fpa ≠ .mmio →
      r.win = false → Away r s2 → Asks (p.1 rd ra imm) rd ⟨r, n, .load n⟩ p.2.2.2 s s2 s2) ∧
    -- a read-only window page: the line that the die's L2, or the host cores' shared cache, holds under the key id, or else its owner's
    (∀ (r : Ref) (s2 : State), Granted (.scalarLoad n) n va s1 r s2 → Unheld va n false s2 →
      homeKind r.fpa ≠ .mmio → r.win = true → (p.2.2.1 = false ∨ s.thr.host = true) →
      let cut (d : Nat) : Nat := d / 2 ^ (8 * (r.fpa % 64)) % 2 ^ (8 * n)
      (∀ (s4 : State) (l : WinLine), s.thr.replies = [] → windowHeld s2 (r.fpa / 64) r.key = some l →
        Writes rd (p.2.2.2 (cut l.data.toNat)) s2 s4 → exec (p.1 rd ra imm) s = .next (advance s4)) ∧
      (windowHeld s2 (r.fpa / 64) r.key = none → s.thr.acting = none →
        Asks (p.1 rd ra imm) rd ⟨r.sector, 64, .line true⟩ (fun v => p.2.2.2 (cut (v % 2 ^ 512))) s s2 s2)) ∧
    -- a register, on the own die or asked for
    (∀ (r : Ref) (s2 : State), Granted (.scalarLoad n) n va s1 r s2 → Unheld va n false s2 → homeKind r.fpa = .mmio →
      (∀ s4, Here r s2 →
        Writes rd (p.2.2.2 ((peekReg s2 (r.fpa / 8 * 8)).toNat / 2 ^ (8 * (r.fpa % 8)) % 2 ^ (8 * n)))
          (readEffect (r.fpa / 8 * 8) s2) s4 → exec (p.1 rd ra imm) s = .next (advance s4)) ∧
      (Away r s2 → Asks (p.1 rd ra imm) rd ⟨r, n, .reg n none⟩ p.2.2.2 s s2 s2))

/-- Stores at a home on the agent's own die (R124): exactly the n bytes at the address that the access reaches change, and no
register does. A failed check is a precise trap with nothing written. -/
def Sys2Proof.Claims.StoresWriteTheirBytes : Prop :=
  ∀ p ∈ storeTable, ∀ (rd ra : BitVec 7) (imm : BitVec 9) (s s1 s2 : State) (a d : Word), Executes (p.1 rd ra imm) s →
    srcS rd = true → srcS ra = true → Reads ra s a s1 → Reads rd s1 d s2 →
    let n := p.2
    let va := lsAddress s2.thr a imm n
    (∀ c v u, access (.scalarStore n) s2.thr.k.km n va s2 = .error (.trap c v) u →
      exec (p.1 rd ra imm) s = .next (takeTrap false c v s)) ∧
    (∀ (r : Ref) (s3 : State), Granted (.scalarStore n) n va s2 r s3 → Unheld va n true s3 → homeKind r.fpa ≠ .mmio →
      Here r s3 → Reaches .store r n s3 →
      ∃ t, exec (p.1 rd ra imm) s = .next (advance t) ∧ t.thr = s2.thr ∧ t.others = s.others ∧
        Stored r.key r.fpa n (d.toNat % 2 ^ (8 * n)) s t) ∧
    -- a register: all of it, or a half, the other half as it is; on the own die or asked for
    (∀ (r : Ref) (s3 : State), Granted (.scalarStore n) n va s2 r s3 → Unheld va n true s3 → homeKind r.fpa = .mmio →
      isTlbinv r.fpa = false →
      let reg := r.fpa / 8 * 8
      let old : Word := peekReg s3 reg &&& keptMask reg
      let v : Word := if n = 8 then d else if r.fpa % 8 = 0 then old.extractLsb' 32 32 ++ d.setWidth 32
        else d.setWidth 32 ++ old.extractLsb' 0 32
      (∀ s4, Here r s3 → (n = 8 → r.fpa % 8 = 0) → (n = 4 → r.fpa % 4 = 0) → writeReg s.thr.place reg v s3 = .ok () s4 →
        exec (p.1 rd ra imm) s = .next (advance s4)) ∧
      (Away r s3 →
        (s.thr.replies = [] → exec (p.1 rd ra imm) s = .next (asked ⟨r, n, .reg n (some (d.toNat % 2 ^ (8 * n)))⟩ s s3)) ∧
        ∀ x, s.thr.replies = [x] → x.loc = r.fpa → x.code = false →
          (x.val = 0 → exec (p.1 rd ra imm) s = .next (advance (withThr s3 s2.thr))) ∧
          (x.val ≠ 0 → exec (p.1 rd ra imm) s = .next (park .other (withThr s { s.thr with replies := [], pages := [] })))))

/-- A plain write of bytes within one sector leaves its descriptor as R81 says: raw stays raw, 16-bit floats become raw with
scale 127, any other becomes 0xFF with scale 0; in HBM the sector is enciphered under the key that the writer's key id names, key id 0 being none (R379). -/
def Sys2Proof.Claims.PlainWritesSetTheDescriptor : Prop :=
  ∀ (s : State) (key a n v : Nat), 0 < n → a % 64 + n ≤ 64 →
    let old := sectorOf s (a / 64)
    let new := sectorOf (memWrite key a n v s) (a / 64)
    (old.fmt = 0x00 → new.fmt = 0x00 ∧ new.scale = old.scale) ∧
    (old.fmt = 0x04 ∨ old.fmt = 0x05 → new.fmt = 0x00 ∧ new.scale = 127) ∧
    (old.fmt ≠ 0x00 → old.fmt ≠ 0x04 → old.fmt ≠ 0x05 → new.fmt = 0xFF ∧ new.scale = 0) ∧
    (homeKind (64 * (a / 64)) = .hbm → homeKind a = .hbm → new.key = if key = 0 then none else some (slotKeyOf s (fpaNode a) key)) ∧ new.record = none

/-- Scalar stores, and the descriptor that a plain write leaves (R81, R124). -/
def Obligations.StoresWriteExactlyTheirBytes : Prop :=
  StoresWriteTheirBytes ∧ PlainWritesSetTheDescriptor

/-- A store whose home is on another die leaves as one request and stays outstanding until it is acknowledged; nothing is
written yet, and the thread goes on (R224, R226, R312). A word that needs a reply has one request out at a time. -/
def Obligations.RemoteStoresBecomeRequests : Prop :=
  (∀ p ∈ storeTable, ∀ (rd ra : BitVec 7) (imm : BitVec 9) (s s1 s2 s3 : State) (a d : Word) (r : Ref), Executes (p.1 rd ra imm) s →
    srcS rd = true → srcS ra = true → Reads ra s a s1 → Reads rd s1 d s2 →
    let va := lsAddress s2.thr a imm p.2
    Granted (.scalarStore p.2) p.2 va s2 r s3 → Unheld va p.2 true s3 → homeKind r.fpa ≠ .mmio →
    Away r s3 →
    ∃ t q, exec (p.1 rd ra imm) s = .next (advance t) ∧ t.packets = s.packets ++ [q] ∧ SameMemory s t ∧
      q.owner = (s.thr.u.lid, s.thr.u.tid) ∧ q.loc = ⟨r.fpa, r.key⟩ ∧ q.lo = va ∧ q.len = p.2 ∧ q.sent = s.time ∧
      q.cargo = .store p.2 (d.toNat % 2 ^ (8 * p.2)) ∧ t.thr = { s2.thr with issued := s2.thr.issued + 1 }) ∧
  (∀ p ∈ atomicWords, ∀ (ra rb : BitVec 7) (s s1 s2 s3 : State) (a b : Word) (r : Ref), Executes (p.1 ra rb) s →
    srcS ra = true → srcS rb = true → Reads ra s a s1 → Reads rb s1 b s2 → Granted .atomic p.2.1 a s2 r s3 →
    Unheld a p.2.1 true s3 → Away r s3 →
    ∃ t q op, exec (p.1 ra rb) s = .next (advance t) ∧ t.packets = s.packets ++ [q] ∧ SameMemory s t ∧
      q.loc = ⟨r.fpa, r.key⟩ ∧ q.cargo = .atomic op b ∧ ∀ old, atomicValue op b old = p.2.2.1 b old) ∧
  (∀ (q : Request) (s : State), s.thr.acting = none →
    let t := sendRequest (actingOf s.thr) q s
    (asking s .scalar = true → t = s) ∧
    (asking s .scalar = false → ∃ p, t.packets = s.packets ++ [p] ∧ SameMemory s t ∧ t.thr = s.thr ∧
      p.owner = (s.thr.u.lid, s.thr.u.tid) ∧ p.loc = ⟨q.ref.fpa, q.ref.key⟩ ∧ p.cargo = q.cargo ∧ p.len = q.len ∧ p.sent = s.time))

/-- Acquire loads read the home, past the L1 and window lines, and then remove the copies of their scope; release stores
perform as a plain store of 8 bytes once nothing older is outstanding, and wait while an older remote write is (R203, R204,
R234). Either waits while a `claimt` holds its word (R360). -/
def Obligations.AcquireLoadsAndReleaseStores : Prop :=
  (∀ p ∈ acquireLoads, ∀ (rd ra : BitVec 7) (s s1 s2 s4 : State) (a : Word) (r : Ref), Executes (p.1 rd ra) s → dstS rd = true →
    srcS ra = true → Reads ra s a s1 → Granted .syncLoad 8 a s1 r s2 → Unheld a 8 false s2 →
    (Here r s2 → Reaches .load r 8 s2 → NotHeld r.fpa 8 s2 → Writes rd (BitVec.ofNat 64 (memRead s2 r.key r.fpa 8)) (copiesRemoved p.2 s2) s4 →
      exec (p.1 rd ra) s = .next (advance s4)) ∧
    (Away r s2 → Asks (p.1 rd ra) rd ⟨{ r with sync := true }, 8, .load 8⟩ (BitVec.ofNat 64) s s2 (copiesRemoved p.2 s2)) ∧
    (Here r s2 → ¬ NotHeld r.fpa 8 s2 → Room rd s1 →
      exec (p.1 rd ra) s = .next (park .other s))) ∧
  (∀ p ∈ releaseStores, ∀ (ra rb : BitVec 7) (s s1 s2 s3 : State) (a b : Word) (r : Ref), Executes (p.1 ra rb) s →
    srcS ra = true → srcS rb = true → Reads ra s a s1 → Reads rb s1 b s2 → Granted .store 8 a s2 r s3 →
    (NothingOlder s3 → Here r s3 → Reaches .store r 8 s3 → NotHeld r.fpa 8 s3 →
      ∃ t, exec (p.1 ra rb) s = .next (advance t) ∧ t.thr = s2.thr ∧ Stored r.key r.fpa 8 b.toNat s t) ∧
    (p.2 = 3 → (∃ q ∈ s3.packets, ownPacket s3.thr q = true ∧ q.age < s3.thr.issued) → s3.thr.tr = [] →
      exec (p.1 ra rb) s = .next (park .other s)))

/-- Atomics that return nothing (R203, R206, R188): one read-modify-write at the home on the agent's own die, the flags of a
sum-word add ORed into `fflags`, every other byte as before. -/
def Sys2Proof.Claims.AtomicsModifyMemoryOnce : Prop :=
  ∀ p ∈ atomicWords, ∀ (ra rb : BitVec 7) (s s1 s2 s3 : State) (a b : Word) (r : Ref), Executes (p.1 ra rb) s →
    srcS ra = true → srcS rb = true → Reads ra s a s1 → Reads rb s1 b s2 → Granted .atomic p.2.1 a s2 r s3 →
    Unheld a p.2.1 true s3 → Here r s3 → Reaches .atomic r p.2.1 s3 → NotHeld r.fpa p.2.1 s3 → s.turn.residue = 0 →
    let old := memRead s r.key r.fpa p.2.1
    ∃ t, exec (p.1 ra rb) s = .next (advance t) ∧ Stored r.key r.fpa p.2.1 (p.2.2.1 b old) s t ∧
      t.thr = { s2.thr with u := { s2.thr.u with fflags := s2.thr.u.fflags ||| p.2.2.2 b old } }

/-- `afetch`, `aswap`, `acas` on a sync page return the old value and write at once; a failed comparison writes nothing.
`sumrd` and `sumrds` return a sum word rounded (R95, R202, R203). A home on another die is asked (R312). -/
def Sys2Proof.Claims.ValueReturningAtomics : Prop :=
  (∀ (rd ra rb : BitVec 7) (s s1 s2 s3 : State) (a b : Word) (r : Ref), Executes (.afetch rd ra rb) s → dstS rd = true →
    srcS ra = true → srcS rb = true → Reads ra s a s1 → Reads rb s1 b s2 →
    checkAccess .atomic s2.thr.k.km 8 8 true a s2 = .ok r s3 → Unheld a 8 true s3 → Here r s3 → Reaches .atomic r 8 s3 →
    NotHeld r.fpa 8 s3 → s.turn.residue = 0 →
    let old : Word := BitVec.ofNat 64 (memRead s r.key r.fpa 8)
    (∃ t, Stored r.key r.fpa 8 (old + b).toNat s t ∧ t.thr = s2.thr ∧
      ∀ t', Writes rd old t t' → exec (.afetch rd ra rb) s = .next (advance t')) ∧
    (∃ t, Stored r.key r.fpa 8 b.toNat s t ∧ t.thr = s2.thr ∧
      ∀ t', Writes rd old t t' → exec (.aswap rd ra rb) s = .next (advance t'))) ∧
  (∀ (rd ra rb : BitVec 7) (s s1 s2 : State) (a : Word) (r : Ref), Executes (.acas rd ra rb) s → dstS rd = true → srcS ra = true →
    1 ≤ rb.toNat → rb.toNat < 119 → rb.toNat ≠ 7 → Reads ra s a s1 →
    checkAccess .atomic s1.thr.k.km 8 8 true a s1 = .ok r s2 → Unheld a 8 true s2 → Here r s2 → Reaches .atomic r 8 s2 →
    NotHeld r.fpa 8 s2 →
    let old : Word := BitVec.ofNat 64 (memRead s r.key r.fpa 8)
    (old = scalar s.thr rb → ∃ t, Stored r.key r.fpa 8 (scalar s.thr (rb + 1)).toNat s t ∧ t.thr = s1.thr ∧
      ∀ t', Writes rd old t t' → exec (.acas rd ra rb) s = .next (advance t')) ∧
    (old ≠ scalar s.thr rb → ∃ t, SameMemory s t ∧ t.thr = s1.thr ∧
      ∀ t', Writes rd old t t' → exec (.acas rd ra rb) s = .next (advance t'))) ∧
  (∀ (rd ra : BitVec 7) (s s1 s2 t' : State) (a : Word) (r : Ref), Executes (.sumrd rd ra) s → dstS rd = true → srcS ra = true →
    Reads ra s a s1 → Granted .syncLoad 16 a s1 r s2 → Unheld a 16 false s2 → Here r s2 → Reaches .load r 16 s2 →
    NotHeld r.fpa 16 s2 →
    let w : BitVec 128 := BitVec.ofNat 128 (memRead s r.key r.fpa 16)
    (Writes rd (BitVec.ofNat 64 (sumRound fp64 w)) s2 t' → exec (.sumrd rd ra) s = .next (advance t')) ∧
    (Writes rd (BitVec.ofNat 64 (sumRound fp32 w)) s2 t' → exec (.sumrds rd ra) s = .next (advance t'))) ∧
  (∀ (rd ra rb : BitVec 7) (s s1 s2 s3 : State) (a b : Word) (r : Ref), dstS rd = true → srcS ra = true → Reads ra s a s1 →
    let left : State := if s.thr.host then s3 else l1Remove r.fpa 8 s3
    (srcS rb = true → Executes (.afetch rd ra rb) s → Reads rb s1 b s2 → checkAccess .atomic s2.thr.k.km 8 8 true a s2 = .ok r s3 →
      Unheld a 8 true s3 → Away r s3 → Asks (.afetch rd ra rb) rd ⟨r, 8, .fetch (.add b)⟩ (BitVec.ofNat 64) s s3 left ∧
        Asks (.aswap rd ra rb) rd ⟨r, 8, .fetch (.swap b)⟩ (BitVec.ofNat 64) s s3 left) ∧
    (1 ≤ rb.toNat → rb.toNat < 119 → rb.toNat ≠ 7 → checkAccess .atomic s1.thr.k.km 8 8 true a s1 = .ok r s3 →
      Executes (.acas rd ra rb) s → Unheld a 8 true s3 → Away r s3 →
      Asks (.acas rd ra rb) rd ⟨r, 8, .fetch (.cas (scalar s.thr rb) (scalar s.thr (rb + 1)))⟩ (BitVec.ofNat 64) s s3 left) ∧
    (Granted .syncLoad 16 a s1 r s3 → Unheld a 16 false s3 → Away r s3 → Executes (.sumrd rd ra) s →
      let q : Request := ⟨{ r with sync := true }, 16, .load 16⟩
      Asks (.sumrd rd ra) rd q (fun v => BitVec.ofNat 64 (sumRound fp64 (BitVec.ofNat 128 v))) s s3 s3 ∧
      Asks (.sumrds rd ra) rd q (fun v => BitVec.ofNat 64 (sumRound fp32 (BitVec.ofNat 128 v))) s s3 s3)) ∧
  (∀ (rd ra rb : BitVec 7) (s s1 s2 u : State) (a b v : Word) (c : BitVec 8), Executes (.afetch rd ra rb) s → dstS rd = true →
    srcS ra = true → srcS rb = true → Reads ra s a s1 → Reads rb s1 b s2 → Room rd s2 →
    checkAccess .atomic s2.thr.k.km 8 8 true a s2 = .error (.trap c v) u →
    exec (.afetch rd ra rb) s = .next (takeTrap false c v s) ∧ exec (.aswap rd ra rb) s = .next (takeTrap false c v s))

/-- The sync-page rule (R203): a value-returning atomic on a page that translates and whose rights allow it, but which is no
sync page or lies in the local window, is *order trap* with the address. -/
def Sys2Proof.Claims.AtomicsNeedASyncPage : Prop :=
  ∀ (s s1 : State) (a : Word) (x : Xlat), a.toNat % 8 = 0 → translate a s = .ok x s1 → rightsOk .atomic s.thr.k.km x = true →
    (match x with | .window _ => True | .page p _ => p.getLsbD 6 = false) →
    checkAccess .atomic s.thr.k.km 8 8 true a s = .error (.trap 0x08 a) s1

/-- Atomics, with and without a result, and their sync page (R203, R206). -/
def Obligations.AtomicsReadModifyWrite : Prop :=
  AtomicsModifyMemoryOnce ∧ ValueReturningAtomics ∧ AtomicsNeedASyncPage

/-- Fences (R230, R231, R232): those that hold the scalar side complete when nothing older is outstanding, `acq` and `all`
taking the copies of their scope away, and wait while an older remote write that they cover is; `sv` and `vv` enter the
vector queue as markers, hold nothing of the scalar side, and commit at once when nothing older is outstanding. -/
def Sys2Proof.Claims.FencesWaitAndRemoveCopies : Prop :=
  (∀ f ∈ acquireFences, ∀ (sc : BitVec 2) (s : State), s.thr.host = false → NothingOlder s →
    exec (f sc) s = .next (advance (copiesRemoved sc.toNat s))) ∧
  (∀ f ∈ otherHoldingFences, ∀ (sc : BitVec 2) (s : State), s.thr.host = false → NothingOlder s →
    exec (f sc) s = .next (advance s)) ∧
  (∀ f ∈ [Instr.fenceAll, .fenceRel, .fenceRem], ∀ (s : State) (q : Packet), s.thr.host = false → s.thr.tr = [] →
    s.thr.v.vq = [] → s.thr.v.nbq = [] → s.thr.tq = [] → q ∈ s.packets → ownPacket s.thr q = true → q.age < s.thr.issued →
    exec (f 3) s = .next (park .other s)) ∧
  (∀ f ∈ markerFences, ∀ (sc : BitVec 2) (s : State), s.thr.host = false → s.thr.v.vq.length < 64 →
    (NothingOlder s → s.thr.v.held = none → s.turn.defer = false →
      exec (f sc) s = .next (advance (withThr s { s.thr with issued := s.thr.issued + 1 }))) ∧
    (s.turn.defer = true → ∃ e : VEntry, e.ins = f sc ∧ e.age = s.thr.issued ∧
      exec (f sc) s = .next (advance (withThr s { s.thr with
        issued := s.thr.issued + 1, v := { s.thr.v with vq := s.thr.v.vq ++ [e] } }))))

/-- The interlock holds the scalar side behind older vector entries of the thread that conflict (R226): a scalar store waits,
as `qstat` reports it, while a vector load of the same bytes is outstanding, and so does a load behind a vector store; the word has
no effect while it waits. -/
def Sys2Proof.Claims.TheInterlockOrdersOwnAccesses : Prop :=
  let conflicts (s : State) (va : Word) (n : Nat) (wr : Bool) : Prop :=
    ∃ e ∈ s.thr.v.vq, e.age < s.thr.issued ∧
      ∃ r ∈ entryRanges e, r.lo < va.toNat + n ∧ (va.toNat : Int) < r.hi ∧ (r.wr = true ∨ wr = true)
  (∀ (s : State) (va : Word) (n : Nat) (wr : Bool), s.thr.tr = [] → conflicts s va n wr →
    interlockScalar va n wr s = .error (.wait .arit) s) ∧
  (∀ p ∈ loadTable, ∀ (rd ra : BitVec 7) (imm : BitVec 9) (s s1 s2 : State) (a : Word) (r : Ref), s.thr.host = false →
    dstS rd = true → srcS ra = true → Reads ra s a s1 → Room rd s1 →
    let va := lsAddress s1.thr a imm p.2.1
    Granted (.scalarLoad p.2.1) p.2.1 va s1 r s2 → s.thr.tr = [] → conflicts s va p.2.1 false →
    exec (p.1 rd ra imm) s = .next (park .arit s)) ∧
  (∀ p ∈ storeTable, ∀ (rd ra : BitVec 7) (imm : BitVec 9) (s s1 s2 s3 : State) (a d : Word) (r : Ref), s.thr.host = false →
    srcS rd = true → srcS ra = true → Reads ra s a s1 → Reads rd s1 d s2 →
    let va := lsAddress s2.thr a imm p.2
    Granted (.scalarStore p.2) p.2 va s2 r s3 → s.thr.tr = [] → conflicts s va p.2 true →
    exec (p.1 rd ra imm) s = .next (park .arit s))

/-- Fences, and the interlock of a thread's own accesses (R226, R231). -/
def Obligations.FencesAndTheInterlock : Prop :=
  FencesWaitAndRemoveCopies ∧ TheInterlockOrdersOwnAccesses

/-! ## Vector arithmetic -/

namespace Sys2Proof.Claims

/-- A vector word runs at once: a control thread, an idle stream, and a turn that does not defer it. -/
def VectorReady (s : State) : Prop := s.thr.host = false ∧ Idle s ∧ s.turn.defer = false

/-- Vector register r is as before, with its landed bits and, in a long context, its dirty bit and high-water mark. -/
def SameReg (t u : Thread) (r : Nat) : Prop :=
  vget u.v.short r 0 = vget t.v.short r 0 ∧ vget u.v.landed r 0 = vget t.v.landed r 0 ∧
  u.v.long.map (fun c => (vget c.regs r 0, vget c.dirty r false, vget c.hw r 0)) =
    t.v.long.map fun c => (vget c.regs r 0, vget c.dirty r false, vget c.hw r 0)

/-- Mask k is as before. -/
def SameMask (t u : Thread) (k : Nat) : Prop :=
  vget u.v.smask k 0 = vget t.v.smask k 0 ∧ u.v.long.map (fun c => vget c.masks k 0) = t.v.long.map fun c => vget c.masks k 0

/-- A vector word has run to its end: the thread has gone on, `vstart` is 0, the flags are ORed in, the registers that it
writes are landed; every other vector register and mask, and every other register of the thread, is as before (R137, R138,
R142, R144, R148, R149). -/
def VectorDone (regs masks : List Nat) (fl : BitVec 5) (t u : Thread) : Prop :=
  { u with v := t.v } = retire { t with issued := t.issued + 1, u := { t.u with vstart := 0, fflags := t.u.fflags ||| fl } } ∧
  NoEntries u ∧ u.v.lg = t.v.lg ∧ u.v.long.isSome = t.v.long.isSome ∧
  (∀ r, r ∉ regs → SameReg t u r) ∧ (∀ k, k ∉ masks → SameMask t u k) ∧ (∀ r ∈ regs, vget u.v.landed r 0 = 0xFFFFFFFF) ∧
  (isLong t = true → u.v.short = t.v.short ∧ u.v.smask = t.v.smask)

/-- Below VLMAX, register rd holds what `val` gives at the positions `at_` and what it held elsewhere. -/
def Elements (t u : Thread) (rd : BitVec 7) (at_ : Nat → Bool) (val : (w : Nat) → Nat → BitVec w) : Prop :=
  ∀ k < vlmax t, elem u (sew t) rd k = if at_ k then val (sew t) k else elem t (sew t) rd k

/-- Below VLMAX, mask md holds what `val` gives at the positions `at_` and what it held elsewhere. -/
def Bits (t u : Thread) (md : BitVec 7) (at_ : Nat → Bool) (val : Nat → Bool) : Prop :=
  ∀ k < vlmax t, bit u md k = if at_ k then val k else bit t md k

/-- Fields that R43 and R44 allow: a vector register, a register or a broadcast scalar, a captured scalar or q4 and q5. -/
def IsVector (f : BitVec 7) : Prop := f.toNat < 48
def IsOperand (f : BitVec 7) : Prop := f.toNat < 48 ∨ 64 ≤ f.toNat
def IsScalar (f : BitVec 7) : Prop := f.toNat < 120 ∨ f.toNat = 124 ∨ f.toNat = 125
def IsMask (f : BitVec 7) : Prop := f.toNat < 12
def IsQueue (f : BitVec 7) : Prop := 120 ≤ f.toNat ∧ f.toNat < 124

/-- The word completes, and its thread ends as told. -/
def Completes (i : Instr) (s : State) (post : Thread → Prop) : Prop := ∃ u, exec i s = .next (withThr s u) ∧ post u

/-- Integer lane words at element width w (R154). -/
def laneWords : List ((BitVec 7 → BitVec 7 → BitVec 7 → BitVec 4 → Instr) × ((w : Nat) → BitVec w → BitVec w → BitVec w)) :=
  [ (.vadd, fun _ a b => a + b), (.vsub, fun _ a b => a - b), (.vmul, fun w a b => BitVec.ofInt w (a.toInt * b.toInt)),
    (.vmulh, fun w a b => (BitVec.ofInt (2 * w) (a.toInt * b.toInt)).extractLsb' w w),
    (.vmulhu, fun w a b => (BitVec.ofNat (2 * w) (a.toNat * b.toNat)).extractLsb' w w),
    (.vdiv, quot), (.vdivu, uquot), (.vrem, remainder), (.vremu, uremainder),
    (.vand, fun _ a b => a &&& b), (.vor, fun _ a b => a ||| b), (.vxor, fun _ a b => a ^^^ b),
    (.vsll, fun w a b => a <<< (b.toNat % w)), (.vsrl, fun w a b => a >>> (b.toNat % w)),
    (.vsra, fun w a b => BitVec.ofInt w (a.toInt / (2 : Int) ^ (b.toNat % w))),
    (.vmin, fun w a b => BitVec.ofInt w (min a.toInt b.toInt)), (.vminu, fun w a b => BitVec.ofNat w (min a.toNat b.toNat)),
    (.vmax, fun w a b => BitVec.ofInt w (max a.toInt b.toInt)), (.vmaxu, fun w a b => BitVec.ofNat w (max a.toNat b.toNat)) ]

/-- Integer unary words (R172). -/
def laneUnary : List ((BitVec 7 → BitVec 7 → BitVec 4 → Instr) × ((w : Nat) → BitVec w → BitVec w)) :=
  [ (.vneg, fun w a => 0#w - a), (.vnot, fun _ a => ~~~a),
    (.vclz, fun w a => BitVec.ofNat w (w - (if a = 0 then 0 else Nat.log2 a.toNat + 1))),
    (.vctz, fun w a => BitVec.ofNat w ((List.range w).takeWhile fun i => ! a.getLsbD i).length),
    (.vpopc, fun w a => BitVec.ofNat w ((List.range w).filter fun i => a.getLsbD i).length) ]

/-- The sign transfers, on patterns (R158). -/
def signWords : List ((BitVec 7 → BitVec 7 → BitVec 7 → BitVec 4 → Instr) × (Bool → Bool → Bool)) :=
  [ (.vfsign, fun _ b => b), (.vfsignn, fun _ b => ! b), (.vfsignx, fun a b => xor a b) ]

/-- FP words with their result pattern and flags: of two operands, with the addend in rd, of one operand, and conversions
(R155 to R157, R173, R174). -/
def fpBinary : List ((BitVec 7 → BitVec 7 → BitVec 7 → BitVec 4 → Instr) × (FpCtl → Nat → Nat → Nat × BitVec 5)) :=
  [ (.vfadd, fpAdd), (.vfsub, fpSub), (.vfmul, fpMul), (.vfdiv, fpDiv), (.vfmin, (fpMinMax · false)), (.vfmax, (fpMinMax · true)) ]
def fpFused : List ((BitVec 7 → BitVec 7 → BitVec 7 → BitVec 4 → Instr) × (FpCtl → Nat → Nat → Nat → Nat × BitVec 5)) :=
  [ (.vfma, (fpFma · false false)), (.vfms, (fpFma · false true)), (.vfnma, (fpFma · true true)), (.vfnms, (fpFma · true false)) ]
def fpUnary : List ((BitVec 7 → BitVec 7 → BitVec 4 → Instr) × (FpCtl → Nat → Nat × BitVec 5)) :=
  [ (.vfsqrt, fpSqrt), (.vfclass, fun c a => (fpClass c.f a, 0)), (.vfrint, fpRint) ]
def fpConversions : List ((BitVec 7 → BitVec 7 → BitVec 4 → Instr) × ((w : Nat) → FpCtl → BitVec w → Nat × BitVec 5)) :=
  [ (.vcvtFI, fun _ c a => fpOfInt c a.toInt), (.vcvtFIu, fun _ c a => fpOfInt c a.toNat),
    (.vcvtIF, fun w c a => let r := fpToInt c true w a.toNat; ((BitVec.ofInt w r.1).toNat, r.2)),
    (.vcvtIuF, fun w c a => let r := fpToInt c false w a.toNat; ((BitVec.ofInt w r.1).toNat, r.2)) ]

/-- Integer comparisons (R160). -/
def compareWords : List ((BitVec 4 → BitVec 7 → BitVec 7 → BitVec 4 → Instr) × ((w : Nat) → BitVec w → BitVec w → Bool)) :=
  [ (.vcmpEq, fun _ a b => decide (a = b)), (.vcmpNe, fun _ a b => decide (a ≠ b)),
    (.vcmpLt, fun _ a b => decide (a.toInt < b.toInt)), (.vcmpLtu, fun _ a b => decide (a.toNat < b.toNat)),
    (.vcmpLe, fun _ a b => decide (a.toInt ≤ b.toInt)), (.vcmpLeu, fun _ a b => decide (a.toNat ≤ b.toNat)),
    (.vcmpGt, fun _ a b => decide (a.toInt > b.toInt)), (.vcmpGtu, fun _ a b => decide (a.toNat > b.toNat)) ]

/-- The value is a NaN; one of two is. -/
def isNan : FpVal → Bool
  | .nan _ => true
  | _ => false
def eitherNan (a b : FpVal) : Bool := isNan a || isNan b

/-- FP comparisons: whether only signalling NaNs raise NV, and the relation on the values (R160). -/
def fpCompareWords : List ((BitVec 4 → BitVec 7 → BitVec 7 → BitVec 4 → Instr) × Bool × (FpVal → FpVal → Bool)) :=
  [ (.vcmpFeq, true, fpEqVal), (.vcmpFne, true, fun a b => ! fpEqVal a b), (.vcmpFlt, false, fpLtVal),
    (.vcmpFle, false, fun a b => fpLtVal a b || fpEqVal a b), (.vcmpFgt, false, fun a b => fpLtVal b a),
    (.vcmpFge, false, fun a b => fpLtVal b a || fpEqVal a b), (.vcmpFunord, true, eitherNan),
    (.vcmpFord, true, fun a b => ! eitherNan a b) ]

/-- The real number that a finite value stands for. -/
noncomputable def realOf : FpVal → ℝ
  | .num neg m e => (if neg then -1 else 1) * m * 2 ^ e
  | _ => 0

/-- The value is a number, of that sign. -/
def IsNum (neg : Bool) : FpVal → Prop
  | .num n _ _ => n = neg
  | _ => False

/-- A nonnegative real, its sign apart, is rounded to the integer n: RNE, RTZ, RDN, RUP, RNA (R65). -/
def Nearest (rm : Nat) (neg : Bool) (y : ℝ) (n : Nat) : Prop :=
  let down : Prop := n ≤ y ∧ y < n + 1
  let up : Prop := (n : ℝ) - 1 < y ∧ y ≤ n
  match rm with
  | 0 => |y - n| ≤ 1 / 2 ∧ (|y - n| = 1 / 2 → n % 2 = 0)
  | 1 => down
  | 2 => if neg then up else down
  | 3 => if neg then down else up
  | _ => |y - n| ≤ 1 / 2 ∧ (|y - n| = 1 / 2 → y < n)

/-- The largest finite value of a format, and its smallest normal one (R74). -/
noncomputable def largest (f : Fmt) : ℝ := if f.e4m3 then 448 else (2 - 2 ^ (-(f.fb : ℤ))) * 2 ^ (f.bias : ℤ)
noncomputable def smallest (f : Fmt) : ℝ := 2 ^ (1 - (f.bias : ℤ))

/-- A nonzero real x is rounded to a format as R65 writes it: n is x on the grid of the format's precision with unbounded exponent,
q on that of its normal or subnormal range. Above the largest finite value: infinity or that value, as the mode has it, or
E4M3's NaN, with OF and NX. A tiny one under FLUSH 1 or 2: zero of its sign with UF and NX. Any other is the pattern of ±q on the
grid, with NX where inexact, and UF beside it where tiny. -/
def Rounded (f : Fmt) (rm flush : Nat) (x : ℝ) (r : Nat × BitVec 5) : Prop :=
  ∀ (neg : Bool) (u : ℤ) (n q : Nat), (neg = true ↔ x < 0) → (2 : ℝ) ^ (u + f.fb) ≤ |x| → |x| < 2 ^ (u + f.fb + 1) →
    Nearest rm neg (|x| / 2 ^ u) n →
    let grid : ℤ := max u (1 - (f.bias : ℤ) - f.fb)
    Nearest rm neg (|x| / 2 ^ grid) q →
    let unbounded : ℝ := n * 2 ^ u
    let sign : Nat := if neg then f.signBit else 0
    let tiny : Prop := unbounded < smallest f
    (largest f < unbounded →
      r = (if f.e4m3 then f.nan else sign + if rm = 0 ∨ rm = 4 ∨ rm = (if neg then 2 else 3) then f.infBits else f.maxBits, 0x12)) ∧
    (unbounded ≤ largest f → tiny → 1 ≤ flush → r = (sign, 0x18)) ∧
    (unbounded ≤ largest f → (¬ tiny ∨ flush = 0) →
      r.1 < 2 ^ f.width ∧ IsNum neg (fpVal f r.1) ∧ |realOf (fpVal f r.1)| = q * 2 ^ grid ∧
      ((q : ℝ) * 2 ^ grid = |x| → r.2 = 0) ∧ ((q : ℝ) * 2 ^ grid ≠ |x| → tiny → r.2 = 0x18) ∧
      ((q : ℝ) * 2 ^ grid ≠ |x| → ¬ tiny → r.2 = 0x10))

/-- RoundFP of a real: a zero has the sign told and no flag (R65). -/
def RoundsTo (f : Fmt) (rm flush : Nat) (x : ℝ) (zeroNeg : Bool) (r : Nat × BitVec 5) : Prop :=
  (x = 0 → r = (if zeroNeg then f.signBit else 0, 0)) ∧ (x ≠ 0 → Rounded f rm flush x r)

/-- The sign of a zero sum: that of two zeros of one sign, else + but when rounding down (R155). -/
noncomputable def zeroSumNeg (rm : Nat) (n : Bool) (x : ℝ) (n' : Bool) (y : ℝ) : Bool :=
  if n = n' ∧ x = 0 ∧ y = 0 then n else decide (rm = 2)

/-- The scalar that a field gives at enqueue: s0 to s119, or s0 to s63 broadcast; a queue gives none yet (R43, R101). -/
def capturedBy (t : Thread) (k : FieldKind) (n : Nat) : Word :=
  if k = .scalar ∧ n < 120 then scalar t (BitVec.ofNat 7 n)
  else if k = .vop ∧ 64 ≤ n ∧ n < 128 then scalar t (BitVec.ofNat 7 (n - 64)) else 0

/-- The word is a tensor word, whose base the nest offset moves. -/
def isTensor : Instr → Bool
  | .tld .. | .tst .. | .tldNb .. | .tstNb .. => true
  | _ => false

/-- Flags of the active positions. -/
def laneFlags (t : Thread) (m : BitVec 4) (g : Nat → BitVec 5) : BitVec 5 := flagsOf ((actives t m).map g)

/-- The first position below `vl` whose bit is set, or `vl`. -/
def firstOf (t : Thread) (k : BitVec 7) : Nat := ((List.range (vecLen t)).find? (bit t k)).getD (vecLen t)

/-- Mask words that act bit by bit (R168). -/
def maskWords : List ((BitVec 7 → BitVec 7 → BitVec 7 → Instr) × (Bool → Bool → Bool)) :=
  [(.mand, and), (.mor, or), (.mxor, xor), (.mandn, fun a b => a && ! b)]

/-- The set positions of a mask below `vl`, rising. -/
def setBits (t : Thread) (k : BitVec 7) : List Nat := (List.range (vecLen t)).filter (bit t k)

/-- The words that widen, and those that narrow (R176). -/
def widenWords : List ((BitVec 7 → BitVec 7 → BitVec 4 → Instr) × ((w : Nat) → FpCtl → BitVec w → Nat × BitVec 5)) :=
  [ (.vwidenI, fun w _ a => ((a.signExtend (2 * w)).toNat, 0)), (.vwidenIu, fun _ _ a => (a.toNat, 0)),
    (.vfwiden, fun w c a => fpConvert c.f { c with f := fmtAt (2 * w) 0 } a.toNat) ]
def narrowWords : List ((BitVec 7 → BitVec 7 → BitVec 4 → Instr) × ((w : Nat) → FpCtl → BitVec (2 * w) → Nat × BitVec 5)) :=
  [ (.vnarrowI, fun w _ a => (a.toNat % 2 ^ w, 0)),
    (.vnarrowIs, fun w _ a => ((BitVec.ofInt w (max (-(2 : Int) ^ (w - 1)) (min a.toInt ((2 : Int) ^ (w - 1) - 1)))).toNat, 0)),
    (.vfnarrow, fun w c a => fpConvert (fmtAt (2 * w) 0) c a.toNat) ]

/-- Element i of a wide operand: of a register pair in long mode, of one register in short mode (R175). -/
def wideElem (t : Thread) (w : Nat) (r : BitVec 7) (i : Nat) : BitVec (2 * w) :=
  if isLong t then elemOf (vreg t true (r.toNat + i / (vlmax t / 2))) (2 * w) (i % (vlmax t / 2))
  else elemOf (vreg t false r.toNat) (2 * w) i

/-- The wide field and the narrow one may stand together (R46, R175). -/
def WidePair (t : Thread) (wide narrow : BitVec 7) : Prop :=
  wide.toNat < 48 ∧
  if isLong t then wide.toNat % 2 = 0 ∧ narrow ≠ wide ∧ narrow.toNat ≠ wide.toNat + 1
  else t.u.vl.toNat ≤ vlmax t / 2 ∧ narrow ≠ wide

/-- Integer reductions: fold, identity, and whether a pushed result is sign-extended (R177, R178). -/
def reduceWords : List ((BitVec 7 → BitVec 7 → BitVec 4 → Instr) × ((w : Nat) → BitVec w → BitVec w → BitVec w)
    × ((w : Nat) → BitVec w) × Bool) :=
  [ (.vrsum, fun _ r x => r + x, fun w => 0#w, true),
    (.vrmax, fun w r x => BitVec.ofInt w (max r.toInt x.toInt), fun w => BitVec.ofInt w (-(2 : Int) ^ (w - 1)), true),
    (.vrmin, fun w r x => BitVec.ofInt w (min r.toInt x.toInt), fun w => BitVec.ofInt w ((2 : Int) ^ (w - 1) - 1), true),
    (.vrmaxu, fun w r x => BitVec.ofNat w (max r.toNat x.toNat), fun w => 0#w, false),
    (.vrminu, fun w r x => BitVec.ofNat w (min r.toNat x.toNat), fun w => BitVec.allOnes w, false),
    (.vredand, fun _ r x => r &&& x, fun w => BitVec.allOnes w, false), (.vredor, fun _ r x => r ||| x, fun w => 0#w, false),
    (.vredxor, fun _ r x => r ^^^ x, fun w => 0#w, false) ]

/-- A reduction's result r at width w stands in element 0 of rd, where `vl` ≥ 1, or is pushed into the queue rd as `ext`
(R177, R162). -/
def Reduced (i : Instr) (rd : BitVec 7) (s : State) (r : (w : Nat) → BitVec w) (ext : Word) (fl : BitVec 5) : Prop :=
  (IsVector rd → Completes i s fun u => VectorDone [rd.toNat] [] fl s.thr u ∧
    Elements s.thr u rd (fun k => decide (k = 0 ∧ 0 < vecLen s.thr)) fun w _ => r w) ∧
  (∀ s1, IsQueue rd → Writes rd ext s s1 → Completes i s fun u => VectorDone [] [] fl s1.thr u)

/-- The pairwise tree of R179: node j at height h, with its flags. -/
def treeNode (c : FpCtl) (slot : Nat → Nat) : Nat → Nat → Nat × BitVec 5
  | 0, j => (slot j, 0)
  | h + 1, j =>
    let a := treeNode c slot h (2 * j)
    let b := treeNode c slot h (2 * j + 1)
    let r := fpAdd c a.1 b.1
    (r.1, r.2 ||| a.2 ||| b.2)

/-- The height of the tree: the least h with 2^h ≥ max(vl, 2). -/
def IsHeight (n h : Nat) : Prop := max n 2 ≤ 2 ^ h ∧ 2 ^ h < 2 * max n 2

/-- A running FP fold with its flags. -/
def fpFold (f : Nat → Nat → Nat × BitVec 5) (r : Nat) (xs : List Nat) : Nat × BitVec 5 :=
  xs.foldl (fun acc x => ((f acc.1 x).1, acc.2 ||| (f acc.1 x).2)) (r, 0)

end Sys2Proof.Claims

/-- The integer words of major 0x20 to 0x33 with a governing mask write, at each active position, the result of their row; a
broadcast scalar stands for every element; no flag (R66, R153, R154, R172). -/
def Obligations.IntegerLanesWriteTheirResult : Prop :=
  (∀ p ∈ laneWords, ∀ (rd ra rb : BitVec 7) (m : BitVec 4) (s : State), VectorReady s → IsVector rd → IsOperand ra → IsOperand rb →
    Completes (p.1 rd ra rb m) s fun u => VectorDone [rd.toNat] [] 0 s.thr u ∧
      Elements s.thr u rd (active s.thr m) fun w k => p.2 w (operand s.thr w ra k) (operand s.thr w rb k)) ∧
  (∀ p ∈ laneUnary, ∀ (rd ra : BitVec 7) (m : BitVec 4) (s : State), VectorReady s → IsVector rd → IsOperand ra →
    Completes (p.1 rd ra m) s fun u => VectorDone [rd.toNat] [] 0 s.thr u ∧
      Elements s.thr u rd (active s.thr m) fun w k => p.2 w (operand s.thr w ra k))

/-- FP words write, at each active position, the rounded result under the `vtype` in force, and OR in the flags of the active
positions alone; at SEW 8 the arithmetic ones are *illegal operand* (R149, R152, R155 to R158, R173, R174). -/
def Obligations.FloatLanesRoundAndFlag : Prop :=
  (∀ p ∈ fpBinary, ∀ (rd ra rb : BitVec 7) (m : BitVec 4) (s : State), s.thr.host = false → IsVector rd → IsOperand ra →
    IsOperand rb →
    let g (w k : Nat) := p.2 (vtCtl s.thr.u.vtype) (operand s.thr w ra k).toNat (operand s.thr w rb k).toNat
    (16 ≤ sew s.thr → VectorReady s →
      Completes (p.1 rd ra rb m) s fun u =>
        VectorDone [rd.toNat] [] (laneFlags s.thr m fun k => (g (sew s.thr) k).2) s.thr u ∧
        Elements s.thr u rd (active s.thr m) fun w k => BitVec.ofNat w (g w k).1) ∧
    (sew s.thr = 8 → exec (p.1 rd ra rb m) s = .next (takeTrap false 0x02 (failing (p.1 rd ra rb m)) s))) ∧
  (∀ p ∈ fpFused, ∀ (rd ra rb : BitVec 7) (m : BitVec 4) (s : State), VectorReady s → 16 ≤ sew s.thr → IsVector rd →
    IsOperand ra → IsOperand rb →
    let g (w k : Nat) := p.2 (vtCtl s.thr.u.vtype) (operand s.thr w ra k).toNat (operand s.thr w rb k).toNat (elem s.thr w rd k).toNat
    Completes (p.1 rd ra rb m) s fun u =>
      VectorDone [rd.toNat] [] (laneFlags s.thr m fun k => (g (sew s.thr) k).2) s.thr u ∧
      Elements s.thr u rd (active s.thr m) fun w k => BitVec.ofNat w (g w k).1) ∧
  (∀ p ∈ signWords, ∀ (rd ra rb : BitVec 7) (m : BitVec 4) (s : State), VectorReady s → 16 ≤ sew s.thr → IsVector rd →
    IsOperand ra → IsOperand rb →
    Completes (p.1 rd ra rb m) s fun u => VectorDone [rd.toNat] [] 0 s.thr u ∧
      Elements s.thr u rd (active s.thr m) fun w k =>
        let a := operand s.thr w ra k
        let b := operand s.thr w rb k
        BitVec.ofNat w (a.toNat % 2 ^ (w - 1) + if p.2 a.msb b.msb then 2 ^ (w - 1) else 0)) ∧
  (∀ p ∈ fpUnary, ∀ (rd ra : BitVec 7) (m : BitVec 4) (s : State), VectorReady s → 16 ≤ sew s.thr → IsVector rd → IsOperand ra →
    let g (w k : Nat) := p.2 (vtCtl s.thr.u.vtype) (operand s.thr w ra k).toNat
    Completes (p.1 rd ra m) s fun u =>
      VectorDone [rd.toNat] [] (laneFlags s.thr m fun k => (g (sew s.thr) k).2) s.thr u ∧
      Elements s.thr u rd (active s.thr m) fun w k => BitVec.ofNat w (g w k).1) ∧
  (∀ p ∈ fpConversions, ∀ (rd ra : BitVec 7) (m : BitVec 4) (s : State), VectorReady s → IsVector rd → IsOperand ra →
    let g (w k : Nat) := p.2 w (vtCtl s.thr.u.vtype) (operand s.thr w ra k)
    Completes (p.1 rd ra m) s fun u =>
      VectorDone [rd.toNat] [] (laneFlags s.thr m fun k => (g (sew s.thr) k).2) s.thr u ∧
      Elements s.thr u rd (active s.thr m) fun w k => BitVec.ofNat w (g w k).1)

/-- `vcmp` writes its condition into the bits of md at the active positions; NV for signalling NaNs, and in the ordered FP
relations for any NaN (R160). -/
def Sys2Proof.Claims.ComparisonsWriteMaskBits : Prop :=
  (∀ p ∈ compareWords, ∀ (md : BitVec 4) (ra rb : BitVec 7) (m : BitVec 4) (s : State), VectorReady s → md.toNat < 12 →
    IsOperand ra → IsOperand rb →
    Completes (p.1 md ra rb m) s fun u => VectorDone [] [md.toNat] 0 s.thr u ∧
      Bits s.thr u (md.setWidth 7) (active s.thr m) fun k =>
        p.2 (sew s.thr) (operand s.thr (sew s.thr) ra k) (operand s.thr (sew s.thr) rb k)) ∧
  (∀ p ∈ fpCompareWords, ∀ (md : BitVec 4) (ra rb : BitVec 7) (m : BitVec 4) (s : State), VectorReady s → md.toNat < 12 →
    16 ≤ sew s.thr → IsOperand ra → IsOperand rb →
    let value (f : BitVec 7) (k : Nat) : FpVal := fpIn (vtCtl s.thr.u.vtype) (operand s.thr (sew s.thr) f k).toNat
    let invalid (k : Nat) : Bool := if p.2.1 then value ra k == .nan true || value rb k == .nan true
      else eitherNan (value ra k) (value rb k)
    Completes (p.1 md ra rb m) s fun u =>
      VectorDone [] [md.toNat] (laneFlags s.thr m fun k => if invalid k then 0x01 else 0) s.thr u ∧
      Bits s.thr u (md.setWidth 7) (active s.thr m) fun k => p.2.2 (value ra k) (value rb k))

/-- The mask words (R162, R168): bit by bit from `vstart` to `vl`, between masks and registers, counts into registers; counts
and the first set bit into a queue, and the bits before the first, with `vstart` 0. -/
def Sys2Proof.Claims.MaskWordsFollowTheirTable : Prop :=
  (∀ p ∈ maskWords, ∀ (md ma mb : BitVec 7) (s : State), VectorReady s → IsMask md → IsMask ma → IsMask mb →
    Completes (p.1 md ma mb) s fun u => VectorDone [] [md.toNat] 0 s.thr u ∧
      Bits s.thr u md (active s.thr 0) fun k => p.2 (bit s.thr ma k) (bit s.thr mb k)) ∧
  (∀ (md ma : BitVec 7) (s : State), VectorReady s → IsMask md → IsMask ma →
    (Completes (.mnot md ma) s fun u => VectorDone [] [md.toNat] 0 s.thr u ∧
      Bits s.thr u md (active s.thr 0) fun k => ! bit s.thr ma k) ∧
    (Completes (.mset md) s fun u => VectorDone [] [md.toNat] 0 s.thr u ∧ Bits s.thr u md (active s.thr 0) fun _ => true) ∧
    (Completes (.mclr md) s fun u => VectorDone [] [md.toNat] 0 s.thr u ∧ Bits s.thr u md (active s.thr 0) fun _ => false) ∧
    (s.thr.u.vstart = 0 → Completes (.msbf md ma) s fun u => VectorDone [] [md.toNat] 0 s.thr u ∧
      Bits s.thr u md (fun k => decide (k < vecLen s.thr)) fun k => decide (k < firstOf s.thr ma))) ∧
  (∀ (md va : BitVec 7) (s : State), VectorReady s → IsMask md → IsVector va →
    Completes (.mfromv md va) s fun u => VectorDone [] [md.toNat] 0 s.thr u ∧
      Bits s.thr u md (active s.thr 0) fun k => (elem s.thr (sew s.thr) va k).getLsbD 0) ∧
  (∀ (vd ma : BitVec 7) (s : State), VectorReady s → IsVector vd → IsMask ma →
    (Completes (.mtov vd ma) s fun u => VectorDone [vd.toNat] [] 0 s.thr u ∧
      Elements s.thr u vd (active s.thr 0) fun w k => if bit s.thr ma k then 1#w else 0#w) ∧
    (Completes (.miota vd ma) s fun u => VectorDone [vd.toNat] [] 0 s.thr u ∧
      Elements s.thr u vd (active s.thr 0) fun w k => BitVec.ofNat w ((List.range k).filter (bit s.thr ma)).length)) ∧
  (∀ (q ma : BitVec 7) (s s1 : State), VectorReady s → s.thr.u.vstart = 0 → IsQueue q → IsMask ma →
    (Writes q (BitVec.ofNat 64 (setBits s.thr ma).length) s s1 → Completes (.mpopc q ma) s fun u => VectorDone [] [] 0 s1.thr u) ∧
    (Writes q (match (setBits s.thr ma).head? with | some i => BitVec.ofNat 64 i | none => BitVec.allOnes 64) s s1 →
      Completes (.mfirst q ma) s fun u => VectorDone [] [] 0 s1.thr u))

/-- Comparisons and mask words (R160, R162, R168). -/
def Obligations.MaskResults : Prop :=
  ComparisonsWriteMaskBits ∧ MaskWordsFollowTheirTable

/-- The cross-lane words (R170): every source is read before a write, positions at and above `vl` keep their values, and
`vstart` must be 0, but for `vid` and `vmerge`, which begin at it. -/
def Sys2Proof.Claims.CrossLaneWordsMoveElements : Prop :=
  (∀ (vd va sb : BitVec 7) (n : Word) (s s1 : State), VectorReady s → s.thr.u.vstart = 0 → IsVector vd → IsVector va →
    IsScalar sb → Reads sb s n s1 →
    let a (w i : Nat) : BitVec w := elem s.thr w va i
    let vl := vecLen s.thr
    let done (i : Instr) (at_ : Nat → Bool) (val : (w : Nat) → Nat → BitVec w) : Prop :=
      Completes i s fun u => VectorDone [vd.toNat] [] 0 s1.thr u ∧ Elements s.thr u vd at_ val
    done (.vslideup vd va sb) (fun k => decide (n.toNat ≤ k ∧ k < vl)) (fun w k => a w (k - n.toNat)) ∧
    done (.vslidedn vd va sb) (fun k => decide (k < vl)) (fun w k => if k + n.toNat < vl then a w (k + n.toNat) else 0#w) ∧
    done (.vbfly vd va sb) (fun k => decide (k < vl)) (fun w k => if k ^^^ n.toNat < vl then a w (k ^^^ n.toNat) else a w k) ∧
    done (.vbcast vd va sb) (fun k => decide (k < vl)) (fun w _ => if n.toNat < vl then a w n.toNat else 0#w)) ∧
  (∀ (vd va vb : BitVec 7) (s : State), VectorReady s → s.thr.u.vstart = 0 → IsVector vd → IsVector va → IsVector vb →
    Completes (.vperm vd va vb) s fun u => VectorDone [vd.toNat] [] 0 s.thr u ∧
      Elements s.thr u vd (fun k => decide (k < vecLen s.thr)) fun w k =>
        let x := (elem s.thr w vb k).toNat
        if x < vecLen s.thr then elem s.thr w va x else 0#w) ∧
  (∀ (vd va mb : BitVec 7) (s : State), VectorReady s → s.thr.u.vstart = 0 → IsVector vd → IsVector va → IsMask mb →
    (Completes (.vcompress vd va mb) s fun u => VectorDone [vd.toNat] [] 0 s.thr u ∧
      Elements s.thr u vd (fun k => decide (k < (setBits s.thr mb).length)) fun w k =>
        elem s.thr w va ((setBits s.thr mb).getD k 0)) ∧
    (Completes (.vexpand vd va mb) s fun u => VectorDone [vd.toNat] [] 0 s.thr u ∧
      Elements s.thr u vd (fun k => decide (k < vecLen s.thr) && bit s.thr mb k) fun w k =>
        elem s.thr w va ((List.range k).filter (bit s.thr mb)).length)) ∧
  (∀ (q va sb : BitVec 7) (n : Word) (s s1 s2 : State), VectorReady s → s.thr.u.vstart = 0 → IsQueue q → IsVector va →
    IsScalar sb → Reads sb s n s1 →
    Writes q (if n.toNat < vecLen s.thr then (elem s.thr (sew s.thr) va n.toNat).setWidth 64 else 0) s1 s2 →
    Completes (.vextr q va sb) s fun u => VectorDone [] [] 0 s2.thr u) ∧
  (∀ (vd sa sb : BitVec 7) (x n : Word) (s s1 s2 : State), VectorReady s → s.thr.u.vstart = 0 → IsVector vd → IsScalar sa →
    IsScalar sb → Reads sa s x s1 → Reads sb s1 n s2 →
    Completes (.vinsr vd sa sb) s fun u => VectorDone [vd.toNat] [] 0 s2.thr u ∧
      Elements s.thr u vd (fun k => decide (k = n.toNat ∧ k < vecLen s.thr)) fun w _ => x.setWidth w) ∧
  (∀ (vd : BitVec 7) (s : State), VectorReady s → IsVector vd →
    Completes (.vid vd) s fun u => VectorDone [vd.toNat] [] 0 s.thr u ∧
      Elements s.thr u vd (active s.thr 0) fun w k => BitVec.ofNat w k) ∧
  (∀ (vd va vb : BitVec 7) (k : BitVec 4) (s : State), VectorReady s → IsVector vd → IsVector va → IsVector vb →
    Completes (.vmerge vd va vb k) s fun u => VectorDone [vd.toNat] [] 0 s.thr u ∧
      Elements s.thr u vd (active s.thr 0) fun w i =>
        if bit s.thr (k.setWidth 7) i then elem s.thr w vb i else elem s.thr w va i)

/-- Widening and narrowing (R175, R176): in long mode the wide side is an even register pair, in short mode half a register's
positions; the two sides share no register, else *illegal operand*; a broadcast wide source gives its low 2·SEW bits. -/
def Obligations.WideningAndNarrowing : Prop :=
  (∀ p ∈ widenWords, ∀ (vd va : BitVec 7) (m : BitVec 4) (s : State), VectorReady s → sew s.thr ≤ 32 → IsOperand va →
    WidePair s.thr vd va →
    let g (k : Nat) := p.2 (sew s.thr) (vtCtl s.thr.u.vtype) (operand s.thr (sew s.thr) va k)
    Completes (p.1 vd va m) s fun u =>
      VectorDone (if isLong s.thr then [vd.toNat, vd.toNat + 1] else [vd.toNat]) [] (laneFlags s.thr m fun k => (g k).2) s.thr u ∧
      ∀ k < if isLong s.thr then vlmax s.thr else vlmax s.thr / 2,
        wideElem u (sew s.thr) vd k = if active s.thr m k then BitVec.ofNat _ (g k).1 else wideElem s.thr (sew s.thr) vd k) ∧
  (∀ p ∈ narrowWords, ∀ (vd va : BitVec 7) (m : BitVec 4) (s : State), VectorReady s → sew s.thr ≤ 32 → IsVector vd →
    (64 ≤ va.toNat ∨ WidePair s.thr va vd) →
    let x (k : Nat) : BitVec (2 * sew s.thr) := if va.toNat < 48 then wideElem s.thr (sew s.thr) va k
      else (scalar s.thr (BitVec.ofNat 7 (va.toNat - 64))).setWidth (2 * sew s.thr)
    let g (k : Nat) := p.2 (sew s.thr) (vtCtl s.thr.u.vtype) (x k)
    Completes (p.1 vd va m) s fun u => VectorDone [vd.toNat] [] (laneFlags s.thr m fun k => (g k).2) s.thr u ∧
      ∀ k < vlmax s.thr, elem u (sew s.thr) vd k =
        if active s.thr m k then BitVec.ofNat _ (g k).1 else elem s.thr (sew s.thr) vd k) ∧
  (∀ i : Instr, ∀ (vd va : BitVec 7) (m : BitVec 4) (s : State), s.thr.host = false → IsVector vd → IsOperand va →
    ((∃ p ∈ widenWords, i = p.1 vd va m) ∧ (32 < sew s.thr ∨ ¬ WidePair s.thr vd va) ∨
      (∃ p ∈ narrowWords, i = p.1 vd va m) ∧ (32 < sew s.thr ∨ va.toNat < 48 ∧ ¬ WidePair s.thr va vd)) →
    exec i s = .next (takeTrap false 0x02 (failing i) s))

/-- Reductions fold the active elements from their identity, FP sums over the fixed tree of R179; scans write one running
result per active position (R177 to R180). -/
def Obligations.ReductionsAndScansFold : Prop :=
  (∀ p ∈ reduceWords, ∀ (rd va : BitVec 7) (m : BitVec 4) (s : State), VectorReady s → s.thr.u.vstart = 0 → IsOperand va →
    let r (w : Nat) : BitVec w := (actives s.thr m).foldl (fun r k => p.2.1 w r (operand s.thr w va k)) (p.2.2.1 w)
    Reduced (p.1 rd va m) rd s r (if p.2.2.2 then (r (sew s.thr)).signExtend 64 else (r (sew s.thr)).setWidth 64) 0) ∧
  (∀ (rd va : BitVec 7) (m : BitVec 4) (s : State), VectorReady s → s.thr.u.vstart = 0 → IsOperand va → 16 ≤ sew s.thr →
    let c := vtCtl s.thr.u.vtype
    let x (k : Nat) : Nat := (operand s.thr (sew s.thr) va k).toNat
    (∀ h, IsHeight (vecLen s.thr) h →
      let r := treeNode c (fun j => if active s.thr m j then x j else c.f.signBit) h 0
      Reduced (.vfrsum rd va m) rd s (fun w => BitVec.ofNat w r.1) (BitVec.ofNat 64 r.1) r.2) ∧
    (∀ mx : Bool,
      let r := fpFold (fpMinMax c mx) c.f.nan ((actives s.thr m).map x)
      let v := if actives s.thr m = [] then fpInf c.f mx else r.1
      Reduced (if mx then .vfrmax rd va m else .vfrmin rd va m) rd s (fun w => BitVec.ofNat w v) (BitVec.ofNat 64 v) r.2)) ∧
  (∀ (vd va : BitVec 7) (m : BitVec 4) (s : State), VectorReady s → s.thr.u.vstart = 0 → IsVector vd → IsOperand va →
    let before (k : Nat) : List Nat := (actives s.thr m).filter fun j => decide (j < k)
    let sum (w k : Nat) : BitVec w := (before k).foldl (fun r j => r + operand s.thr w va j) 0
    (Completes (.vscanx vd va m) s fun u => VectorDone [vd.toNat] [] 0 s.thr u ∧
      Elements s.thr u vd (active s.thr m) fun w k => sum w k) ∧
    (Completes (.vscan vd va m) s fun u => VectorDone [vd.toNat] [] 0 s.thr u ∧
      Elements s.thr u vd (active s.thr m) fun w k => sum w (k + 1)) ∧
    (16 ≤ sew s.thr →
      let c := vtCtl s.thr.u.vtype
      let run (js : List Nat) := fpFold (fpAdd c) c.f.signBit (js.map fun j => (operand s.thr (sew s.thr) va j).toNat)
      Completes (.vfscan vd va m) s fun u => VectorDone [vd.toNat] [] (run (actives s.thr m)).2 s.thr u ∧
        Elements s.thr u vd (active s.thr m) fun w k => BitVec.ofNat w (run (before (k + 1))).1))

/-- The random words (R67, R182): a function of the key in ra, the counter in rb and the position, and for `vrandm` of
`rthr`; no flag, no mask. -/
def Sys2Proof.Claims.RandomWordsAreTheHash : Prop :=
  ∀ (rd ra rb : BitVec 7) (x y : Word) (s s1 s2 : State), VectorReady s → IsScalar ra → IsScalar rb → Reads ra s x s1 →
    Reads rb s1 y s2 →
    let k : BitVec 32 := x.setWidth 32
    let c (i : Nat) : BitVec 32 := y.setWidth 32 + BitVec.ofNat 32 i
    let h (i : Nat) : Nat := (hashH k (c i)).toNat
    let wide (i : Nat) : Nat := (hashH (~~~k) (c i)).toNat * 2 ^ 32 + h i
    (IsVector rd → Completes (.vrand rd ra rb) s fun u => VectorDone [rd.toNat] [] 0 s2.thr u ∧
      Elements s.thr u rd (active s.thr 0) fun w i => BitVec.ofNat w (if w = 64 then wide i else h i / 2 ^ (32 - w))) ∧
    (IsVector rd → 16 ≤ sew s.thr → Completes (.vrandf rd ra rb) s fun u => VectorDone [rd.toNat] [] 0 s2.thr u ∧
      Elements s.thr u rd (active s.thr 0) fun w i => BitVec.ofNat w (
        if w = 64 then exactPattern fp64 (wide i / 2 ^ 11) 53 else if w = 32 then exactPattern fp32 (h i / 2 ^ 8) 24
        else if vtFpsel s.thr.u.vtype = 1 then exactPattern bf16 (h i / 2 ^ 24) 8 else exactPattern fp16 (h i / 2 ^ 21) 11)) ∧
    (IsMask rd → Completes (.vrandm rd ra rb) s fun u => VectorDone [] [rd.toNat] 0 s2.thr u ∧
      Bits s.thr u rd (active s.thr 0) fun i => decide (h i < s.thr.u.rthr.toNat))

/-- Words that move elements, and the random words (R67, R170, R182). -/
def Obligations.MovingAndRandomWords : Prop :=
  CrossLaneWordsMoveElements ∧ RandomWordsAreTheHash

/-- RoundFP of a nonzero value rounds it as R65 writes it, for each format, rounding mode and FLUSH. -/
def Sys2Proof.Claims.RoundingIsNearestOnItsGrid : Prop :=
  ∀ f ∈ [fp64, fp32, fp16, bf16, fpE4M3, fpE5M2], ∀ (rm flush : Nat) (neg : Bool) (m : Nat) (e : ℤ), rm < 5 → flush < 3 → m ≠ 0 →
    Rounded f rm flush (realOf (.num neg m e)) (roundFp f rm flush (.num neg m e))

/-- FP arithmetic on finite operands (R155, R156, R173, R174): the exact real result is formed and rounded once, under the captured
RM and FLUSH; FLUSH 2 reads a subnormal operand as zero of its sign. Conversions to integers saturate with NV. -/
def Sys2Proof.Claims.FloatArithmeticRoundsOnce : Prop :=
  ∀ f ∈ [fp64, fp32, fp16, bf16], ∀ (rm flush a b d : Nat), rm < 5 → flush < 3 → a < 2 ^ f.width → b < 2 ^ f.width →
    d < 2 ^ f.width →
    let c : FpCtl := ⟨f, rm, flush⟩
    let real (p : Nat) : ℝ := realOf (fpIn c p)
    (∀ n, IsNum n (fpVal f a) → IsNum n (fpIn c a) ∧
      (flush = 2 → |realOf (fpVal f a)| < smallest f → real a = 0) ∧
      (flush ≠ 2 ∨ smallest f ≤ |realOf (fpVal f a)| → real a = realOf (fpVal f a))) ∧
    (∀ n n' n'', IsNum n (fpVal f a) → IsNum n' (fpVal f b) → IsNum n'' (fpVal f d) →
      RoundsTo f rm flush (real a + real b) (zeroSumNeg rm n (real a) n' (real b)) (fpAdd c a b) ∧
      RoundsTo f rm flush (real a - real b) (zeroSumNeg rm n (real a) (! n') (real b)) (fpSub c a b) ∧
      RoundsTo f rm flush (real a * real b) (n != n') (fpMul c a b) ∧
      (real b ≠ 0 → RoundsTo f rm flush (real a / real b) (n != n') (fpDiv c a b)) ∧
      (∀ negProd negAdd : Bool,
        let p : ℝ := (if negProd then -1 else 1) * (real a * real b)
        let z : ℝ := (if negAdd then -1 else 1) * real d
        RoundsTo f rm flush (p + z) (zeroSumNeg rm (negProd != (n != n')) p (negAdd != n'') z) (fpFma c negProd negAdd a b d)) ∧
      (n = false ∨ real a = 0 → RoundsTo f rm flush (Real.sqrt (real a)) n (fpSqrt c a)) ∧
      (n = true → real a ≠ 0 → fpSqrt c a = (f.nan, 0x01)) ∧
      (∀ k, Nearest rm n |real a| k →
        (IsNum n (fpVal f (fpRint c a).1) ∧ |realOf (fpVal f (fpRint c a).1)| = k ∧
          (fpRint c a).2 = if (k : ℝ) = |real a| then 0 else 0x10) ∧
        (∀ (w : Nat) (signed : Bool), 0 < w →
          let z : ℤ := if n then -(k : ℤ) else k
          let lo : ℤ := if signed then -2 ^ (w - 1) else 0
          let hi : ℤ := if signed then 2 ^ (w - 1) - 1 else 2 ^ w - 1
          fpToInt c signed w a = if z < lo then (lo, 0x01) else if hi < z then (hi, 0x01)
            else (z, if (k : ℝ) = |real a| then 0 else 0x10)))) ∧
    (∀ v : ℤ, RoundsTo f rm flush v false (fpOfInt c v))

/-- RoundFP returns a representable value as it is, whatever the mode, with no flag, where subnormal results are kept (R65,
R74): every pattern of every format but a NaN. -/
def Sys2Proof.Claims.RoundingKeepsRepresentableValues : Prop :=
  ∀ f ∈ [fp64, fp32, fp16, bf16, fpE4M3, fpE5M2], ∀ (rm bits : Nat), bits < 2 ^ f.width → isNan (fpVal f bits) = false →
    roundFp f rm 0 (fpVal f bits) = (bits, 0)

/-- The special cases of R155 and R156: a NaN operand gives the canonical NaN, NV for a signalling one; ∞ − ∞, 0 · ∞, 0/0, ∞/∞
are NV; a finite nonzero value over zero is an infinity with DZ; x − x is +0, −0 when rounding down. -/
def Sys2Proof.Claims.FloatSpecialCases : Prop :=
  ∀ f ∈ [fp64, fp32, fp16, bf16], ∀ (rm flush a b : Nat), a < 2 ^ f.width → b < 2 ^ f.width →
    let c : FpCtl := ⟨f, rm, flush⟩
    let x := fpIn c a
    let y := fpIn c b
    (eitherNan x y = true → ∀ op ∈ [fpAdd, fpSub, fpMul, fpDiv],
      op c a b = (f.nan, if x == .nan true || y == .nan true then 0x01 else 0)) ∧
    (∀ n, x = .inf n → y = .inf n → fpSub c a b = (f.nan, 0x01) ∧ fpDiv c a b = (f.nan, 0x01) ∧ fpAdd c a b = (a, 0)) ∧
    (∀ n n' e, x = .inf n → y = .num n' 0 e → fpMul c a b = (f.nan, 0x01) ∧ fpDiv c a b = (fpInf f (n != n'), 0)) ∧
    (∀ n e n' e', x = .num n 0 e → y = .num n' 0 e' → fpDiv c a b = (f.nan, 0x01)) ∧
    (∀ n m e n' e', x = .num n m e → m ≠ 0 → y = .num n' 0 e' → fpDiv c a b = (fpInf f (n != n'), 0x04)) ∧
    (∀ n m e, x = .num n m e → m ≠ 0 → fpSub c a a = (if rm = 2 then f.signBit else 0, 0)) ∧
    (∀ s, x = .nan s → fpSqrt c a = (f.nan, if s then 0x01 else 0)) ∧
    (∀ n, x = .inf n → fpSqrt c a = (if n then f.nan else f.infBits, if n then 0x01 else 0))

/-- RoundFP, float arithmetic on finite operands, and its special cases (R65, R74, R155, R156, R173, R174). -/
def Obligations.RoundingAndSpecialCases : Prop :=
  RoundingIsNearestOnItsGrid ∧ FloatArithmeticRoundsOnce ∧ RoundingKeepsRepresentableValues ∧ FloatSpecialCases

/-- While the turn holds the stream back, a vector word stands in the vector queue with all it captured (R101, R134, R207, R212,
R215, R282, R374): its place, `vl`, `vtype`, mode, `vstart`, the scalars that its fields name, the nest offset, the shape
register, `nbctr`, `rthr` and the privilege; the scalar side has gone on, and memory, registers, masks and queues are as before,
its destinations not landed (R144). -/
def Obligations.VectorWordsEnterTheQueue : Prop :=
  ∀ (i : Instr) (s : State) (v : VSpec) (f : VFields), s.thr.host = false → s.thr.v.vq = [] → s.turn.defer = true →
    vword i = some (v, f) → v.fieldsOk s.thr f = true → ((∀ e : VEntry, e.ins = i → entryRanges e = []) ∨ aritUsed s < 64) →
    ∃ (n : Nat) (e : VEntry), e = newEntry s.thr i none [(capturedBy s.thr v.ka f.a, capturedBy s.thr v.kb f.b)] n ∧ n ≤ 2 ∧
      e.ins = i ∧ e.pc = wordAddress s.thr ∧ e.age = s.thr.issued ∧ e.vl = vecLen s.thr ∧
      e.vtype = s.thr.u.vtype ∧ e.vstart = s.thr.u.vstart.toNat ∧ e.long = isLong s.thr ∧ e.rthr = s.thr.u.rthr ∧ e.rep = none ∧
      e.caps = [(capturedBy s.thr v.ka f.a, capturedBy s.thr v.kb f.b)] ∧ e.nbctr = s.thr.u.nbctr ∧ e.kernel = s.thr.k.km ∧
      (s.thr.loop = none → e.nest = 0) ∧ (isTensor i = false → e.nest = ownNest s.thr) ∧
      (∀ (rd rs : BitVec 7) (tn m : BitVec 4), i ∈ [.tld rd tn rs m, .tst rd tn rs m, .tldNb rd tn rs m, .tstNb rd tn rs m] →
        shapeBase e.shape = shapeBase (vget s.thr.shp tn.toNat 0) + ownNest s.thr ∧
        e.shape.extractLsb' 64 448 = (vget s.thr.shp tn.toNat 0).extractLsb' 64 448) ∧
      exec i s = .next (withThr s (withVq [e] (issue (destRegs i v f (isLong s.thr)) s.thr)))

/-! ## Vector memory, prefixes, vector control -/

namespace Sys2Proof.Claims

/-- An operation performed for positions in order: each succeeds on the thread's own die, sending nothing, and gives the value
told. -/
def Runs {α : Type} (f : Nat → Op α) : List Nat → State → (Nat → α) → State → Prop
  | [], s, _, s' => s' = s
  | i :: is, s, val, s' => ∃ s1, f i s = .ok (val i) s1 ∧ s1.packets = s.packets ∧ Runs f is s1 val s'

/-- A vector memory word runs at once: it is ready, nothing older of the thread is outstanding, and no reply of an earlier request and
no page of an earlier attempt waits for it. -/
def MemoryReady (s : State) : Prop :=
  VectorReady s ∧ NothingOlder s ∧ s.thr.place.span < 192 ∧ s.thr.acting = none ∧ s.thr.replies = [] ∧ s.thr.pages = []

/-- The accesses of 64 bytes at these addresses pass their checks as stores, in order. -/
def Passes (km : Bool) : List Word → State → State → Prop
  | [], s, s' => s' = s
  | va :: vas, s, s' => ∃ r s1, access .store km 64 va s = .ok r s1 ∧ Passes km vas s1 s'

/-- Units of a view are written one after the other, on the thread's own die, each a sector or a bit-plane group, with the flags of
all (R220). -/
def WritesUnits (km : Bool) (t : ShapeReg) (rm flush : Nat) (val : Nat → FpVal) :
    List UnitId → State → BitVec 5 → State → Prop
  | [], s, fl, s' => fl = 0 ∧ s' = s
  | u :: us, s, fl, s' => ∃ s1 f1 f2,
      (match u with | .sector va => writeUnit km t rm flush va val s | .group g => writeGroup km t g val s) = .ok f1 s1 ∧
      s1.packets = s.packets ∧ WritesUnits km t rm flush val us s1 f2 s' ∧ fl = f1 ||| f2

/-- The trap of element k of a vector memory word, s' being the state that the elements below k left (R103, R150, R198, R199): the word
has left the scalar side, stands alone in the queue, and is to resume at k; operands from q4 and q5 are still there (R105). -/
def ElementTraps (i : Instr) (k : Nat) (c : BitVec 8) (v : Word) (s s' : State) (regs : Thread → Prop) : Prop :=
  ∃ (w : State) (e : VEntry), exec i s = .next (takeTrap true c v w) ∧ w.thr.v.vq = [e] ∧ e.ins = i ∧ e.start = k ∧
    e.pc = wordAddress s.thr ∧ w.thr.pc = (retire s.thr).pc ∧
    w.thr.u = { (retire s.thr).u with vstart := BitVec.ofNat 11 k } ∧ w.thr.sc = s.thr.sc ∧ w.thr.k = s.thr.k ∧
    SameMemory s' w ∧ w.others = s.others ∧ regs w.thr

/-- The address of position i: strided, or indexed; a loop's nest moves both (R207, R208, R282). -/
def stridedAt (t : Thread) (rb : BitVec 7) (a st : Word) (i : Nat) : Word :=
  a + ownNest t + BitVec.ofNat 64 i * (if rb = 0 then BitVec.ofNat 64 (sew t / 8) else st)
def indexedAt (t : Thread) (rb : BitVec 7) (a : Word) (i : Nat) : Word := a + ownNest t + (elem t (sew t) rb i).setWidth 64

/-- The word has performed its accesses, which left s', and its thread is as told; a non-blocking form with a counter, here in
the Span's own scratchpad, then adds 1 to it (R211, R212). -/
def MemoryDone (nb : Bool) (i : Instr) (s s' : State) (post : Thread → Prop) : Prop :=
  (nb = false ∨ s.thr.u.nbctr = 0 → ∃ u, exec i s = .next (withThr s' u) ∧ post u) ∧
  (∀ off < 2 ^ 20, nb = true → s.thr.u.nbctr = BitVec.ofNat 64 (0x7FF00000000000 + off) → off % 8 = 0 →
    off + 8 ≤ padLimit (mySpan s) → s.turn.residue = 0 →
    let a := fpaOf (myPeer s) s.thr.place.span 0 off
    memoryBad s' .atomic a 8 = false →
    ∃ t u, exec i s = .next (withThr t u) ∧ post u ∧ Stored 0 a 8 ((memRead s' 0 a 8 + 1) % 2 ^ 64) s' t)

abbrev VectorForm : Type := BitVec 7 → BitVec 7 → BitVec 7 → BitVec 4 → Instr
abbrev TensorForm : Type := BitVec 7 → BitVec 4 → BitVec 7 → BitVec 4 → Instr

/-- The atomics of the vector stream: bytes, new value, flags (R205, R213). -/
def vectorAtomics : List (AtomicOp × Nat × (Word → Nat → Nat) × (Word → Nat → BitVec 5)) :=
  let sum (f : Fmt) (n : Nat) : Nat × (Word → Nat → Nat) × (Word → Nat → BitVec 5) :=
    (16, fun v old => (sumAdd (BitVec.ofNat 128 old) (fpVal f (v.toNat % 2 ^ n))).1.toNat,
      fun v old => (sumAdd (BitVec.ofNat 128 old) (fpVal f (v.toNat % 2 ^ n))).2)
  [ (.addw, 4, fun v old => (old + v.toNat) % 2 ^ 32, fun _ _ => 0), (.add, 8, fun v old => (old + v.toNat) % 2 ^ 64, fun _ _ => 0),
    (.fadd, sum fp64 64), (.fadds, sum fp32 32) ]

/-- The flags of an element that a tensor load reads, beside those of its rounding (R75, R82, R219). -/
def tensorInvalid (f : BitVec 8) : ViewRead → BitVec 5
  | .value v bad => if bad || (fmtFp16 f && v == .nan true) then 0x01 else 0
  | .refused _ => 0

/-- The value that a tensor load rounds: a subnormal 16-bit element is zero under FLUSH 2 (R219). -/
def tensorValue (flush : Nat) (f : BitVec 8) : ViewRead → FpVal
  | .value v _ => if fmtFp16 f then flushHalf flush (fmtFloat f) v else v
  | .refused _ => .num false 0 0

/-- The dither of an element at outer coordinate o and inner coordinate i (R67, R87). -/
noncomputable def ditherOf (t : ShapeReg) (o i : Nat) : ℝ :=
  let key : BitVec 32 := (shapeSeed t).setWidth 32
  let term (c : BitVec 32) : ℤ := ((hashH key c).extractLsb' 23 9).toInt
  let coordinate (n : Nat) (org : BitVec 16) : BitVec 32 := (BitVec.ofNat 16 (n + org.toNat)).setWidth 32
  ((term (0x80000000#32 ||| coordinate o (shapeOrgO t)) + term (coordinate i (shapeOrgI t)) : ℤ) : ℝ) / 512

/-- The formats that a store quantises into, of bit-plane ones those of all eight planes (R84). -/
def quantFormats : List (BitVec 8) := [0x01, 0x81, 0x02, 0x03, 0x28, 0xA8]

/-- A group of values, each with 512 times its dither, becomes a scale byte, codes and flags (R88 to R90). -/
def Quantised (f : BitVec 8) (vs : List (FpVal × Int)) (r : BitVec 8 × List (BitVec 8) × BitVec 5) : Prop :=
  let fp8 : Prop := f = 0x02 ∨ f = 0x03
  let g : Fmt := if f = 0x02 then fpE4M3 else fpE5M2
  let top : ℝ := if f = 0x02 then 448 else if f = 0x03 then 57344 else 126
  r.2.1.length = vs.length ∧
  ((∀ v ∈ vs, ∃ n e, v.1 = .num n 0 e) → r.1 = 0 ∧ (∀ c ∈ r.2.1, c = 0) ∧ r.2.2 = 0) ∧
  ((∃ v ∈ vs, ∀ n, ¬ IsNum n v.1) → r.1 = 255 ∧ (∀ c ∈ r.2.1, c = 0) ∧ r.2.2 = 0x01) ∧
  (∀ (m : ℝ) (k : ℤ), (∀ v ∈ vs, ∃ n, IsNum n v.1) → (∃ v ∈ vs, |realOf v.1| = m) → (∀ v ∈ vs, |realOf v.1| ≤ m) → 0 < m →
    (2 : ℝ) ^ (k - 1) < m / top → m / top ≤ 2 ^ k →
    let want : ℤ := k + 127
    let e : ℤ := max 1 (min want 254)
    let s : ℝ := 2 ^ (e - 127)
    let lost : Prop := ∃ p ∈ vs.zip r.2.1, realOf p.1.1 ≠ 0 ∧
      if f.getLsbD 7 then |realOf p.1.1| < s / 2 else p.2 = 0 ∨ fp8 ∧ p.2 = 0x80
    r.1 = BitVec.ofInt 8 e ∧
    (∀ p ∈ vs.zip r.2.1, ∀ neg, IsNum neg p.1.1 →
      (fp8 → ∃ x, RoundsTo g 0 0 (realOf p.1.1 / s) neg x ∧
        p.2 = BitVec.ofNat 8 (if x.2 &&& 0x02 ≠ 0 then g.maxBits + (if neg then g.signBit else 0) else x.1)) ∧
      (¬ fp8 → ∀ n, let y : ℝ := realOf p.1.1 / s + p.1.2 / 512
        Nearest 0 false |y| n → (0 ≤ y → p.2.toInt = min (n : ℤ) 127) ∧ (y ≤ 0 → p.2.toInt = max (-128) (-(n : ℤ))))) ∧
    (254 < want → r.2.2 = 0x02) ∧ (want < 1 → (lost → r.2.2 = 0x08) ∧ (¬ lost → r.2.2 = 0)) ∧
    (1 ≤ want → want ≤ 254 → r.2.2 = 0))

/-- The number of a nest's iteration: its indices, dimension 0 fastest (R281). -/
def nestNumber (t : ShapeReg) (li : Vector (BitVec 16) 6) : Nat :=
  (vget li 0 0).toNat + shapeExt t 0 * ((vget li 1 0).toNat + shapeExt t 1 * ((vget li 2 0).toNat + shapeExt t 2 *
    ((vget li 3 0).toNat + shapeExt t 3 * ((vget li 4 0).toNat + shapeExt t 4 * (vget li 5 0).toNat))))

/-- The thread in short mode, or with its lane groups and a context (R131). -/
def inShortMode (t : Thread) : Thread :=
  { t with
    u := { t.u with vl := BitVec.ofNat 11 (min t.u.vl.toNat (256 / sew t)) }
    v := { t.v with long := none, lg := 0 } }
def inLongMode (g : Nat) (t : Thread) : Thread :=
  { t with
    u := { t.u with vl := BitVec.ofNat 11 (min t.u.vl.toNat (8192 / sew t)) }
    v := { t.v with lg := g, long := some (t.v.long.getD freshContext) } }

end Sys2Proof.Claims

/-- An element access of the vector stream (R188, R198, R208, R213): a load gives the bytes at its location, a store leaves
exactly its bytes changed, an atomic stores the new value and gives its flags; a failed check performs nothing. An element whose
home is on another die is asked for, or leaves as a request, and its data goes to its place in the register (R307, R312). The thread
keeps but the pages that were translated (R197). -/
def Sys2Proof.Claims.ElementAccessesActOnMemory : Prop :=
  ∀ (km : Bool) (n : Nat) (va : Word) (s : State), 0 < n →
    let far (r : Ref) : Prop := s.thr.host = true ∨ fpaPeer r.fpa ≠ s.thr.place.peer
    let quiet : Prop := ∀ p ∈ s.packets, ownPacket s.thr p = false
    let same (t : State) : Prop := t.thr = { s.thr with pages := t.thr.pages, acting := t.thr.acting }
    (∀ (r : Ref) (s1 : State), access .load km n va s = .ok r s1 → r.win = false → Here r s1 → Reaches .load r n s1 →
      loadElement km n va s = .ok (memRead s1 r.key r.fpa n) s1 ∧ SameMemory s s1 ∧ same s1) ∧
    (∀ (r : Ref) (s1 : State) (v : Nat), access .store km n va s = .ok r s1 → quiet → Here r s1 → Reaches .store r n s1 →
      ∃ t, storeElement km n va v s = .ok () t ∧ same t ∧ Stored r.key r.fpa n (v % 2 ^ (8 * n)) s t) ∧
    (∀ p ∈ vectorAtomics, ∀ (r : Ref) (s1 : State) (v : Word), access .atomic km p.2.1 va s = .ok r s1 → Here r s1 →
      Reaches .atomic r p.2.1 s1 → NotHeld r.fpa p.2.1 s1 → s.turn.residue = 0 →
      let old := memRead s r.key r.fpa p.2.1
      ∃ t, atomicElement km va p.1 v s = .ok (p.2.2.2 v old) t ∧ same t ∧ Stored r.key r.fpa p.2.1 (p.2.2.1 v old) s t) ∧
    (∀ (r : Ref) (s1 : State), access .load km n va s = .ok r s1 → r.win = false → far r →
      (quiet → (actingOf s.thr).replies = [] → (∃ u, loadElement km n va s = .error (.request ⟨r, n, .load n⟩) u) ∧
        ∀ (c : LaneCtx) (i : Nat), c.e.kernel = km → ∃ t q, loadInto c i n va s = .ok ([], 0) t ∧ SameMemory s t ∧
          t.packets = s.packets ++ [q] ∧ q.loc = ⟨r.fpa, r.key⟩ ∧ q.cargo = .load n ∧
          q.dest = some ⟨c.f.d, i, c.w, c.e.long⟩) ∧
      ∀ x, (actingOf s.thr).replies = [x] → x.loc = r.fpa → x.code = false →
        ∃ t, loadElement km n va s = .ok x.val t ∧ SameMemory s t) ∧
    (∀ (r : Ref) (s1 : State) (v : Nat), access .store km n va s = .ok r s1 → far r → quiet →
      ∃ t q, storeElement km n va v s = .ok () t ∧ SameMemory s t ∧ t.packets = s.packets ++ [q] ∧ q.loc = ⟨r.fpa, r.key⟩ ∧
        q.cargo = .store n v) ∧
    (∀ p ∈ vectorAtomics, ∀ (r : Ref) (s1 : State) (v : Word), access .atomic km p.2.1 va s = .ok r s1 → far r →
      ∃ t q, atomicElement km va p.1 v s = .ok 0 t ∧ SameMemory s t ∧ t.packets = s.packets ++ [q] ∧ q.loc = ⟨r.fpa, r.key⟩ ∧
        q.cargo = .atomic p.1 v) ∧
    (∀ (e : Stop) (u : State), access .load km n va s = .error e u → loadElement km n va s = .error e u) ∧
    (∀ (e : Stop) (u : State) (v : Nat), access .store km n va s = .error e u → storeElement km n va v s = .error e u)

/-- Vector loads, stores and atomics whose elements' homes are on their own die perform one access for each active element, in order, at the addresses of R208 and R213;
a load writes what it read, a store and an atomic write no register; `vafadd` ORs in the flags of its adds. -/
def Sys2Proof.Claims.VectorMemoryWordsPerformTheirElements : Prop :=
  (∀ p ∈ [(Instr.vld, false), (.vldNb, true)], ∀ (rd ra rb : BitVec 7) (m : BitVec 4) (s s1 s2 s' : State) (a st : Word)
    (val : Nat → Nat), MemoryReady s → IsVector rd → IsScalar ra → IsScalar rb → Reads ra s a s1 → Reads rb s1 st s2 →
    Runs (fun i => loadElement s.thr.k.km (sew s.thr / 8) (stridedAt s.thr rb a st i)) (actives s.thr m) s val s' →
    MemoryDone p.2 (p.1 rd ra rb m) s s' fun u => VectorDone [rd.toNat] [] 0 s2.thr u ∧
      Elements s.thr u rd (active s.thr m) fun w k => BitVec.ofNat w (val k)) ∧
  (∀ p ∈ [(Instr.vldx, false), (.vldxNb, true)], ∀ (rd ra rb : BitVec 7) (m : BitVec 4) (s s1 s' : State) (a : Word)
    (val : Nat → Nat), MemoryReady s → IsVector rd → IsScalar ra → IsVector rb → Reads ra s a s1 →
    Runs (fun i => loadElement s.thr.k.km (sew s.thr / 8) (indexedAt s.thr rb a i)) (actives s.thr m) s val s' →
    MemoryDone p.2 (p.1 rd ra rb m) s s' fun u => VectorDone [rd.toNat] [] 0 s1.thr u ∧
      Elements s.thr u rd (active s.thr m) fun w k => BitVec.ofNat w (val k)) ∧
  (∀ p ∈ [(Instr.vst, false), (.vstNb, true)], ∀ (rd ra rb : BitVec 7) (m : BitVec 4) (s s1 s2 s' : State) (a st : Word),
    MemoryReady s → IsVector rd → IsScalar ra → IsScalar rb → Reads ra s a s1 → Reads rb s1 st s2 →
    Runs (fun i => storeElement s.thr.k.km (sew s.thr / 8) (stridedAt s.thr rb a st i) (elem s.thr (sew s.thr) rd i).toNat)
      (actives s.thr m) s (fun _ => ()) s' →
    MemoryDone p.2 (p.1 rd ra rb m) s s' fun u => VectorDone [] [] 0 s2.thr u) ∧
  (∀ p ∈ [(Instr.vstx, false), (.vstxNb, true)], ∀ (rd ra rb : BitVec 7) (m : BitVec 4) (s s1 s' : State) (a : Word),
    MemoryReady s → IsVector rd → IsScalar ra → IsVector rb → Reads ra s a s1 →
    Runs (fun i => storeElement s.thr.k.km (sew s.thr / 8) (indexedAt s.thr rb a i) (elem s.thr (sew s.thr) rd i).toNat)
      (actives s.thr m) s (fun _ => ()) s' →
    MemoryDone p.2 (p.1 rd ra rb m) s s' fun u => VectorDone [] [] 0 s1.thr u) ∧
  (∀ (rd ra rb : BitVec 7) (m : BitVec 4) (s s0 s1 s' : State) (a : Word) (fl : Nat → BitVec 5), MemoryReady s →
    32 ≤ sew s.thr → IsVector rd → IsScalar ra → IsVector rb → Reads ra s a s1 →
    firstRefused s.thr.k.km (sew s.thr / 8) (indexedAt s.thr rb a) (actives s.thr m) s = .ok none s0 →
    Runs (fun i => atomicElement s.thr.k.km (indexedAt s.thr rb a i) (if sew s.thr = 32 then .addw else .add)
      ((elem s.thr (sew s.thr) rd i).setWidth 64)) (actives s.thr m) s0 fl s' →
    MemoryDone true (.vaadd rd ra rb m) s s' fun u => VectorDone [] [] 0 s1.thr u) ∧
  (∀ (rd ra rb : BitVec 7) (m : BitVec 4) (s s0 s1 s' : State) (a : Word) (fl : Nat → BitVec 5), MemoryReady s →
    32 ≤ sew s.thr → IsVector rd → IsScalar ra → IsVector rb → Reads ra s a s1 →
    let f := if sew s.thr = 64 then fp64 else fp32
    let at_ (i : Nat) : Word := a + ownNest s.thr + (elem s.thr (sew s.thr) rb i).setWidth 64 * 16
    firstRefused s.thr.k.km 16 at_ (actives s.thr m) s = .ok none s0 →
    Runs (fun i => atomicElement s.thr.k.km (at_ i) (if sew s.thr = 64 then .fadd else .fadds)
      (BitVec.ofNat 64 (flushIn f (vtFlush s.thr.u.vtype) (elem s.thr (sew s.thr) rd i).toNat))) (actives s.thr m) s0 fl s' →
    MemoryDone true (.vafadd rd ra rb m) s s' fun u => VectorDone [] [] (laneFlags s.thr m fl) s1.thr u)

/-- A vector memory word in user mode whose element k is refused (R103, R150, R198, R199): the elements below it have performed, a
load's are written, none above has, and the stream's trap reports the element's trap, with `vstart` = k. A vector atomic checks every
element before any performs; `firstRefused` gives the first that is refused. -/
def Sys2Proof.Claims.RefusedElementsTrap : Prop :=
  ∀ (rd ra rb : BitVec 7) (m : BitVec 4) (s s1 s2 s' u : State) (a st : Word) (val : Nat → Nat) (k : Nat) (c : BitVec 8) (v : Word),
    MemoryReady s → s.thr.k.km = false → s.thr.saving = none → IsVector rd → IsScalar ra → Reads ra s a s1 → k ∈ actives s.thr m →
    let below := (actives s.thr m).filter (· < k)
    let n := sew s.thr / 8
    let loaded (t : Thread) : Prop := ∀ i < vlmax s.thr, i < k ∨ active s.thr m i = false →
      elem t (sew s.thr) rd i = if active s.thr m i then BitVec.ofNat (sew s.thr) (val i) else elem s.thr (sew s.thr) rd i
    let kept (t : Thread) : Prop := ∀ r, vreg t (isLong s.thr) r = vreg s.thr (isLong s.thr) r
    (IsScalar rb → Reads rb s1 st s2 →
      (Runs (fun i => loadElement false n (stridedAt s.thr rb a st i)) below s val s' →
        access .load false n (stridedAt s.thr rb a st k) s' = .error (.trap c v) u →
        ElementTraps (.vld rd ra rb m) k c v s s' loaded) ∧
      (Runs (fun i => storeElement false n (stridedAt s.thr rb a st i) (elem s.thr (sew s.thr) rd i).toNat) below s
          (fun _ => ()) s' →
        access .store false n (stridedAt s.thr rb a st k) s' = .error (.trap c v) u →
        ElementTraps (.vst rd ra rb m) k c v s s' kept)) ∧
    (IsVector rb →
      (Runs (fun i => loadElement false n (indexedAt s.thr rb a i)) below s val s' →
        access .load false n (indexedAt s.thr rb a k) s' = .error (.trap c v) u →
        ElementTraps (.vldx rd ra rb m) k c v s s' loaded) ∧
      (Runs (fun i => storeElement false n (indexedAt s.thr rb a i) (elem s.thr (sew s.thr) rd i).toNat) below s
          (fun _ => ()) s' →
        access .store false n (indexedAt s.thr rb a k) s' = .error (.trap c v) u →
        ElementTraps (.vstx rd ra rb m) k c v s s' kept) ∧
      (∀ (s0 : State) (fl : Nat → BitVec 5), 32 ≤ sew s.thr → s.thr.u.nbctr = 0 →
        firstRefused false n (indexedAt s.thr rb a) (actives s.thr m) s = .ok (some (k, ⟨c, v⟩)) s0 →
        Runs (fun i => atomicElement false (indexedAt s.thr rb a i) (if sew s.thr = 32 then .addw else .add)
          ((elem s.thr (sew s.thr) rd i).setWidth 64)) below s0 fl s' →
        ElementTraps (.vaadd rd ra rb m) k c v s s' kept))

/-- Vector memory words over their element accesses (R198, R208 to R213). -/
def Obligations.VectorMemoryWords : Prop :=
  ElementAccessesActOnMemory ∧ VectorMemoryWordsPerformTheirElements ∧ RefusedElementsTrap

/-- Tensor words whose view lies on their own die walk the view of their shape register from element S[rs] (R215 to R220): raw elements are copied, formatted
ones are rounded to the vector format with their flags, elements beyond the view are left; a store writes, raw, element by
element, and otherwise, once every sector has passed its checks, the whole units that its elements touch, in order of first touch,
as the formatted groups below have it, an element of a unit that the word does not store being +0 (R220, R221). -/
def Sys2Proof.Claims.TensorWordsWalk : Prop :=
  ∀ (rd rs : BitVec 7) (tn m : BitVec 4) (s s1 : State) (l0 : Word), MemoryReady s → IsVector rd → IsScalar rs →
    Reads rs s l0 s1 →
    let t := shapeOf s.thr (.tld rd tn rs m)
    let f := shapeFmt t
    let l (i : Nat) : Nat := l0.toNat + i
    let inView (i : Nat) : Bool := decide (l i < viewCount t)
    let c := vtCtl s.thr.u.vtype
    (∀ p ∈ [((.tld, false) : TensorForm × Bool), (.tldNb, true)],
      (∀ (s' : State) (val : Nat → Nat), f = 0x00 →
        Runs (fun i => if inView i then loadElement s.thr.k.km (sew s.thr / 8) (viewAddr t (l i)) else pure 0) (actives s.thr m)
          s val s' →
        MemoryDone p.2 (p.1 rd tn rs m) s s' fun u => VectorDone [rd.toNat] [] 0 s1.thr u ∧
          Elements s.thr u rd (fun i => active s.thr m i && inView i) fun w i => BitVec.ofNat w (val i)) ∧
      (∀ (s' : State) (val : Nat → ViewRead), f ≠ 0x00 → fmtAssigned f = true → 16 ≤ sew s.thr →
        (fmtBitPlane f = true → planeViewOk t = true) →
        Runs (fun i => if inView i then readView s.thr.k.km t (loadPlanes f) (l i) else pure (.value (.num false 0 0) false))
          (actives s.thr m) s val s' → (∀ i ∈ actives s.thr m, ∀ x, val i ≠ .refused x) →
        let r (i : Nat) := roundFp c.f c.rm c.flush (tensorValue c.flush f (val i))
        MemoryDone p.2 (p.1 rd tn rs m) s s' fun u =>
          VectorDone [rd.toNat] [] (laneFlags s.thr m fun i => if inView i then (r i).2 ||| tensorInvalid f (val i) else 0)
            s1.thr u ∧
          Elements s.thr u rd (fun i => active s.thr m i && inView i) fun w i => BitVec.ofNat w (r i).1)) ∧
    (∀ p ∈ [((.tst, false) : TensorForm × Bool), (.tstNb, true)], s.thr.u.vstart = 0 →
      (∀ s' : State, f = 0x00 →
        Runs (fun i => if inView i then storeElement s.thr.k.km (sew s.thr / 8) (viewAddr t (l i))
          (elem s.thr (sew s.thr) rd i).toNat else pure ()) (actives s.thr m) s (fun _ => ()) s' →
        MemoryDone p.2 (p.1 rd tn rs m) s s' fun u => VectorDone [] [] 0 s1.thr u) ∧
      (∀ (s0 s' : State) (fl : BitVec 5), f ≠ 0x00 → fmtAssigned f = true → 16 ≤ sew s.thr →
        (fmtBitPlane f = true → planeViewOk t = true ∧ fmtPlanes f = 8) →
        let ls := ((actives s.thr m).filter inView).map l
        let us := unitsOf t ls
        (fmtBitPlane f = false → ∀ e ∈ ls, (viewAddr t e).toNat % fmtSize f = 0) → (∀ x ∈ us, unitCovered t x = true) →
        Passes s.thr.k.km (us.flatMap (unitSectors t)) s s0 →
        WritesUnits s.thr.k.km t c.rm c.flush (fun e => if e ∈ ls then
          fpIn c (elem s.thr (sew s.thr) rd (e - l0.toNat)).toNat else .num false 0 0) us s0 fl s' →
        MemoryDone p.2 (p.1 rd tn rs m) s s' fun u => VectorDone [] [] fl s1.thr u))

/-- Formatted groups (R80, R85 to R90): a read gives the exact value of a code under its group's scale and dither; a store chooses
scale and codes as R88 and R89 have them, with the flags of R90; codes stand at their elements' bytes, bit-plane codes bit by
bit in their planes, with the descriptor of the format. -/
def Sys2Proof.Claims.FormattedGroupsScaleAndDither : Prop :=
  (∀ (t : ShapeReg) (planes o i : Nat) (scale c : BitVec 8), 2 ≤ planes → planes ≤ 8 →
    let f := shapeFmt t
    let s : ℝ := 2 ^ ((scale.toNat : ℤ) - 127)
    let low : ℤ := 2 ^ (8 - planes)
    let top : ℝ := if planes = 8 then c.toInt else (c.toInt / low) * low + 2 ^ (7 - planes)
    let d : ℝ := if f.getLsbD 7 then ditherOf t o i else 0
    (scale = 0 → groupVal t planes o i scale c = .value (.num false 0 0) false) ∧
    (scale = 255 → groupVal t planes o i scale c = .value (.nan false) true) ∧
    (scale ≠ 0 → scale ≠ 255 → ∃ v, groupVal t planes o i scale c = .value v false ∧
      (f = 0x01 ∨ f = 0x81 → (∃ n, IsNum n v) ∧ realOf v = s * (c.toInt - d)) ∧
      (fmtBitPlane f = true → (∃ n, IsNum n v) ∧ realOf v = s * (top - d)) ∧
      (f = 0x02 ∨ f = 0x03 →
        let w := fpVal (if f = 0x02 then fpE4M3 else fpE5M2) c.toNat
        (∀ n, IsNum n w → IsNum n v ∧ realOf v = s * realOf w) ∧ (∀ n, w = .inf n → v = .inf n) ∧
        (isNan w = true → v = .nan false)))) ∧
  (∀ f ∈ quantFormats, ∀ vs : List (FpVal × Int), Quantised f vs (quantise f vs)) ∧
  (∀ (km : Bool) (t : ShapeReg) (rm flush off : Nat) (val : Nat → FpVal) (s : State), s.thr.host = false → s.thr.place.span < 192 →
    let f := shapeFmt t
    let here : Nat := fpaOf (myPeer s) s.thr.place.span 0 off
    let dithered (l : Nat) : FpVal × Int := (val l, viewDither t (viewOuter t l) (viewInner t l))
    -- a sector of 8-bit codes or of 16-bit floats, in the Span's own scratchpad
    (off % 64 = 0 → off + 64 ≤ padLimit (mySpan s) → off < 2 ^ 20 →
      let va : Word := BitVec.ofNat 64 (0x7FF00000000000 + off)
      let place (l : Nat) : Nat := here + (viewAddr t l - va).toNat
      sectorCovered t (fmtSize f) va = true →
      (f ∈ [0x01, 0x81, 0x02, 0x03] →
        let q := quantise f ((sectorElems t 1 va).map dithered)
        ∃ s', writeUnit km t rm flush va val s = .ok q.2.2 s' ∧ s'.thr = s.thr ∧
          (∀ p ∈ (sectorElems t 1 va).zip q.2.1, memByte s' 0 (place p.1) = p.2) ∧
          (sectorOf s' (here / 64)).fmt = f ∧ (sectorOf s' (here / 64)).scale = q.1) ∧
      (f ∈ [0x04, 0x05] → (∀ l ∈ sectorElems t 2 va, (viewAddr t l).toNat % 2 = 0) →
        ∃ fl s', writeUnit km t rm flush va val s = .ok fl s' ∧ s'.thr = s.thr ∧
          (∀ l ∈ sectorElems t 2 va, (viewAddr t l - va).toNat < 64 →
            memRead s' 0 (place l) 2 = (roundFp (if f = 0x04 then bf16 else fp16) rm flush (val l)).1) ∧
          (sectorOf s' (here / 64)).fmt = f ∧ (sectorOf s' (here / 64)).scale = 127)) ∧
    -- a group of a bit-plane tensor there
    (fmtBitPlane f = true → planeViewOk t = true → shapeBase t = BitVec.ofNat 64 (0x7FF00000000000 + off) →
      off + viewCount t ≤ padLimit (mySpan s) → off + viewCount t ≤ 2 ^ 20 → ∀ g < viewCount t / 512,
      let q := quantise f (((List.range 512).map (512 * g + ·)).map dithered)
      ∃ s', writeGroup km t g val s = .ok q.2.2 s' ∧ s'.thr = s.thr ∧
        (∀ n < 512, ∀ p < 8, (memByte s' 0 (here + (7 - p) * (viewCount t / 8) + (512 * g + n) / 8)).getLsbD (n % 8) =
          (q.2.1.getD n 0).getLsbD p) ∧
        ∀ p < 8, let sec := (here + (7 - p) * (viewCount t / 8) + 64 * g) / 64
          (sectorOf s' sec).fmt = (if f.getLsbD 7 then 0x90 else 0x10) + BitVec.ofNat 8 p ∧
          (p = 7 → (sectorOf s' sec).scale = q.1)))

/-- Tensor words, and the formatted groups that they read and write (R80, R85 to R90, R215 to R220). -/
def Obligations.TensorWordsWalkTheirView : Prop :=
  TensorWordsWalk ∧ FormattedGroupsScaleAndDither

/-- `rep` with an integer lane word (R53, R54, R185): the word runs for every repeat from the CSR `rep` on, one after the other,
its stepped fields moved; the thread goes on behind the word, with `rep` 0. -/
def Obligations.RepRepeatsItsWord : Prop :=
  ∀ p ∈ laneWords, ∀ (cnt : BitVec 6) (fd fa fb : Bool) (st : BitVec 2) (rd ra rb : BitVec 7) (m : BitVec 4) (s s1 : State),
    VectorReady s → s.thr.loop = none → s.thr.u.vstart = 0 → (p.1 rd ra rb m).wellFormed = true →
    fetchWord (s.thr.pc + 4) s = .ok (encode (p.1 rd ra rb m)) s1 →
    let n := cnt.toNat + 1
    let step := 2 ^ st.toNat
    let field (flag : Bool) (f : BitVec 7) (j : Nat) : Nat := f.toNat + (if flag then j * step else 0)
    s.thr.u.rep.toNat < n →
    (fd = true → steppedOk .vreg rd.toNat n step = true) → (fa = true → steppedOk .vop ra.toNat n step = true) →
    (fb = true → steppedOk .vop rb.toNat n step = true) →
    (∀ j < n, field fd rd j < 48 ∧ fieldOk .vop (field fa ra j) = true ∧ fieldOk .vop (field fb rb j) = true) →
    ∃ (us : Nat → Thread) (u : Thread), exec (.rep cnt fd fa fb st) s = .next (withThr s1 u) ∧
      us s.thr.u.rep.toNat = s.thr ∧ u.pc = s.thr.pc + 8 ∧ u.u = { s.thr.u with rep := 0 } ∧ NoEntries u ∧ u.sc = s.thr.sc ∧ u.k = s.thr.k ∧
      (∀ r, vreg u (isLong s.thr) r = vreg (us n) (isLong s.thr) r) ∧
      (∀ k, mreg u (isLong s.thr) k = mreg s.thr (isLong s.thr) k) ∧
      ∀ j, s.thr.u.rep.toNat ≤ j → j < n →
        let d := BitVec.ofNat 7 (field fd rd j)
        (∀ k < vlmax s.thr, elem (us (j + 1)) (sew s.thr) d k =
          if active s.thr m k then p.2 (sew s.thr) (operand (us j) (sew s.thr) (BitVec.ofNat 7 (field fa ra j)) k)
            (operand (us j) (sew s.thr) (BitVec.ofNat 7 (field fb rb j)) k)
          else elem (us j) (sew s.thr) d k) ∧
        (∀ r, r ≠ d.toNat → vreg (us (j + 1)) (isLong s.thr) r = vreg (us j) (isLong s.thr) r) ∧
        (us j).sc = s.thr.sc ∧ isLong (us j) = isLong s.thr

/-- `loop` (R56, R281, R283): an empty nest is skipped; any other starts with every index 0 at its first body word, which the
next step runs. A body word goes on to the next; after the last the nest advances, and after its last iteration the thread
goes on behind the body. -/
def Obligations.LoopsRunTheirNest : Prop :=
  (∀ (t len : BitVec 4) (nm : BitVec 13) (s s1 : State) (ws : List IWord), s.thr.host = false → nm.toNat < 2 ^ (len.toNat + 1) →
    fetchBody nm (len.toNat + 1) 0 (s.thr.pc + 4) s = .ok ws s1 → s.thr.u.lctl.getLsbD 25 = false →
    let nest := vget s.thr.shp t.toNat 0
    exec (.loop t len nm) s = .next (withThr s1 (
      if viewCount nest = 0 then { s.thr with
        pc := s.thr.pc + BitVec.ofNat 64 (4 * (len.toNat + 2)), wait := none, replies := [], pages := [], u := { s.thr.u with li := .replicate 6 0 } }
      else { s.thr with
        wait := none, replies := [], pages := [], loop := some ⟨nest, ws⟩
        u := { s.thr.u with li := .replicate 6 0, lctl := 1#1 ++ 0#4 ++ nm ++ t ++ len } }))) ∧
  (∀ (t : Thread) (l : LoopRun), t.loop = some l →
    let pos := (t.u.lctl.extractLsb' 21 4).toNat
    let len := (t.u.lctl.extractLsb' 0 4).toNat
    (pos < len → (retire t).pc = t.pc ∧ (retire t).loop = some l ∧ (retire t).u.li = t.u.li ∧
      ((retire t).u.lctl.extractLsb' 21 4).toNat = pos + 1) ∧
    (pos = len → (∀ d < 6, (vget t.u.li d 0).toNat < shapeExt l.nest d) →
      nestNumber l.nest (retire t).u.li = (nestNumber l.nest t.u.li + 1) % viewCount l.nest ∧
      (nestNumber l.nest t.u.li + 1 < viewCount l.nest → (retire t).pc = t.pc ∧ (retire t).loop = some l ∧
        ((retire t).u.lctl.extractLsb' 21 4).toNat = 0) ∧
      (nestNumber l.nest t.u.li + 1 = viewCount l.nest → (retire t).pc = t.pc + BitVec.ofNat 64 (4 * (len + 2)) ∧
        (retire t).loop = none ∧ (retire t).u.lctl = 0)))

/-- `setvl`, `setvl.d`, `setvt` (R139): `vl` is the least of its bounds and goes to rd; a `vtype` of R77 is taken with `vl` within
its VLMAX, any other is *illegal operand*. -/
def Sys2Proof.Claims.VectorLengthAndType : Prop :=
  (∀ (rd ra : BitVec 7) (s s1 s2 : State) (a : Word), s.thr.host = false → dstS rd = true → srcS ra = true → Reads ra s a s1 →
    let n := min a.toNat (vlmaxAt s.thr s.thr.u.vtype)
    Writes rd (BitVec.ofNat 64 n) (withThr s1 { s1.thr with u := { s1.thr.u with vl := BitVec.ofNat 11 n } }) s2 →
    exec (.setvl rd ra) s = .next (advance s2)) ∧
  (∀ (rd ra rb : BitVec 7) (s s1 s2 s3 : State) (a b : Word), s.thr.host = false → dstS rd = true → srcS ra = true →
    srcS rb = true → Reads ra s a s1 → Reads rb s1 b s2 →
    let n := min (min a.toNat (vlmaxAt s.thr s.thr.u.vtype)) b.toNat
    Writes rd (BitVec.ofNat 64 n) (withThr s2 { s2.thr with u := { s2.thr.u with vl := BitVec.ofNat 11 n } }) s3 →
    exec (.setvlD rd ra rb) s = .next (advance s3)) ∧
  (∀ (ra : BitVec 7) (s s1 : State) (a : Word), s.thr.host = false → srcS ra = true → Reads ra s a s1 →
    (vtypeLegal (a.setWidth 9) → exec (.setvt ra) s = .next (advance (withThr s1 (withVtype (a.setWidth 9) s1.thr)))) ∧
    (¬ vtypeLegal (a.setWidth 9) → exec (.setvt ra) s = .next (takeTrap false 0x02 (failing (.setvt ra)) s)))

/-- `vmode.s` and `vmode.l` (R131, R132): short mode waits for older vector entries; long mode takes lane groups and a context
where they are free and nobody waits, its registers zero, and else waits in line; a count other than 1, 2, 4, 8 is *illegal
operand*, a partition without contexts *pool capacity*. -/
def Sys2Proof.Claims.VectorModeChanges : Prop :=
  (∀ s : State, s.thr.host = false →
    (s.thr.v.vq = [] → s.thr.v.nbq = [] → s.thr.tq = [] → (∀ p ∈ s.packets, ownPacket s.thr p = false) →
      s.thr.u.mstat.getLsbD 5 = false →
      exec .vmodeS s = .next (advance (withThr s (inShortMode s.thr)))) ∧
    (s.thr.v.vq ≠ [] → exec .vmodeS s = .next (park .other s))) ∧
  (∀ (ra : BitVec 7) (s s1 : State) (g : Word), s.thr.host = false → srcS ra = true → Reads ra s g s1 →
    let here (t : Thread) : Bool := t.status == .running && t.place.peer == s.thr.place.peer && t.place.span == s.thr.place.span
    let groups := ((s.others.filter here).map fun t => t.v.lg).sum
    let contexts := (s.others.filter fun t => here t && isLong t).length
    let x := mySpan s
    let mine (w : Nat × Nat × Bool) : Bool := w.1 == s.thr.place.slot
    (g ∉ [1, 2, 4, 8] → exec (.vmodeL ra) s = .next (takeTrap false 0x02 (failing (.vmodeL ra)) s)) ∧
    (g ∈ [1, 2, 4, 8] → partNctx s.thr.u.part = 0 →
      exec (.vmodeL ra) s = .next (takeTrap false 0x11 (s.thr.u.part.setWidth 64) s)) ∧
    (g ∈ [1, 2, 4, 8] → partNctx s.thr.u.part ≠ 0 → s.thr.v.vq = [] → s.thr.v.nbq = [] → streamPackets s = [] →
      (isLong s.thr = true → s.thr.v.lg = g.toNat → exec (.vmodeL ra) s = .next (advance s1)) ∧
      (¬ (isLong s.thr = true ∧ s.thr.v.lg = g.toNat) → s.thr.status = .running →
        (∀ t ∈ s.others, t.status = .running → t.place ≠ s.thr.place) → (∀ w ∈ x.waiters, mine w = true) →
        groups + g.toNat ≤ 8 → (isLong s.thr = true ∨ contexts < partNctx (partOf x)) →
        ∃ t, exec (.vmodeL ra) s = .next t ∧ t.thr = retire (inLongMode g.toNat s1.thr) ∧ t.others = s.others ∧
          SameMemory s t ∧ mySpan t = { x with waiters := [] }) ∧
      (¬ (isLong s.thr = true ∧ s.thr.v.lg = g.toNat) → s.thr.status = .running → 8 < groups + g.toNat →
        ∃ t, exec (.vmodeL ra) s = .next t ∧ SameMemory s t ∧
          t.thr = { s.thr with wait := some .longMode, v := { s.thr.v with lg := 0 } } ∧
          mySpan t = { x with waiters := x.waiters.filter (! mine ·) ++ [(s.thr.place.slot, g.toNat, s.thr.v.long.isNone)] })))

/-- Vector length, type and mode (R131, R136). -/
def Obligations.VectorLengthTypeAndMode : Prop :=
  VectorLengthAndType ∧ VectorModeChanges

/-! ## The Truss -/

namespace Sys2Proof.Claims

/-- The stream of the current thread moves on as far as it can, where the step does not defer it (log 4). -/
def streamed (s : State) : State := if s.turn.defer then s else settle 4096 s

/-- There is room for a Truss entry and, where it has one, for its link entry (R101, R226, R265). -/
def TrussRoom (s : State) (e : TEntry) (link : Bool) : Prop :=
  s.thr.tq.length < 64 ∧ spanTruss s < 256 ∧ (link = true → s.thr.v.vq.length < 64) ∧ aritUsed s + trussEntries e ≤ 64

/-- The thread after it has posted an entry (R101, R144, R251, R264, R266). -/
def posted (e : TEntry) (link : Bool) (writes : List Nat) (t : Thread) : Thread :=
  let v : VEntry := { newEntry t e.ins none [] 0 with link := some e.seq, start := 0, vstart := 0, pos := 0, wpos := 0 }
  let m := t.u.mstat
  retire (setLanded false writes { t with
    issued := t.issued + 1
    tq := t.tq ++ [e]
    u := { t.u with mstat := m.extractLsb' 48 16 ++ (m.extractLsb' 32 16 + 1) ++ m.extractLsb' 0 32 }
    v := { t.v with vq := if link then t.v.vq ++ [v] else t.v.vq } })

/-- A word of the Truss whose checks pass posts its entry, where there is room. -/
def Posts (i : Instr) (e : TEntry) (link : Bool) (writes : List Nat) (s s1 : State) : Prop :=
  TrussRoom s1 e link → exec i s = .next (streamed (withThr s1 (posted e link writes s1.thr)))

/-- The oldest Truss entry runs; nothing that it has sent to other dies is out. -/
def RunningHead (s : State) (e : TEntry) (rest : List TEntry) : Prop :=
  s.thr.tq = e :: rest ∧ e.started = true ∧ e.kstep ≠ 0 ∧ e.push = none ∧ trussOut s e = false ∧ ∀ x ∈ rest, x.push = none

/-- A status entry, bit by bit (R267). -/
def statusWord (seq : BitVec 16) (fl : BitVec 5) (err dropped : Bool) : Word :=
  0#41 ++ BitVec.ofBool dropped ++ BitVec.ofBool err ++ fl ++ seq

/-- The thread after entries have ended, each with its status and flags: those with NOTIFY push it into q6 in order, the first that
finds q6 full waiting there, and every later one behind it (R107, R267); an entry's flags reach `mstat` as it completes, its push
included (R266, R269). -/
def notified : List (TEntry × Word × BitVec 5) → List TEntry → Thread → Thread
  | [], rest, t => { t with tq := rest }
  | (e, w, fl) :: es, rest, t =>
    let done : Thread := { t with u := { t.u with mstat := t.u.mstat ||| fl.setWidth 64 } }
    if e.notify = false then notified es rest done
    else if (queueAt t 6).length < 16 then notified es rest (setQueue 6 (queueAt t 6 ++ [w]) done)
    else { t with tq := ((e, w, fl) :: es).filterMap (fun x =>
      if x.1.notify then some { x.1 with flags := x.2.2, push := some x.2.1 } else none) ++ rest }

/-- The entry is a multiply with M = 0 (R258). -/
def multipliesNothing (e : TEntry) : Prop :=
  (∃ az tB va sn m, e.ins = .mmav az tB va sn m) ∧ e.sn.extractLsb' 0 7 = 0 ∨
  (∃ az tB tA sn m, e.ins = .mmat az tB tA sn m ∨ e.ins = .mmatG az tB tA sn m) ∧ e.sn.extractLsb' 0 7 = 0

/-- A matrix error of the oldest entry, s being the state before it (R264, R267): ERR, DROP, ECODE and ESEQ, every entry gone, each
with its status; a multiply with M = 0 leaves every tile as it was (R258). -/
def MatrixErrs (e : TEntry) (rest : List TEntry) (c : Nat) (s t : State) : Prop :=
  t.thr = notified (({ e with started := true }, statusWord e.seq 0 true false, 0) ::
      rest.map fun x => (x, statusWord x.seq 0 false true, 0)) [] { s.thr with u := { s.thr.u with mstat := t.thr.u.mstat } } ∧
    t.thr.u.mstat.getLsbD 5 = true ∧ (t.thr.u.mstat.getLsbD 6 = true ↔ rest ≠ []) ∧
    t.thr.u.mstat.extractLsb' 8 4 = BitVec.ofNat 4 c ∧ t.thr.u.mstat.extractLsb' 16 16 = e.seq ∧
    t.thr.u.mstat.extractLsb' 32 16 = s.thr.u.mstat.extractLsb' 32 16 ∧
    (multipliesNothing e → ∀ z, tileOf (mySpan t) z = tileOf (mySpan s) z)

/-- A finite value, exactly. -/
def ratOf : FpVal → Rat
  | .num neg m e => (if neg then -1 else 1) * (m : Rat) * (2 : Rat) ^ e
  | _ => 0

def IsFinite (v : FpVal) : Prop := ∃ n m e, v = .num n m e

end Sys2Proof.Claims

/-- `mz`, `mrd`, `mwr`, `mst`, `mmav`, `mmat`, `mmat.g` (R251 to R254, R262 to R266, R269 to R271): with a tile of the partition,
legal operands and memory that passes its checks, an entry with the next sequence number and all it captures joins the Truss
queue, and with it a link entry where registers or a mask go across; the thread goes on. -/
def Sys2Proof.Claims.TrussWordsPostTheirEntries : Prop :=
  ∀ s : State, s.thr.host = false → s.thr.u.mstat.getLsbD 5 = false →
    let tile (n : Nat) : Prop := n < (s.thr.u.part.extractLsb' 4 5).toNat
    let km := s.thr.k.km
    (∀ rd : BitVec 7, tile rd.toNat → Posts (.mz rd) (newTruss s.thr (.mz rd) 0 false 0 0 []) false [] s s) ∧
    (∀ rd ra rb : BitVec 7, s.thr.v.long.isSome = true → rb.toNat < 120 →
      let b := scalar s.thr rb
      (rd.toNat < 48 → tile ra.toNat → b.toNat < 64 → b.toNat % 4 = 0 →
        Posts (.mrd rd ra rb) (newTruss s.thr (.mrd rd ra rb) b false 0 0 []) true [rd.toNat] s s) ∧
      (tile rd.toNat → ra.toNat < 48 → b &&& ~~~ 0x13F = 0 → b.toNat % 4 = 0 →
        Posts (.mwr rd ra rb) (newTruss s.thr (.mwr rd ra rb) b false 0 0 []) true [] s s)) ∧
    (∀ (rd ra rb : BitVec 7) (ps : List TlbEntry) (s1 : State), tile rd.toNat → ra.toNat < 16 → rb.toNat < 120 →
      let b := scalar s.thr rb
      let t := vget s.thr.shp ra.toNat 0
      mstOk b t = true → checkPages .store km (trussSize t) (viewAddrs t 8) [] s = .ok ps s1 →
      Posts (.mst rd ra rb) (newTruss s.thr (.mst rd ra rb) b (b.getLsbD 15) t 0 ps) false [] s s1) ∧
    (∀ (az tB : BitVec 4) (va sn : BitVec 7) (m : BitVec 4) (ps : List TlbEntry) (s1 : State), tile az.toNat → va.toNat < 48 →
      sn.toNat < 120 → s.thr.v.long.isSome = true →
      let d := scalar s.thr sn
      let b := vget s.thr.shp tB.toNat 0
      mmOk s.thr false d b (m != 0) = true → groupOk va.toNat d b (m != 0) = true →
      checkPages .load km (fmtSize (shapeFmt b)) (viewAddrs b 8) [] s = .ok ps s1 →
      Posts (.mmav az tB va sn m) (newTruss s.thr (.mmav az tB va sn m) d (d.getLsbD 23) 0 b ps) true [] s s1) ∧
    (∀ form ∈ [Instr.mmat, .mmatG], ∀ (az tB tA : BitVec 4) (sn : BitVec 7) (m : BitVec 4) (ps qs : List TlbEntry)
      (s1 s2 s3 : State), tile az.toNat → sn.toNat < 120 →
      let d := scalar s.thr sn
      let b := vget s.thr.shp tB.toNat 0
      let a := vget s.thr.shp tA.toNat 0
      mmOk s.thr true d b (m != 0) = true → aViewOk a d (shapeExt b 0) (m != 0) = true → checkBase a s = .ok () s1 →
      checkPages .load km (fmtSize (shapeFmt a)) (viewAddrs a (snPa d)) [] s1 = .ok ps s2 →
      checkPages .load km (fmtSize (shapeFmt b)) (viewAddrs b 8) ps s2 = .ok qs s3 →
      Posts (form az tB tA sn m) (newTruss s.thr (form az tB tA sn m) d (d.getLsbD 23) a b qs) (m != 0) [] s s3)

/-- Where a Truss word traps (R264, R271): with a tile outside the partition, or an operand that its checks refuse, *illegal
operand*; while ERR is 1, *matrix error* with the sequence number that `mstat` holds. `msync` completes once every entry is
done, its status entry pushed, and waits while one is not (R269, R270). -/
def Sys2Proof.Claims.TrussWordsTrapAndMsyncWaits : Prop :=
  ∀ s : State, s.thr.host = false →
    (∀ rd : BitVec 7, (s.thr.u.part.extractLsb' 4 5).toNat ≤ rd.toNat →
      exec (.mz rd) s = .next (takeTrap false 0x02 (failing (.mz rd)) s)) ∧
    (∀ rd : BitVec 7, rd.toNat < (s.thr.u.part.extractLsb' 4 5).toNat → s.thr.u.mstat.getLsbD 5 = true →
      exec (.mz rd) s = .next (takeTrap false 0x0D ((s.thr.u.mstat.extractLsb' 16 16).setWidth 64) s)) ∧
    (∀ rd ra rb : BitVec 7, rd.toNat < (s.thr.u.part.extractLsb' 4 5).toNat → ra.toNat < 16 → rb.toNat < 120 →
      s.thr.u.mstat.getLsbD 5 = false → mstOk (scalar s.thr rb) (vget s.thr.shp ra.toNat 0) = false →
      exec (.mst rd ra rb) s = .next (takeTrap false 0x02 (failing (.mst rd ra rb)) s)) ∧
    (s.thr.u.mstat.getLsbD 5 = false →
      (s.thr.tq = [] → (∀ p ∈ s.packets, ownPacket s.thr p = false) → exec .msync s = .next (advance s)) ∧
      (s.thr.tq ≠ [] → exec .msync s = .next (park .other s))) ∧
    (s.thr.u.mstat.getLsbD 5 = true →
      exec .msync s = .next (takeTrap false 0x0D ((s.thr.u.mstat.extractLsb' 16 16).setWidth 64) s))

/-- Truss words: what they post, and where they trap or wait (R251, R264, R266). -/
def Obligations.TrussWordsPost : Prop :=
  TrussWordsPostTheirEntries ∧ TrussWordsTrapAndMsyncWaits

/-- The Truss at work (R248, R258, R259, R264, R266, R270): the entry whose turn it is starts, a multiply with its first K-step; `mz`
makes its tile Z; `mrd` delivers the FP32 read-out of 4 rows; `mwr` writes 4 rows, an F entry the value, a NaN canonical and a subnormal
zero under FLUSH 2, an I entry the value as a sum word; a multiply runs its remaining K-steps; a finished entry leaves the queue, an
`mst` once its stores are acknowledged, with its flags in `mstat` as its status entry is pushed. A matrix error, at the start or
later, sets ERR, the cause and the sequence number, and discards what is behind. An entry with NOTIFY that completes, errs or is
discarded pushes its status entry into q6, or waits there for room (R267). Reads from other dies, for which an entry asks, repeat its
work (the model's, log 46). -/
def Obligations.TrussEntriesRun : Prop :=
  ∀ (s : State) (e : TEntry) (rest : List TEntry),
    (s.thr.tq = e :: rest → e.started = false → e.kstep = 0 → startable s = some e →
      trussSlot s s.thr.place.peer s.thr.place.span = some s.thr.place.slot →
      let s0 := modTruss (fun e => { e with started := true }) (modMySpan (fun x => { x with trussTurn := (s.thr.place.slot + 1) % 8 }) s)
      (∀ (fl : BitVec 5) (s1 : State), actFor (trussActing e) (firstStep e).run s0 = .ok (.ok fl) s1 →
        exec .trussEntryStart s = .next
          (modTruss (fun e => { e with started := true, kstep := 1, flags := fl, replies := [] }) s1)) ∧
      (∀ (c : Nat) (s1 : State), actFor (trussActing e) (firstStep e).run s0 = .ok (.error c) s1 → s1.thr = s0.thr → 1 ≤ c → c ≤ 5 →
        (∀ x ∈ rest, x.push = none) → s.thr.u.mstat = (s.thr.u.mstat.extractLsb' 32 32).setWidth 64 <<< 32 →
        ∃ t, exec .trussEntryStart s = .next t ∧ MatrixErrs e rest c s t)) ∧
    (RunningHead s e rest →
      (∀ rd, e.ins = .mz rd → e.notify = false → ∃ t, exec .trussEntryComplete s = .next t ∧ t.thr = { s.thr with tq := rest } ∧
        SameMemory s t ∧ tileOf (mySpan t) rd.toNat = ⟨.z, []⟩ ∧
        ∀ a, a ≠ rd.toNat → tileOf (mySpan t) a = tileOf (mySpan s) a) ∧
      (∀ vd ra rb, e.ins = .mrd vd ra rb → e.notify = false →
        let x := tileOf (mySpan s) ra.toNat
        let row := (e.sn.extractLsb' 0 6).toNat
        ∃ t d, exec .trussEntryComplete s = .next t ∧ t.thr.tq = rest ∧ SameMemory s t ∧
          (∀ i < 256, elemOf d 32 i = BitVec.ofNat 32 (entryOut x (row + i / 64) (i % 64)).1) ∧
          t.thr.v.vq = s.thr.v.vq.map fun v => if v.link = some e.seq then { v with delivered := some (some d) } else v) ∧
      (∀ rd va rb, e.ins = .mwr rd va rb → e.notify = false →
        let int := e.sn.getLsbD 8
        let row := (e.sn.extractLsb' 0 6).toNat
        let x := tileOf (mySpan s) rd.toNat
        let given (i : Nat) : Nat := (elemOf (e.regs.getD 0 0) 32 i).toNat
        let w (i : Nat) : BitVec 128 × BitVec 5 :=
          if int then sumAdd 0 (fpVal fp32 (given i))
          else if isNan (fpVal fp32 (given i)) then (0x7FC00000, 0)
          else (BitVec.ofNat 128 (flushIn fp32 e.flush.toNat (given i)), 0)
        row + 4 ≤ 64 → (x.tag = .z ∨ x.tag = if int then .i else .f) →
        ∃ t, exec .trussEntryComplete s = .next t ∧ SameMemory s t ∧
          t.thr = { s.thr with tq := rest, u := { s.thr.u with
            mstat := s.thr.u.mstat ||| (flagsOf ((List.range 256).map fun i => (w i).2)).setWidth 64 } } ∧
          (tileOf (mySpan t) rd.toNat).tag = (if int then .i else .f) ∧
          (∀ i < 256, tileEntry (tileOf (mySpan t) rd.toNat) (row + i / 64) (i % 64) = (w i).1) ∧
          (∀ r < 64, ∀ c < 64, r < row ∨ row + 4 ≤ r → tileEntry (tileOf (mySpan t) rd.toNat) r c = tileEntry x r c) ∧
          ∀ a, a ≠ rd.toNat → tileOf (mySpan t) a = tileOf (mySpan s) a) ∧
      (∀ (fl : BitVec 5) (s1 : State), awaitsAcks e = false →
        actFor (trussActing e) (lastSteps e).run s = .ok (.ok fl) s1 → s1.thr = s.thr →
        (trussOut s1 e = false → exec .trussEntryComplete s = .next (withThr s1
          (notified [(e, statusWord e.seq fl false false, fl)] rest s.thr))) ∧
        (trussOut s1 e = true → exec .trussEntryComplete s = .next (withThr s1
          { s.thr with tq := { e with kstep := 2, flags := fl, replies := [] } :: rest }))) ∧
      (awaitsAcks e = true → exec .trussEntryComplete s = .next (withThr s
        (notified [(e, statusWord e.seq e.flags false false, e.flags)] rest s.thr))) ∧
      (∀ (c : Nat) (s1 : State), awaitsAcks e = false →
        actFor (trussActing e) (lastSteps e).run s = .ok (.error c) s1 → s1.thr = s.thr → 1 ≤ c → c ≤ 5 →
        s.thr.u.mstat = (s.thr.u.mstat.extractLsb' 32 32).setWidth 64 <<< 32 →
        ∃ t, exec .trussEntryComplete s = .next t ∧ MatrixErrs e rest c s t))

/-- A K-step (R256, R257): with finite operands a float cell becomes the exact sum of the accumulator and the products, rounded
once to nearest even; an integer cell adds each exact product to its sum word in turn. Every cell of the rows and columns is
written from its own row of A and column of B, and no other. -/
def Obligations.KStepsAccumulate : Prop :=
  (∀ (flush acc : Nat) (xs : List (FpVal × FpVal)), IsFinite (fpVal fp32 acc) → (∀ x ∈ xs, IsFinite x.1 ∧ IsFinite x.2) →
    ∃ v, IsFinite v ∧ floatStep flush acc xs = roundFp fp32 0 flush v ∧
      ratOf v = ratOf (flushOperand flush fp32 (fpVal fp32 acc)) + (xs.map fun x => ratOf x.1 * ratOf x.2).sum) ∧
  (∀ (acc : BitVec 128) (xs : List (FpVal × FpVal)) (ks : List (Int × Int)),
    xs = ks.map (fun k => (.num (decide (k.1 < 0)) k.1.natAbs 0, .num (decide (k.2 < 0)) k.2.natAbs 0)) →
    (intStep acc xs).2 = 0 → (intStep acc xs).1.toInt = acc.toInt + 2 ^ 64 * (ks.map fun k => k.1 * k.2).sum) ∧
  (∀ (e : TEntry) (k : Nat) (s s1 : State) (a b : List (List FpVal)), (slab e k).run s = .ok (.ok (a, b)) s1 →
    ∃ fl s2, (runStep e k).run s = .ok (.ok fl) s2 ∧ s2.thr = s1.thr ∧ SameMemory s1 s2 ∧
      let x := withTag (if mmFloat e then .f else .i) (tileOf (mySpan s1) (trussTile e))
      let y := tileOf (mySpan s2) (trussTile e)
      y.tag = x.tag ∧ (∀ z, z ≠ trussTile e → tileOf (mySpan s2) z = tileOf (mySpan s1) z) ∧
      (∀ r < 64, ∀ c < 64,
        let xs := (a.getD r []).zip (b.getD c [])
        tileEntry y r c =
          if snRows e.sn ≤ r ∨ snCols e.sn ≤ c then tileEntry x r c
          else if mmFloat e then BitVec.ofNat 128 (floatStep e.flush.toNat ((tileEntry x r c).toNat % 2 ^ 32) xs).1
          else (intStep (tileEntry x r c) xs).1))

/-! ## The copy engine -/

namespace Sys2Proof.Claims

/-- The views of the shadow set (R287). -/
def copySource (s : State) : ShapeReg := (vget s.thr.shp (s.thr.ce.sh.extractLsb' 0 4).toNat 0).extractLsb' 64 448 ++ s.thr.ce.src
def copyDest (s : State) : ShapeReg := (vget s.thr.shp (s.thr.ce.sh.extractLsb' 4 4).toNat 0).extractLsb' 64 448 ++ s.thr.ce.dst

/-- A transfer as the read of `ce.launch` enters it (R287, R288). -/
def Launched (s : State) (x : Transfer) : Prop :=
  x.id = s.thr.ce.nextId ∧ x.src = copySource s ∧ x.dst = copyDest s ∧ x.ctr = s.thr.ce.ctr ∧ x.inc = s.thr.ce.inc ∧
    x.converting = (s.thr.ce.mode.extractLsb' 0 2 == 1) ∧ x.notify = s.thr.ce.mode.getLsbD 2 ∧ x.kernel = s.thr.k.km ∧ x.k = 0 ∧
    x.state = .running ∧ x.flags = 0 ∧ x.missed = false

/-- The state with a transfer launched: `ce.last` holds its identifier and its promise mod 2^48. -/
def launchedState (s : State) (x : Transfer) : State :=
  { s with
    fresh := s.fresh + 1
    thr := { s.thr with
      issued := s.thr.issued + 1
      ce := { s.thr.ce with last := x.promise.extractLsb' 0 48 ++ x.id, nextId := x.id + 1 }
      tr := s.thr.tr ++ [x] } }

/-- The elements of a transfer of the current thread that have performed, from the lowest on, are n: none below n is in progress or has a
request that is not acknowledged (R299). -/
def ElemsPerformed (s : State) (x : Transfer) (n : Nat) : Prop :=
  let out (k : Nat) : Prop := ∃ q ∈ s.packets, q.place = s.thr.place ∧ q.agent = .copy x.order ∧ q.elem = k
  n ≤ x.k ∧ (∀ k < n, ¬ out k) ∧ (n < x.k → out n)

/-- The status word of a transfer of which n elements have performed (R299). -/
def transferStatus (x : Transfer) (n : Nat) : Word :=
  BitVec.ofNat 64 ((match x.state with | .running => 1 | .stoppedFault => 2 | .stoppedMemory => 3 | .complete => 4 | .cancelled => 5)
    + 16 * (x.cause.toNat % 16) + 256 * x.flags.toNat + (if x.missed then 8192 else 0) + 65536 * n)

/-- The completion entry (R295). -/
def doneEntry (x : Transfer) (cancelled : Bool) : Word :=
  BitVec.ofNat 64 (x.id.toNat + 65536 * x.flags.toNat + (if cancelled then 2 ^ 21 else 0))

/-- One transfer of a thread ends: its slot keeps the status, and a NOTIFY entry goes to q7, which has room (R293, R295, R298). -/
def Ends (x : Transfer) (cancelled : Bool) (t u : Thread) : Prop :=
  ∀ pre post, t.tr = pre ++ x :: post → (∀ y ∈ pre ++ post, y.order ≠ x.order ∧ y.push = none) →
    (x.notify = true → (queueAt t 7).length < 16) →
    let t1 := if x.notify then setQueue 7 (queueAt t 7 ++ [doneEntry x cancelled]) t else t
    u = { t1 with tr := pre ++
      { x with state := if cancelled then .cancelled else .complete, cause := 0, push := none } :: post }

end Sys2Proof.Claims

/-- A read of `ce.launch` by `csrrs` or `csrrw` (R287): with counts that agree, formats that pass, walks that do not overlap and a
counter that passes its check, it enters one transfer with the next identifier and returns `ce.last`; the write of `csrrw` or `csrrs`
is discarded. The promise of a copy within the Span is that of R300, over the larger of the bytes read and written. A KIND above 1 or
counts that differ are *illegal operand*, with nothing launched. -/
def Sys2Proof.Claims.LaunchingACopy : Prop :=
  ∀ (rd ra : BitVec 7) (s s0 : State) (a : Word), s.thr.host = false → dstS rd = true → srcS ra = true → Reads ra s a s0 →
    ∀ i ∈ [Instr.csrrs rd ra 0x026, .csrrw rd ra 0x026],
    let ts := copySource s
    let td := copyDest s
    let conv := s.thr.ce.mode.extractLsb' 0 2 == 1
    (2 ≤ (s.thr.ce.mode.extractLsb' 0 2).toNat ∨ viewCount ts ≠ viewCount td ∨ 2 ^ 48 ≤ viewCount ts →
      exec i s = .next (takeTrap false 0x02 (failing i) s)) ∧
    (∀ s1 : State, (s.thr.ce.mode.extractLsb' 0 2).toNat < 2 → viewCount ts = viewCount td → viewCount ts < 2 ^ 48 →
      (viewCount ts ≠ 0 → (∀ w, checkFormats w conv ts td s0 = .ok () s0) ∧
        (viewRange ts (copySize conv (shapeFmt ts)) false).all (fun a =>
          (viewRange td (copySize conv (shapeFmt td)) true).all fun b => ! a.overlaps b) = true) →
      (s.thr.ce.ctr = 0 ∧ s1 = s0 ∨ s.thr.ce.ctr ≠ 0 ∧ ∃ r, Granted .store 8 s.thr.ce.ctr s0 r s1) →
      (spanTransfers s1).length < 32 → (viewCount ts ≠ 0 → aritUsed s1 + 2 ≤ 64) →
      ∃ x, Launched s x ∧ exec .ceLaunch s0 = .next (launchedState (withThr s1 { s1.thr with pages := s.thr.pages }) x) ∧
        (∀ s2, Writes rd (x.promise.extractLsb' 0 48 ++ x.id) (launchedState s1 x) s2 → exec i s = .next (advance s2)) ∧
        (viewCount ts ≠ 0 → spanTransfers s1 = [] → s.thr.place.span < 192 → inWindow (shapeBase ts).toNat = true →
          inWindow (shapeBase td).toNat = true →
          x.promise = BitVec.ofNat 64 (s.time + 250 + 1000 * ((copyBytes x (viewCount ts) + 599999) / 600000))))

/-- The engine at work (R285, R288, R290, R291, R296): 256 bytes of the transfer whose turn it is; a plain element is its bytes,
read and then written, a whole sector keeps its descriptor, a converted element is its value rounded to FP32; a fault stops the
transfer at its element, with the cause, once what it has sent to other dies is acknowledged, and so does a memory error that a
reply reports. That an element of a sector of scale 255 reads as the quiet NaN with no flag is the model's (log 25). -/
def Sys2Proof.Claims.CopyUnitsMoveElements : Prop :=
  (∀ (s : State) (x : Transfer), copySlot s s.thr.place.peer s.thr.place.span = some s.thr.place.slot → nextCopy s = some x →
    let n := max (copySize x.converting (shapeFmt x.src)) (copySize x.converting (shapeFmt x.dst))
    let u := runCopy x.order (256 / n) s
    (u.thr.tr ≠ s.thr.tr ∨ u.packets.length ≠ s.packets.length →
      exec (.copyUnit x.id) s =
        .next (modSpan s.thr.place.peer s.thr.place.span (fun y => { y with copyTurn := (s.thr.place.slot + 1) % 8 }) u)) ∧
    (u = s → exec (.copyUnit x.id) s = .fault .notEnabled)) ∧
  (∀ (n : Nat) (s s' : State) (x : Transfer) (fl : BitVec 5), s.thr.tr.find? (·.order == x.order) = some x → x.failed = false →
    x.k < viewCount x.src → actFor (copyActing x) (copyElem x x.k) s = .ok fl s' →
    runCopy x.order (n + 1) s =
      runCopy x.order n (modTransfer x.order (fun y => { y with k := y.k + 1, flags := y.flags ||| fl, replies := [] }) s')) ∧
  (∀ (n : Nat) (s s' : State) (x : Transfer), s.thr.tr.find? (·.order == x.order) = some x →
    let stopped (memory : Bool) (c : BitVec 8) : State → State := modTransfer x.order fun y => { y with
      state := if memory then .stoppedMemory else .stoppedFault, cause := c, irq := y.irq || memory, replies := [], added := false,
      failed := false }
    -- a request of it met a memory error: it stops when the others are acknowledged
    (x.failed = true → runCopy x.order (n + 1) s = if copyOut s x.order then s else stopped true 0 s) ∧
    (x.failed = false → x.k < viewCount x.src →
      (∀ (c : BitVec 8) (v : Word), actFor (copyActing x) (copyElem x x.k) s = .error (.trap c v) s' →
        runCopy x.order (n + 1) s = if copyOut s x.order then s else stopped false c s') ∧
      (∀ a : Nat, actFor (copyActing x) (copyElem x x.k) s = .error (.fatal .memoryError a) s' →
        runCopy x.order (n + 1) s = if copyOut s x.order then s else stopped true 0 s') ∧
      (∀ q : Request, actFor (copyActing x) (copyElem x x.k) s = .error (.request q) s' →
        runCopy x.order (n + 1) s = sendRequest (copyActing x) q s))) ∧
  -- a whole sector goes with its descriptor
  (∀ (s s1 s2 : State) (x : Transfer) (l : Nat) (src : Word) (a b : Ref), x.converting = false →
    fmtBitPlane (shapeFmt x.dst) = false → wholeSector x (sectorVa (viewAddr x.dst l)) = some (l, src) →
    access .load x.kernel 64 src s = .ok a s1 → a.win = false → Here a s1 → Reaches .load a 64 s1 →
    access .store x.kernel 64 (sectorVa (viewAddr x.dst l)) s1 = .ok b s2 → Here b s2 → Reaches .store b 64 s2 →
    (∀ p ∈ s.packets, ownPacket s.thr p = false) →
    ∃ t, copyElem x l s = .ok 0 t ∧ t.thr = { s.thr with pages := t.thr.pages, acting := t.thr.acting } ∧ memRead t b.key (b.fpa / 64 * 64) 64 = memRead s1 a.key (a.fpa / 64 * 64) 64 ∧
      (sectorOf t (b.fpa / 64)).fmt = (sectorOf s1 (a.fpa / 64)).fmt ∧
      (sectorOf t (b.fpa / 64)).scale = (sectorOf s1 (a.fpa / 64)).scale ∧
      ∀ sec, sec ≠ b.fpa / 64 → sectorOf t sec = sectorOf s sec ∧ ∀ key i, i < 64 → memByte t key (64 * sec + i) = memByte s key (64 * sec + i)) ∧
  (∀ (s s1 s2 : State) (x : Transfer) (l : Nat) (a b : Ref), x.converting = false → fmtBitPlane (shapeFmt x.dst) = false →
    wholeSector x (sectorVa (viewAddr x.dst l)) = none →
    let n := copySize false (shapeFmt x.dst)
    access .load x.kernel n (viewAddr x.src l) s = .ok a s1 → a.win = false → Here a s1 → Reaches .load a n s1 →
    access .store x.kernel n (viewAddr x.dst l) s1 = .ok b s2 → Here b s2 → Reaches .store b n s2 →
    (∀ p ∈ s.packets, ownPacket s.thr p = false) →
    ∃ t, copyElem x l s = .ok 0 t ∧ t.thr = { s.thr with pages := t.thr.pages, acting := t.thr.acting } ∧
      Stored b.key b.fpa n (memRead s1 a.key a.fpa n) s t) ∧
  (∀ (s s1 : State) (x : Transfer) (l : Nat) (v : FpVal) (bad : Bool), x.converting = true → fmtRaw (shapeFmt x.dst) = true →
    fmtRaw (shapeFmt x.src) = false → readView x.kernel x.src (loadPlanes (shapeFmt x.src)) l s = .ok (.value v bad) s1 →
    let r := roundFp fp32 0 0 v
    ∀ t, storeElement x.kernel 4 (viewAddr x.dst l) r.1 s1 = .ok () t →
      copyElem x l s = .ok (r.2 ||| if v = .nan true then 0x01 else 0) t)

/-- A transfer whose elements have performed ORs its flags into `fflags`, adds INC to its counter, and ends with its NOTIFY entry,
in this order (R293, R295). The add is one read-modify-write at the counter's home; sent to another die, it is acknowledged before
the transfer ends. -/
def Sys2Proof.Claims.TransfersCompleteInOrder : Prop :=
  (∀ (id : BitVec 16) (s : State) (x : Transfer), s.thr.tr.find? (fun x => x.id == id && canComplete s x) = some x →
    x.flagged = true →
    (x.ctr = 0 → ∃ u, Ends x false s.thr u ∧ ∀ pre post, s.thr.tr = pre ++ x :: post →
      (∀ y ∈ pre ++ post, y.order ≠ x.order ∧ y.push = none) → (x.notify = true → (queueAt s.thr 7).length < 16) →
      exec (.transferCompletion id) s = .next (withThr s u)) ∧
    (x.ctr ≠ 0 → x.added = false → ∀ pre post, s.thr.tr = pre ++ x :: post → (∀ y ∈ pre ++ post, y.order ≠ x.order) →
      ∀ (c : BitVec 8) (v : Word) (s1 : State), actFor (copyActing x) (addToCounter x.kernel x.ctr x.inc) s = .error (.trap c v) s1 →
      exec (.transferCompletion id) s =
        .next (modTransfer x.order (fun y => { y with
          state := .stoppedFault, cause := c, replies := [], added := false, failed := false }) s1))) ∧
  (∀ (id : BitVec 16) (s s1 : State) (x : Transfer) (pre post : List Transfer), s.thr.tr = pre ++ x :: post →
    (∀ y ∈ pre ++ post, y.order ≠ x.order ∧ y.push = none) → (x.notify = true → (queueAt s.thr 7).length < 16) →
    s.thr.tr.find? (fun x => x.id == id && canComplete s x) = some x → x.flagged = false → x.ctr ≠ 0 → x.added = false →
    let x1 := { x with flagged := true }
    let u := { s.thr with u := { s.thr.u with fflags := s.thr.u.fflags ||| x.flags }, tr := pre ++ x1 :: post }
    actFor (copyActing x) (addToCounter x.kernel x.ctr x.inc) (withThr s u) = .ok () s1 → s1.thr = u →
    (copyOut s1 x.order = false → ∃ w, Ends x1 false u w ∧ exec (.transferCompletion id) s = .next (withThr s1 w)) ∧
    (copyOut s1 x.order = true →
      exec (.transferCompletion id) s = .next (withThr s1 { u with tr := pre ++ { x1 with added := true } :: post }))) ∧
  (∀ (km : Bool) (ctr inc : Word) (s s1 : State) (r : Ref), access .atomic km 8 ctr s = .ok r s1 → Here r s1 → Reaches .atomic r 8 s1 →
    NotHeld r.fpa 8 s1 → s.turn.residue = 0 → ∃ t, addToCounter km ctr inc s = .ok () t ∧
      t.thr = { s.thr with pages := t.thr.pages, acting := t.thr.acting } ∧
      Stored r.key r.fpa 8 ((memRead s r.key r.fpa 8 + inc.toNat) % 2 ^ 64) s t)

/-- The engine's work on a transfer, and its completion (R288, R293). -/
def Obligations.CopiesMoveAndComplete : Prop :=
  CopyUnitsMoveElements ∧ TransfersCompleteInOrder

/-- `ceresume`, `cecancel`, `cestat`, `ceprom` (R298, R299) on the transfer that S[ra][15:0] names: a stopped one restarts from k
with a new promise, a live one is cancelled unless its counter's add is on its way (log 97), its status is that of R299, its promise 0
unless it is live. On any other nothing happens, and the results are 0. -/
def Sys2Proof.Claims.CopyControlWords : Prop :=
  ∀ (ra : BitVec 7) (s s1 : State) (a : Word), s.thr.host = false → srcS ra = true → Reads ra s a s1 →
    let o := transferOf s.thr a
    (∀ rd : BitVec 7, dstS rd = true → ∀ s2,
      (∀ n, (∀ x, o = some x → ElemsPerformed s1 x n) → Writes rd (match o with | some x => transferStatus x n | none => 0) s1 s2 →
        exec (.cestat rd ra) s = .next (advance s2)) ∧
      (Writes rd (match o with | some x => if transferLive x then x.promise else 0 | none => 0) s1 s2 →
        exec (.ceprom rd ra) s = .next (advance s2))) ∧
    ((∀ x, o = some x → transferStopped x = false) → exec (.ceresume ra) s = .next (advance s1)) ∧
    ((∀ x, o = some x → transferLive x = false ∨ x.added = true) → exec (.cecancel ra) s = .next (advance s1)) ∧
    (∀ x, o = some x → transferStopped x = true →
      exec (.ceresume ra) s = .next (advance (withThr s1 { s1.thr with tr := s1.thr.tr.map fun y =>
        if y.order = x.order then { y with state := .running, cause := 0, promise := promiseOf s1 x, missed := false } else y }))) ∧
    (∀ x pre post, o = some x → transferLive x = true → x.added = false → s1.thr.tr = pre ++ x :: post →
      (∀ y ∈ pre ++ post, y.order ≠ x.order ∧ y.push = none) → (x.notify = true → (queueAt s1.thr 7).length < 16) →
      ∃ u, Ends x true s1.thr u ∧ exec (.cecancel ra) s = .next (advance (withThr s1 u)))

/-- Launching a copy, and the words that act on one (R287, R298, R299). -/
def Obligations.CopiesAreLaunchedAndControlled : Prop :=
  LaunchingACopy ∧ CopyControlWords

/-! ## Shape registers, waits, claim words, sets -/

namespace Sys2Proof.Claims

/-- The place and the width of a field of a shape register (R276, R278). -/
def shapeBits (c : Nat) : Nat × Nat :=
  if c = 0 then (0, 64) else if c < 7 then (64 * c, 16) else if c < 13 then (64 * (c - 7) + 80, 48)
  else [(448, 8), (456, 24), (480, 16), (496, 16)].getD (c - 13) (0, 0)

/-- A field as `tget` returns it. -/
def shapeValue (x : ShapeReg) (c : Nat) : Word :=
  let b := shapeBits c
  if 7 ≤ c ∧ c < 13 then ((x >>> b.1).setWidth 48).signExtend 64 else BitVec.ofNat 64 (x.toNat / 2 ^ b.1 % 2 ^ b.2)

/-- The values that `tset` takes. -/
def shapeLegal (c : Nat) (v : Word) : Prop :=
  c < 17 ∧ if 7 ≤ c ∧ c < 13 then -(2 : Int) ^ 47 ≤ v.toInt ∧ v.toInt < 2 ^ 47 else v.toNat < 2 ^ (shapeBits c).2

/-- The thread with another content of a shape register. -/
def withShape (n : Nat) (x : ShapeReg) (t : Thread) : Thread := { t with shp := vset t.shp n x }

/-- No older transfer of the thread on the counter has stopped, and no collective of the thread has failed. -/
def NothingFailed (a : Word) (s : State) : Prop :=
  (∀ x ∈ s.thr.tr, x.ctr = a → transferStopped x = false) ∧ ∀ f ∈ (myDie s).collFailures, f.owner ≠ threadId s.thr

/-- The promised tick of a running transfer has passed and no miss was delivered (R304). -/
def Late (x : Transfer) (s : State) : Prop := x.promise.toNat ≤ s.time ∧ x.missed = false

/-- The thread with MISSED set on a transfer. -/
def missedOn (x : Transfer) (t : Thread) : Thread :=
  { t with tr := t.tr.map fun y => if y.order = x.order then { y with missed := true } else y }

/-- A memory access of the scratchpad of the current Span. -/
def PadAt (off n : Nat) (s : State) : Prop := s.thr.place.span < 192 ∧ off < 2 ^ 20 ∧ off + n ≤ padLimit (mySpan s)

end Sys2Proof.Claims

/-- Shape instructions (R278, R279, R280): `tset` replaces one field and no other, `tget` returns one; `tldr` and `tstr` move the 64
bytes of a record; `vshp` converts the old layout in long mode. What R278 or R280 does not accept is *illegal operand*, a record
that is not 64-byte aligned *misaligned address*, with nothing changed. -/
def Obligations.ShapeWordsMoveFieldsAndRecords : Prop :=
  (∀ (rd ra rb : BitVec 7) (s s1 s2 : State) (v c : Word), s.thr.host = false → rd.toNat < 16 → srcS ra = true → srcS rb = true →
    Reads ra s v s1 → Reads rb s1 c s2 →
    (shapeLegal c.toNat v → ∃ x, exec (.tset rd ra rb) s = .next (advance (withThr s2 (withShape rd.toNat x s2.thr))) ∧
      ∀ k < 17, shapeValue x k = if k = c.toNat then v else shapeValue (vget s.thr.shp rd.toNat 0) k) ∧
    (¬ shapeLegal c.toNat v → exec (.tset rd ra rb) s = .next (takeTrap false 0x02 (failing (.tset rd ra rb)) s))) ∧
  (∀ (rd ra rb : BitVec 7) (s s1 s2 : State) (c : Word), s.thr.host = false → dstS rd = true → ra.toNat < 16 → srcS rb = true →
    Reads rb s c s1 →
    (c.toNat < 17 → Writes rd (shapeValue (vget s.thr.shp ra.toNat 0) c.toNat) s1 s2 →
      exec (.tget rd ra rb) s = .next (advance s2)) ∧
    (17 ≤ c.toNat → exec (.tget rd ra rb) s = .next (takeTrap false 0x02 (failing (.tget rd ra rb)) s))) ∧
  (∀ (rd ra : BitVec 7) (s s1 : State) (a : Word), s.thr.host = false → rd.toNat < 16 → srcS ra = true → Reads ra s a s1 →
    (a.toNat % 64 ≠ 0 → exec (.tldr rd ra) s = .next (takeTrap false 0x05 a s) ∧
      exec (.tstr rd ra) s = .next (takeTrap false 0x05 a s)) ∧
    (∀ off, a = BitVec.ofNat 64 (0x7FF00000000000 + off) → off % 64 = 0 → PadAt off 64 s → NothingOlder s →
      let f := fpaOf (myPeer s) s.thr.place.span 0 off
      exec (.tldr rd ra) s = .next (advance (withThr s1 (withShape rd.toNat (BitVec.ofNat 512 (memRead s 0 f 64)) s1.thr))) ∧
      ∃ t, exec (.tstr rd ra) s = .next (advance t) ∧ t.thr = s1.thr ∧
        Stored 0 f 64 (vget s.thr.shp rd.toNat 0).toNat s t) ∧
    (∀ x s2, loadRecord a s1 = .ok x s2 → exec (.tldr rd ra) s = .next (advance (withThr s2 (withShape rd.toNat x s2.thr)))) ∧
    (∀ c v s2, loadRecord a s1 = .error (.trap c v) s2 → exec (.tldr rd ra) s = .next (takeTrap false c v s))) ∧
  (∀ (rd ra : BitVec 7) (s : State), s.thr.host = false → rd.toNat < 16 → ra.toNat < 48 →
    (s.thr.v.long = none → exec (.vshp rd ra) s = .next (takeTrap false 0x03 (failing (.vshp rd ra)) s)) ∧
    (s.thr.v.long.isSome = true → s.thr.v.vq = [] → s.thr.v.nbq = [] →
      let e (k : Nat) : Word := elemOf (vreg s.thr true ra.toNat) 64 k
      ((∀ k < 13, shapeLegal k (e k)) → ∃ x, exec (.vshp rd ra) s = .next (advance (withThr s (withShape rd.toNat x s.thr))) ∧
        (∀ k < 13, shapeValue x k = e k) ∧ ∀ k, 13 ≤ k → k < 17 → shapeValue x k = 0) ∧
      ((∃ k < 13, ¬ shapeLegal k (e k)) → exec (.vshp rd ra) s = .next (takeTrap false 0x02 (failing (.vshp rd ra)) s))))

/-- `waitge`, `waitt`, `waitp` (R302, R304, R297): they complete where what they wait for has come, the first and the last as an
acquire of pod scope, and sleep otherwise; a stopped transfer is *transfer fault*, a promise that passes *missed promise*, once. A
counter on another die is asked for (R307); that the watcher of R303 sees it at its home without a request is the model's (log 46). -/
def Obligations.WaitsSleepUntilTheirEvent : Prop :=
  (∀ (ra rb : BitVec 7) (s s1 s2 s3 s4 : State) (a b : Word) (r0 r : Ref), srcS ra = true → srcS rb = true → Reads ra s a s1 →
    Reads rb s1 b s2 → Granted .load 8 a s2 r0 s3 → NothingFailed a s3 → Unheld a 8 false s3 → Granted .load 8 a s3 r s4 →
    let ends (v : Nat) : Prop :=
      (b.toNat ≤ v → exec (.waitge ra rb) s = .next (advance (copiesRemoved 3 s4))) ∧
      (v < b.toNat → exec (.waitge ra rb) s = .next (park (.waitge a b) (withThr s { s.thr with replies := [], pages := [] })))
    (Here r s4 → Reaches .load r 8 s4 → ends (memRead s4 r.key r.fpa 8)) ∧
    (Away r s4 → (s.thr.replies = [] → exec (.waitge ra rb) s = .next (asked ⟨{ r with win := false }, 8, .load 8⟩ s s4)) ∧
      ∀ x, s.thr.replies = [x] → x.loc = r.fpa → x.code = false → ends (x.val % 2 ^ 64))) ∧
  (∀ (ra rb : BitVec 7) (s s1 s2 s3 : State) (a b : Word) (r : Ref) (x : Transfer), srcS ra = true → srcS rb = true →
    Reads ra s a s1 → Reads rb s1 b s2 → Granted .load 8 a s2 r s3 →
    s3.thr.tr.find? (fun y => y.ctr == a && transferStopped y) = some x →
    exec (.waitge ra rb) s = .next (takeTrap false 0x0B (BitVec.ofNat 64 (x.id.toNat + 65536 * x.k)) s)) ∧
  (∀ (ra : BitVec 7) (s s1 : State) (a : Word), srcS ra = true → Reads ra s a s1 →
    (a.toNat ≤ s.time → exec (.waitt ra) s = .next (advance s1)) ∧
    (s.time < a.toNat → exec (.waitt ra) s = .next (park (.waitt a) s))) ∧
  (∀ (ra : BitVec 7) (s s1 : State) (a : Word), s.thr.host = false → srcS ra = true → Reads ra s a s1 →
    ((∀ x, transferOf s.thr a = some x → x.state = .complete ∨ x.state = .cancelled) →
      exec (.waitp ra) s = .next (advance (copiesRemoved 3 s1))) ∧
    (∀ x, transferOf s.thr a = some x →
      (x.state = .running → Late x s → exec (.waitp ra) s = .next (takeTrap false 0x0C (x.id.setWidth 64) (withThr s (missedOn x s.thr)))) ∧
      (x.state = .running → ¬ Late x s → exec (.waitp ra) s = .next (park (.waitp x.id) s)) ∧
      (transferStopped x = true →
        exec (.waitp ra) s = .next (takeTrap false 0x0B (BitVec.ofNat 64 (x.id.toNat + 65536 * x.k)) s)))) ∧
  -- the wakes (R303)
  (∀ (s : State) (a b : Word), s.thr.wait = some (.waitge a b) →
    (∀ r s1, Granted .load 8 a s r s1 → b.toNat ≤ memRead s r.key r.fpa 8 →
      exec .waitgeWake s = .next (withThr s { s.thr with wait := none })) ∧
    (∀ c v s1, access .load s.thr.k.km 8 a s = .error (.trap c v) s1 →
      exec .waitgeWake s = .next (withThr s { s.thr with wait := none })) ∧
    (NothingFailed a s → ∀ r s1, Granted .load 8 a s r s1 → memRead s r.key r.fpa 8 < b.toNat →
      exec .waitgeWake s = .fault .notEnabled)) ∧
  (∀ (s : State) (a : Word), s.thr.wait = some (.waitt a) →
    (a.toNat ≤ s.time → exec .waittWake s = .next (withThr s { s.thr with wait := none })) ∧
    (s.time < a.toNat → exec .waittWake s = .fault .notEnabled)) ∧
  (∀ (s : State) (id : BitVec 16) (x : Transfer), s.thr.wait = some (.waitp id) → transferOf s.thr (id.setWidth 64) = some x →
    (x.state ≠ .running → exec .waitpWake s = .next (withThr s { s.thr with wait := none })) ∧
    (x.state = .running → Late x s →
      exec .missedPromise s = .next (takeTrap false 0x0C (x.id.setWidth 64) (withThr s (missedOn x s.thr)))))

/-- `claim` and `claimt` (R359, R360): the units claimed move `next`, in one access of the word; the old `next`, or the record
found, goes to rd and the count to `vl`. Of a tile list the first record with rows is taken; an exhausted list gives the limit
and `vl` 0. A word that fails its checks traps with nothing changed, and either waits while another `claimt` holds the word. A word on
another die is asked, by a `claimt` once to hold it and once to release it with the new `next` (R307, R312; that the words execute again
with the replies is the model's, log 46). -/
def Obligations.ClaimsTakeWork : Prop :=
  ∀ (rd ra rb : BitVec 7) (s s1 s2 s3 : State) (a b : Word) (r : Ref), s.thr.host = false → dstS rd = true → srcS ra = true →
    srcS rb = true → Reads ra s a s1 → Reads rb s1 b s2 → Room rd s2 →
    (∀ c v u, checkClaim a s2 = .error (.trap c v) u →
      exec (.claim rd ra rb) s = .next (takeTrap false c v s) ∧ exec (.claimt rd ra rb) s = .next (takeTrap false c v s)) ∧
    (checkClaim a s2 = .ok r s3 → Unheld a 16 true s3 →
      let top := vlmaxAt s.thr s.thr.u.vtype
      (Here r s3 → ¬ NotHeld r.fpa 16 s3 → exec (.claim rd ra rb) s = .next (park .other s) ∧
        (b.toNat % 16 = 0 → exec (.claimt rd ra rb) s = .next (park .other s))) ∧
      (Here r s3 → Reaches .atomic r 16 s3 → NotHeld r.fpa 16 s3 →
        let word := memRead s3 r.key r.fpa 16
        let next := word % 2 ^ 64
        let limit := word / 2 ^ 64
        let gives (i : Instr) (t : State) (res vl : Nat) : Prop :=
          t.thr = { s2.thr with u := { s2.thr.u with vl := BitVec.ofNat 11 vl } } ∧
            ∀ t', Writes rd (BitVec.ofNat 64 res) t t' → exec i s = .next (advance t')
        let g := if next < limit then min (min b.toNat top) (limit - next) else 0
        let kept (u : State) : Prop := SameMemory s3 u ∧ u.thr = { s3.thr with pages := u.thr.pages }
        (∃ t, Stored r.key r.fpa 8 ((next + g) % 2 ^ 64) s t ∧ gives (.claim rd ra rb) t next g) ∧
        (b.toNat % 16 = 0 → ∀ (rows : Nat → Nat) (j : Nat) (s4 : State), next ≤ j → j < limit →
          Runs (recordRows b) (List.range' next (j + 1 - next)) s3 rows s4 → (∀ k, next ≤ k → k < j → rows k = 0) → rows j ≠ 0 →
          kept s4 →
          ∃ t, Stored r.key r.fpa 8 ((j + 1) % 2 ^ 64) s t ∧ gives (.claimt rd ra rb) t j (min (rows j) top)) ∧
        (b.toNat % 16 = 0 → ∀ s4, Runs (recordRows b) (List.range' next (limit - next)) s3 (fun _ => 0) s4 → kept s4 →
          ∃ t, (if next < limit then Stored r.key r.fpa 8 (limit % 2 ^ 64) s t else SameMemory s t) ∧
            gives (.claimt rd ra rb) t (max next limit) 0)) ∧
      -- a claim word on another die
      (Away r s3 →
        (s.thr.replies = [] →
          exec (.claim rd ra rb) s = .next (asked ⟨r, 16, .fetch (.claim (min b.toNat top))⟩ s s3) ∧
          (b.toNat % 16 = 0 → exec (.claimt rd ra rb) s = .next (asked ⟨r, 16, .hold⟩ s s3))) ∧
        ∀ x more, s.thr.replies = x :: more → (∀ y ∈ x :: more, y.loc = r.fpa ∧ y.code = false) →
          let next := x.val % 2 ^ 64
          let limit := x.val / 2 ^ 64
          let g := if next < limit then min (min b.toNat top) (limit - next) else 0
          let left (u : State) (vl : Nat) : State :=
            withThr (l1Remove r.fpa 16 u) { s2.thr with replies := [], u := { s2.thr.u with vl := BitVec.ofNat 11 vl } }
          (more = [] → ∀ t, Writes rd (BitVec.ofNat 64 next) (left s3 g) t → exec (.claim rd ra rb) s = .next (advance t)) ∧
          (b.toNat % 16 = 0 → ∀ (rows : Nat → Nat) (j : Nat) (s4 : State), next ≤ j → j < limit →
            Runs (recordRows b) (List.range' next (j + 1 - next)) (withThr s3 { s3.thr with replies := more }) rows s4 →
            (∀ k, next ≤ k → k < j → rows k = 0) → rows j ≠ 0 → s4.thr.replies = more →
            (more = [] →
              exec (.claimt rd ra rb) s = .next (asked ⟨r, 16, .release (some (BitVec.ofNat 64 (j + 1)))⟩ s s4)) ∧
            (∀ y t, more = [y] → Writes rd (BitVec.ofNat 64 j) (left s4 (min (rows j) top)) t →
              exec (.claimt rd ra rb) s = .next (advance t)))))

/-- `gjoin`, `gleave`, `gbar` (R362, R363): a thread joins a set that is not in progress, or creates it; it leaves, and an empty
set is destroyed; arriving, it waits until every member has arrived, when the generation completes: the set word rises by 1 and
every member departs, as an acquire of die scope. A barrier of no member, and a fifth set, is *illegal operand*. -/
def Obligations.SetsAndTheirBarriers : Prop :=
  (∀ (ra : BitVec 7) (s s1 s2 : State) (a : Word) (r : Ref), s.thr.host = false → srcS ra = true → Reads ra s a s1 →
    setWord a s1 = .ok r s2 →
    let me := threadId s.thr
    let x := setAt s2 (myPeer s) r.fpa
    (isMember s2 r.fpa = true → exec (.gjoin ra) s = .next (advance s2)) ∧
    (isMember s2 r.fpa = false →
      (4 ≤ memberships s2 → exec (.gjoin ra) s = .next (takeTrap false 0x02 (failing (.gjoin ra)) s)) ∧
      (memberships s2 < 4 →
        (∀ y, x = some y → y.arrived = [] → exec (.gjoin ra) s = .next (advance (putSet (myPeer s) r.fpa
          { y with members := y.members ++ [me] } s2))) ∧
        (∀ y, x = some y → y.arrived ≠ [] → exec (.gjoin ra) s = .next (park .other s)) ∧
        (x = none → (myDie s2).sets.length < 4096 →
          exec (.gjoin ra) s = .next (advance (putSet (myPeer s) r.fpa ⟨r.key, [me], [], []⟩ s2))))) ∧
    (∃ t, exec (.gleave ra) s = .next (advance t) ∧ t.thr = s1.thr ∧ SameMemory s t ∧
      match x with
      | some y => let left := y.members.filter (· != me)
        setAt t (myPeer s) r.fpa = if left = [] then none
          else some { y with members := left, arrived := y.arrived.filter (· != me), departing := y.departing.filter (· != me) }
      | none => setAt t (myPeer s) r.fpa = none) ∧
    (isMember s2 r.fpa = false → exec (.gbar ra) s = .next (takeTrap false 0x02 (failing (.gbar ra)) s)) ∧
    (∀ y, x = some y → me ∈ y.members →
      (me ∉ y.departing → NothingOlder s2 → exec (.gbar ra) s = .next (putSet (myPeer s) r.fpa
        { y with arrived := if me ∈ y.arrived then y.arrived else y.arrived ++ [me] }
        (withThr s2 { s.thr with wait := some (.gbar r.fpa) }))) ∧
      (me ∈ y.departing → exec (.gbar ra) s = .next (advance (copiesRemoved 1 (putSet (myPeer s) r.fpa
        { y with departing := y.departing.filter (· != me) } s2)))))) ∧
  (∀ (peer f : Nat) (s : State) (x : SetRec), setAt s peer f = some x →
    (x.members ≠ [] → (∀ m ∈ x.members, m ∈ x.arrived) → ∃ t, exec (.generationComplete peer f) s = .next t ∧
      setAt t peer f = some { x with arrived := [], departing := x.members } ∧
      Stored x.key f 8 ((memRead s x.key f 8 + 1) % 2 ^ 64) s t ∧
      (s.thr.status = .running → s.thr.wait = some (.gbar f) → s.thr.place.peer = peer → t.thr = { s.thr with wait := none })) ∧
    ((∃ m ∈ x.members, m ∉ x.arrived) → exec (.generationComplete peer f) s = .fault .notEnabled))

/-! ## Launches, the schedulers, contexts -/

namespace Sys2Proof.Claims

/-- An entry as a valid record makes it (R342 to R346, R369): the record's fields, the locations its addresses resolved to,
the issuer's context. -/
def Accepts (x : BitVec 512) (k : KernelCsrs) (order : Nat) (dep done claim : Option Phys) (l : Launch) : Prop :=
  l.entry = x.extractLsb' 0 64 ∧ l.arg = x.extractLsb' 64 64 ∧ l.threads = (x.extractLsb' 128 32).toNat ∧
    l.part = x.extractLsb' 160 32 ∧ l.place = x.extractLsb' 192 48 &&& k.kplace ∧ l.gang = x.getLsbD 240 ∧
    l.tpsm = (x.extractLsb' 241 3).toNat ∧ l.prio = min (x.extractLsb' 248 8).toNat k.kprio.toNat ∧
    l.depTarget = (x.extractLsb' 320 48).toNat ∧ l.doneInc = (x.extractLsb' 368 16).toNat ∧
    l.order = order ∧ l.dep = dep ∧ l.done = done ∧ l.claim = claim ∧ l.held = dep.isSome ∧
    l.ctx = ⟨k.ctxid, k.ktvec, k.ptbr, k.keysel, k.kprio, k.kplace, k.kvqbase, k.ktenant⟩ ∧
    l.next = 0 ∧ l.live = [] ∧ l.saved = [] ∧ l.chosen = [] ∧ l.cancelled = false ∧ l.failed = false ∧ l.stopped = false

/-- The address fields of a record resolve, under the checks of R344. -/
def Resolves (x : BitVec 512) (km : Bool) (s s' : State) (dep done claim : Option Phys) : Prop :=
  ∃ s1 s2, physOf (access .load km 8) (x.extractLsb' 256 64) s = .ok dep s1 ∧
    physOf (access .store km 16) (x.extractLsb' 384 64) s1 = .ok done s2 ∧
    physOf checkClaimReset (x.extractLsb' 448 64) s2 = .ok claim s'

/-- The entry that the number and the coordinator name. -/
def entryOf (s : State) (peer entry : Nat) : Option Launch := nget (dieOf s peer).queue entry

/-- The state with an entry changed. -/
def withEntry (peer entry : Nat) (l : Launch) (s : State) : State :=
  modDie peer (fun d => { d with queue := nset d.queue entry l }) s

/-- The thread has nothing outstanding that `exit` waits for (R357). -/
def Finished (s : State) : Prop :=
  s.thr.v.vq = [] ∧ s.thr.v.nbq = [] ∧ s.thr.tq = [] ∧ s.thr.u.mstat.getLsbD 5 = false ∧
    (∀ f ∈ (myDie s).collFailures, f.owner ≠ threadId s.thr) ∧ (∀ c ∈ (myDie s).colls, c.owner ≠ threadId s.thr) ∧
    ∀ p ∈ s.packets, ownPacket s.thr p = false

/-- A thread of an entry as dispatch makes it (R70, R110, R350, R369, R371, R390): what the launch gives it, the other global and
windowed registers 0, and all else as `AtDispatchValues` says. -/
def StartsAs (e : PackageEntry) (tid : Nat) (p : Place) (u : Thread) : Prop :=
  AtDispatchValues u ∧ u.place = p ∧ u.status = .running ∧ u.host = false ∧ u.pc = e.l.entry ∧ scalar u 3 = e.l.arg ∧
    scalar u 4 = BitVec.ofNat 64 tid ∧ (∀ k < 8, k ≠ 3 → k ≠ 4 → vget u.sc.globals k 0 = 0) ∧ (∀ k < 448, vget u.sc.win k 0 = 0) ∧
    u.u.tid = BitVec.ofNat 64 tid ∧ u.u.nthr = BitVec.ofNat 64 e.l.threads ∧ u.u.lid = handleOf e.entry (e.peer % 4) e.l.gen ∧
    u.u.arg = e.l.arg ∧ u.u.part = e.l.part ∧ u.k.ctxid = e.l.ctx.ctxid ∧ u.k.ktvec = e.l.ctx.ktvec ∧ u.k.ptbr = e.l.ctx.ptbr ∧
    u.k.keysel = e.l.ctx.keysel ∧ u.k.kprio = e.l.ctx.kprio ∧ u.k.kplace = e.l.ctx.kplace ∧ u.k.kvqbase = e.l.ctx.kvqbase ∧
    u.k.ktenant = e.l.ctx.ktenant ∧ u.k.kvq = vqBlock e.l.ctx.kvqbase p

/-- The claim word that has to be reset before the first thread lies under no erased key slot. -/
def ClaimSound (l : Launch) (s : State) : Prop := ∀ p, l.claim = some p → l.next = 0 → keyErased s p.key p.fpa = false

/-- Before the first thread of a launch with a claim word its `next` becomes 0; memory is else as before (R350). -/
def ClaimReset (l : Launch) (s t : State) : Prop :=
  match l.claim with
  | some p => if l.next = 0 then Stored p.key p.fpa 8 0 s t else SameMemory s t
  | none => SameMemory s t

/-- No `claimt` holds a word that the report of a launch touches (R360). -/
def ReportFree (done : Option Phys) (s : State) : Prop :=
  ∀ p, done = some p → ∀ x ∈ (dieOf s (fpaPeer p.fpa)).claims, ¬ (p.fpa < x.1 + 16 ∧ x.1 < p.fpa + 16)

end Sys2Proof.Claims

/-- `launch` (R342 to R345): an invalid record is *illegal operand*; a valid one, its addresses checked and nothing older
outstanding, enters the coordinator's queue under a new handle, which rd receives; with no Span that fits it is rejected with
handle 0, its report made as that of die 0 where its place names no Pier (log 54), once no `claimt` holds the report's words; while
the queue is full it waits. `cancel` posts a cancel for its package; a thread that names its own live launch does not complete it. -/
def Obligations.LaunchesEnterTheQueue : Prop :=
  (∀ (rd ra : BitVec 7) (s s1 s2 : State) (a : Word) (x : BitVec 512), Executes (.launch rd ra) s → dstS rd = true → srcS ra = true →
    Reads ra s a s1 → Room rd s1 → loadRecord a s1 = .ok x s2 →
    (recordOk x = false → exec (.launch rd ra) s = .next (takeTrap false 0x02 (failing (.launch rd ra)) s)) ∧
    (∀ (s3 : State) (dep done claim : Option Phys), recordOk x = true → Resolves x s.thr.k.km s2 s3 dep done claim → NothingOlder s3 →
      let place := x.extractLsb' 192 48 &&& s.thr.k.kplace
      let fit := (fitSpans s3 (myNode s) place (x.extractLsb' 160 32)).length
      let peer := 4 * myNode s + coordinator place
      let few := fit = 0 ∨ (x.getLsbD 240 = true ∧ ((x.extractLsb' 241 3).toNat + 1) * fit < (x.extractLsb' 128 32).toNat)
      ∃ l, Accepts x s.thr.k s3.fresh dep done claim l ∧ l.gen = (dieOf s3 peer).accepted ∧
        (few → ReportFree done s3 → ∀ s4, Writes rd 0 s3 s4 →
          exec (.launch rd ra) s = .next (advance (reportLaunch peer l 8 s4))) ∧
        (few → ¬ ReportFree done s3 → exec (.launch rd ra) s = .next (park .other s)) ∧
        (¬ few → freeEntry (dieOf s3 peer) l.prio = none → exec (.launch rd ra) s = .next (park .other s)) ∧
        (¬ few → ∀ i, freeEntry (dieOf s3 peer) l.prio = some i → ∀ s4,
          Writes rd (handleOf i (peer % 4) l.gen) (modDie peer (fun d => { d with
            queue := nset d.queue i l, accepted := if d.accepted + 1 < 2 ^ 48 then d.accepted + 1 else 1 }) { s3 with fresh := s3.fresh + 1 }) s4 →
          exec (.launch rd ra) s = .next (advance s4)))) ∧
  (∀ (ra : BitVec 7) (s s1 : State) (h : Word), Executes (.cancel ra) s → srcS ra = true → Reads ra s h s1 →
    let c := (h, s.thr.k.ctxid)
    let posted (u : State) : State :=
      modPkg (myNode s) (fun p => { p with cancels := if c ∈ p.cancels then p.cancels else p.cancels ++ [c] }) u
    (s.thr.host = true ∨ h ≠ s.thr.u.lid → exec (.cancel ra) s = .next (advance (posted s1))) ∧
    (∀ l, s.thr.host = false → h = s.thr.u.lid → launchOf s (myNode s) h = some l → l.ctx.ctxid = s.thr.k.ctxid →
      exec (.cancel ra) s = .next (park .other (posted s))))

/-- `exit` and `yield` (R357, R358): once nothing of the thread is outstanding it ends, leaves its sets, and its launch counts it
no more; a stopped transfer is *transfer fault*, a running one is waited for. `yield` asks for pre-emption where another entry
waits for the thread's Span, the request's tick kept (R352), and else only goes on. -/
def Obligations.ExitAndYield : Prop :=
  (∀ s : State, s.thr.host = false → s.thr.status = .running → Finished s →
    ((∀ x ∈ s.thr.tr, transferLive x = false) → ∃ t, exec .exit s = .next t ∧ t.thr.status = .ended ∧ SameMemory s t ∧
      (∀ x ∈ (myDie t).sets, threadId s.thr ∉ x.2.members) ∧
      ∀ l, launchOf t (myNode s) s.thr.u.lid = some l → s.thr.u.tid ∉ l.live) ∧
    (∀ x, s.thr.tr.find? transferStopped = some x →
      exec .exit s = .next (takeTrap false 0x0B (BitVec.ofNat 64 (x.id.toNat + 65536 * x.k)) s)) ∧
    ((∀ x ∈ s.thr.tr, transferStopped x = false) → (∃ x ∈ s.thr.tr, x.state = .running) →
      exec .exit s = .next (park .other s))) ∧
  (∀ s : State, s.thr.host = false →
    let own := launchOf s (myNode s) s.thr.u.lid
    ((∀ l, own = some l → l.gang = true ∨ yieldTo s s.thr.u.lid l = false) → exec .yield s = .next (advance s)) ∧
    (∀ l, own = some l → l.gang = false → yieldTo s s.thr.u.lid l = true →
      exec .yield s = .next (advance (withThr s { s.thr with yielded := some s.time, k := { s.thr.k with ip0 := true } }))))

/-- The schedulers (R347 to R356, R386, R387): a dependence that is met releases its entry; placement chooses eligible Spans, or
else pre-empts; a Span starts with its tiles Z, a die's Spans in their ramp; dispatch makes the next thread, of a GANG launch all
threads together, with its registers, the claim word's `next` 0 before the first; a saved thread is dispatched again in the
kernel; a victim that is not saved 20 µs after the request is terminated; a launch with no thread left is reported and its entry
freed; a cancel stops its launch. An access of theirs under an erased key slot ends the context (R402, log 42), and the report of
a launch waits while a `claimt` holds its words (R360). -/
def Sys2Proof.Claims.SchedulersRun : Prop :=
  (∀ (peer i : Nat) (s : State) (l : Launch), entryOf s peer i = some l →
    let e : PackageEntry := ⟨peer, i, l⟩
    (∀ p, l.dep = some p → l.held = true → l.stopped = false → keyErased s p.key p.fpa = true →
      exec (.dependenceMet peer i) s = .next (fatalContext .targetFault peer l.ctx.ctxid none p.fpa s)) ∧
    (∀ p, l.dep = some p → l.held = true → l.stopped = false → keyErased s p.key p.fpa = false →
      (l.depTarget ≤ memRead s p.key p.fpa 8 → exec (.dependenceMet peer i) s = .next (withEntry peer i { l with held := false } s)) ∧
      (memRead s p.key p.fpa 8 < l.depTarget → exec (.dependenceMet peer i) s = .fault .notEnabled)) ∧
    (∀ c, nextPlacement s (peer / 4) = some (e, c) →
      exec (.placement peer) s = .next (withEntry peer i { l with chosen := l.chosen ++ c } s) ∧
      (l.gang = true → l.saved = [] → c.length = (l.threads + l.tpsm) / (l.tpsm + 1)) ∧ (l.gang = false → c.length = 1) ∧
      ∀ x ∈ c, x.since = s.time ∧ x.peer / 4 = peer / 4 ∧ l.place.getLsbD (12 * (x.peer % 4) + x.span / 16) = true ∧
        4 * (partNctx l.part + partNtile l.part) ≤ (spanOf s x.peer x.span).poolcap ∧ (spanOf s x.peer x.span).launch = none) ∧
    -- dispatch of a STREAM launch, thread by thread, and of a GANG launch
    (∀ p, canDispatch s e = true → l.claim = some p → l.next = 0 → keyErased s p.key p.fpa = true →
      exec (.dispatch peer i) s = .next (fatalContext .targetFault peer l.ctx.ctxid none p.fpa s)) ∧
    (∀ x slot, canDispatch s e = true → ClaimSound l s → l.gang = false → dispatchPlan s e = [(l.next, x)] → freeSlot s x.1 x.2 = some slot →
      ∃ t u l', exec (.dispatch peer i) s = .next t ∧ ClaimReset l s t ∧ u ∈ allThreads t ∧ StartsAs e l.next ⟨x.1, x.2, slot⟩ u ∧
        entryOf t peer i = some l' ∧ l'.next = l.next + 1 ∧ l'.live = l.live ++ [BitVec.ofNat 64 l.next]) ∧
    (canDispatch s e = true → ClaimSound l s → l.gang = true → l.tpsm < 8 → l.threads ≤ (l.tpsm + 1) * l.chosen.length →
      (l.chosen.map fun c => (c.peer, c.span)).Nodup → (∀ c ∈ l.chosen, ∀ k < 8, threadAt s ⟨c.peer, c.span, k⟩ = none) →
      ∃ t l', exec (.dispatch peer i) s = .next t ∧ ClaimReset l s t ∧ entryOf t peer i = some l' ∧ l'.next = l.threads ∧
        l'.live = l.live ++ (List.range l.threads).map (BitVec.ofNat 64) ∧
        ∀ k < l.threads, ∀ c, l.chosen[k / (l.tpsm + 1)]? = some c →
          ∃ u ∈ allThreads t, StartsAs e k ⟨c.peer, c.span, k % (l.tpsm + 1)⟩ u) ∧
    (∀ c v slot, l.stopped = false → nextRestore s e = some (c, v) → freeSlot s c.peer c.span = some slot →
      ∃ t u, exec (.threadRestore peer i) s = .next t ∧ u ∈ allThreads t ∧ u.place = ⟨c.peer, c.span, slot⟩ ∧ u.status = .running ∧
        u.pc = l.ctx.ktvec ∧ u.k.km = true ∧ u.k.kcause = 0x80 ∧ u.k.kval = 1 ∧ u.k.ksave = v.area ∧ u.u.tid = v.tid ∧
        u.u.lid = handleOf i (peer % 4) l.gen ∧ (spanOf t c.peer c.span).l1 = [] ∧ (dieOf t c.peer).window = [] ∧ (slot < 8 → vget (spanOf t c.peer c.span).hmsg slot HostMsg.empty = v.msg) ∧
        ∃ l', entryOf t peer i = some l' ∧ l'.live = l.live ++ [v.tid] ∧ ∀ y ∈ l'.saved, y.tid ≠ v.tid) ∧
    (launchEnds s peer i l = true → l.done = none →
      ∃ t, exec (.launchCompletion peer i) s = .next t ∧ entryOf t peer i = none ∧ SameMemory s t) ∧
    (launchEnds s peer i l = true → ¬ ReportFree l.done s → exec (.launchCompletion peer i) s = .fault .notEnabled) ∧
    (∀ p, launchEnds s peer i l = true → l.done = some p → ReportFree l.done s → fpaPeer p.fpa = peer → fpaPeer (p.fpa + 8) = peer →
      (∀ a ∈ [p.fpa, p.fpa + 8], keyErased s p.key a = false ∧ memoryBad s .atomic a 8 = false) → s.turn.residue = 0 →
      ∃ t, exec (.launchCompletion peer i) s = .next t ∧ entryOf t peer i = none ∧
        memRead t p.key p.fpa 8 = (memRead s p.key p.fpa 8 + l.doneInc) % 2 ^ 64 ∧
        memRead t p.key (p.fpa + 8) 8 % 8 = (memRead s p.key (p.fpa + 8) 8 % 8) |||
          ((if l.cancelled then 2 else 0) + (if l.failed then 4 else 0) + (if l.cancelled || l.failed then 0 else 1)))) ∧
  (∀ (peer span : Nat) (s : State), span < 192 →
    (∀ e : PackageEntry, mayStart s (peer, span) = true → chooser s (peer, span) = some e → s.turn.fails = [] →
      ∃ t, exec (.spanStart peer span) s = .next t ∧ t.thr = s.thr ∧
        let x := spanOf t peer span
        x.launch = some (handleOf e.entry (e.peer % 4) e.l.gen, e.l.part) ∧ x.started = true ∧ x.preempted = none ∧ x.l1 = [] ∧
          x.rate = (dieOf s peer).clock ∧
          x.poolcap = (spanOf s peer span).poolcap ∧ ∀ a, tileOf x a = ⟨.z, []⟩) ∧
    (mayRamp s (peer, span) = true → s.turn.fails = [] → ∃ t, exec (.spanStart peer span) s = .next t ∧ t.thr = s.thr ∧
      spanOf t peer span = { spanOf s peer span with started := true, stopped := false, rate := (dieOf s peer).clock } ∧
      nget (dieOf t peer).pierStart (span / 16) = some s.time) ∧
    (∀ last, nget (dieOf s peer).pierStart (span / 16) = some last → s.time < last + 20 →
      exec (.spanStart peer span) s = .fault .notEnabled) ∧
    (∀ r, (dieOf s peer).ramp = some r → s.time < r + 5 * (span / 16) → exec (.spanStart peer span) s = .fault .notEnabled)) ∧
  (∀ (peer span : Nat) (s : State),
    let there (u : Thread) : Prop := u ∈ allThreads s ∧ u.status = .running ∧ u.host = false ∧ u.place.peer = peer ∧ u.place.span = span
    let due (u : Thread) : Prop := there u ∧ ((∃ r, (spanOf s peer span).preempted = some r ∧ r + 20000 ≤ s.time) ∨
      ∃ r, u.yielded = some r ∧ r + 20000 ≤ s.time)
    ((∃ u, due u) → ∃ t, exec (.victimTermination peer span) s = .next t ∧ SameMemory s t ∧
      ∀ u, due u → ∀ w ∈ allThreads t, w.status = .running → w.host = false → w.place ≠ u.place) ∧
    ((¬ ∃ u, due u) → exec (.victimTermination peer span) s = .fault .notEnabled)) ∧
  (∀ (node : Nat) (h : Word) (ctx : BitVec 16) (s : State),
    (s.pkgs.find? fun p => p.2.cancels.contains (h, ctx)).map (·.1) = some node →
    ∃ t, exec (.cancelArrival h ctx) s = .next t ∧ SameMemory s t ∧
      ∀ l, launchOf s node h = some l → l.ctx.ctxid = ctx →
        (∃ l', launchOf t node h = some l' ∧ l'.cancelled = true ∧ l'.stopped = true ∧ l'.saved = []) ∧
        ∀ u ∈ allThreads t, u.status = .running → u.host = false → u.place.peer / 4 = node → u.u.lid ≠ h) ∧
  (∀ (peer span slot g : Nat) (s : State), grantable s peer span = some (slot, g) →
    ∃ t, exec (.longModeGrant peer span) s = .next t ∧ SameMemory s t ∧
      (spanOf t peer span).waiters = (spanOf s peer span).waiters.tail ∧
      (s.thr.status = .running → s.thr.place = ⟨peer, span, slot⟩ → t.thr = { inLongMode g s.thr with wait := none }))

/-- Pre-emption (R352): where nothing can be placed, the coordinator requests it of the fewest Spans that let the first such entry
of its own be placed: whole victims, of priority p − 2 or lower, in the order of lowest priority, STREAM before GANG, latest
accepted, highest Span number; every thread of such a Span gets interrupt 0x80 pending. -/
def Sys2Proof.Claims.PreemptionTakesTheFewest : Prop :=
  (∀ (s : State) (e : PackageEntry),
    ((victims s e).Pairwise fun a b => a.2.prio < b.2.prio ∨ a.2.prio = b.2.prio ∧ (a.2.gang = false ∧ b.2.gang = true ∨
      a.2.gang = b.2.gang ∧ (b.2.order < a.2.order ∨ a.2.order = b.2.order ∧ spanKey b.1.1 b.1.2 ≤ spanKey a.1.1 a.1.2))) ∧
    (∀ x l, (x, l) ∈ victims s e → l.prio + 2 ≤ e.l.prio ∧ occupant s x = some l ∧ (spanOf s x.1 x.2).preempted = none ∧
      e.l.place.getLsbD (12 * (x.1 % 4) + x.2 / 16) = true ∧ x.1 / 4 = e.peer / 4) ∧
    (∀ v, fewestVictims s e = some v → placeableWith s e [] = false ∧ placeableWith s e v = true ∧
      (∃ us, List.Sublist us (victimUnits s e) ∧ v = List.flatten us) ∧
      ∀ ws, List.Sublist ws (victimUnits s e) → placeableWith s e (List.flatten ws) = true → v.length ≤ (List.flatten ws).length)) ∧
  (∀ (peer : Nat) (s : State) (h : Word) (v : List (Nat × Nat)), nextPlacement s (peer / 4) = none → nextVictims s peer = some (h, v) →
    (∃ e : PackageEntry, e ∈ packageEntries s (peer / 4) ∧ e.peer = peer ∧ h = handleOf e.entry (peer % 4) e.l.gen ∧
      fewestVictims s e = some v) ∧
    ∃ t, exec (.placement peer) s = .next t ∧ SameMemory s t ∧ ∀ x ∈ v, ∀ u ∈ allThreads t, u.status = .running → u.host = false →
      u.place.peer = x.1 → u.place.span = x.2 → u.k.ip0 = true ∧ (spanOf t x.1 x.2).preempted = some s.time ∧
        (spanOf t x.1 x.2).claimant = some h)

/-- The schedulers, and pre-emption (R346 to R356, R386, R387). -/
def Obligations.SchedulersRunLaunches : Prop :=
  SchedulersRun ∧ PreemptionTakesTheFewest

/-- `ctxsave`, `ctxrest`, `halt` (R382 to R387): a save waits until the thread's entries are saved or done and its requests
answered, writes its area, waits for the acknowledgements of what it sent to other dies, and makes the thread one that is saved;
what the area's words do not say is kept under a stamp (the model's vault: logs 9, 52, 67). A restore of an area that this thread did
not save, or whose sectors other writes or another key have changed, is *illegal operand* (logs 9, 33); one into long mode waits for
its lane groups; `halt` of a saved thread leaves the slot with the thread listed as saved, of any other it fails the launch. Areas are
64 KiB aligned. -/
def Obligations.ContextsAreSavedAndRestored : Prop :=
  (∀ (ra : BitVec 7) (s s1 : State) (a : Word), Kernel s → srcS ra = true → Reads ra s a s1 →
    (a.toNat % 65536 ≠ 0 → exec (.ctxsave ra) s = .next (takeTrap false 0x05 a s) ∧
      exec (.ctxrest ra) s = .next (takeTrap false 0x05 a s)) ∧
    (a.toNat % 65536 = 0 →
      let saved (c : Thread) : Thread := { c with saving := none, k := { c.k with saved := true, ksave := a } }
      (s.thr.saving = none → saveReady s1 = false → exec (.ctxsave ra) s = .next (park .other s)) ∧
      (∀ s2, s.thr.saving = none → saveReady s1 = true →
        let w := heldResidue { s1 with fresh := s1.fresh + 1 }
        saveContext a w.fresh (lastUnsaved s1) w.thr w = .ok () s2 →
        ∃ c v, v = { s2 with
            thr := c
            vault := nset s2.vault w.fresh (.context c (mySpan s2).poolcap (lastUnsaved s1) (groupTags (mySpan s2)) (padSectors s2)
              (bstoreCells s2) (bstoreSectors s2)) } ∧
          c.sc = w.thr.sc ∧ c.shp = w.thr.shp ∧ c.u = w.thr.u ∧ c.ce = w.thr.ce ∧ c.k = w.thr.k ∧ c.place = w.thr.place ∧
          (∀ r, vreg c (isLong s.thr) r = vreg w.thr (isLong s.thr) r) ∧
          ((∀ p ∈ s2.packets, ownPacket s.thr p = false) → exec (.ctxsave ra) s = .next (advance (withThr v (saved c)))) ∧
          ((∃ p ∈ s2.packets, ownPacket s.thr p = true) → exec (.ctxsave ra) s =
            .next (withThr v { c with saving := some w.fresh, wait := some .other, sc := s.thr.sc }))) ∧
      (∀ k, s.thr.saving = some k →
        ((∃ p ∈ s.packets, ownPacket s.thr p = true) → exec (.ctxsave ra) s = .next (park .other s)) ∧
        ((∀ p ∈ s.packets, ownPacket s.thr p = false) →
          exec (.ctxsave ra) s = .next (advance (withThr s1 (saved s1.thr))))) ∧
      (∀ s2, contextAt a s1.thr s1 = .ok none s2 →
        exec (.ctxrest ra) s = .next (takeTrap false 0x02 (failing (.ctxrest ra)) s)) ∧
      (∀ s2 c cap leader tags secs cells bsecs,
        contextAt a s1.thr s1 = .ok (some (.context c cap leader tags secs cells bsecs)) s2 →
        (c.u.part ≠ s1.thr.u.part ∨ (mySpan s2).poolcap < cap →
          exec (.ctxrest ra) s = .next (takeTrap false 0x11 (c.u.part.setWidth 64) s)) ∧
        (c.u.part = s1.thr.u.part → cap ≤ (mySpan s2).poolcap →
          (leader = false → (mySpan s2).led = false → exec (.ctxrest ra) s = .next (park .other s)) ∧
          (leader = true ∨ (mySpan s2).led = true →
            (c.v.long = none → ∀ s3, restoreContext a c leader tags secs cells bsecs s2 = .ok () s3 →
              exec (.ctxrest ra) s = .next (advance (withThr s3 { s3.thr with v := { s3.thr.v with long := none, lg := 0 } }))) ∧
            (c.v.long.isSome = true → isLong s1.thr = true → s1.thr.v.lg = c.v.lg →
              ∀ s3, restoreContext a c leader tags secs cells bsecs s2 = .ok () s3 → exec (.ctxrest ra) s = .next (advance s3)) ∧
            (c.v.long.isSome = true → (isLong s1.thr = false ∨ s1.thr.v.lg ≠ c.v.lg) → exec (.ctxrest ra) s =
              .next (modSpan s.thr.place.peer s.thr.place.span (fun y => { y with
                  waiters := y.waiters.filter (fun w => w.1 != s.thr.place.slot) ++ [(s.thr.place.slot, c.v.lg, ! isLong s1.thr)] })
                (withThr s2 { s.thr with wait := some .longMode, v := { s.thr.v with lg := 0 } })))))))) ∧
  -- what a restore reads and writes
  (∀ (a : Word) (c : Thread) (tags : List TileTag) (secs : List Sector) (cells : List Host.Cell) (bsecs : NMap Sector)
    (s s3 s4 s5 s6 s7 s8 : State) (globals win shp : List Word) (queues : List (List Word)) (v : VectorState),
    Machine.loadWords 7 (areaAt a 0x200) s = .ok globals s3 → loadQueues a c (List.range 8) s3 = .ok queues s4 →
    Machine.loadWords 448 (areaAt a 0x800) s4 = .ok win s5 → Machine.loadWords 128 (areaAt a 0x2000) s5 = .ok shp s6 →
    loadVector a c s6 = .ok v s7 →
    copyBlock (areaAt a 0x4000) (areaAt a 0x5000) (areaAt s.thr.k.kvq 0x800) (areaAt s.thr.k.kvq 0x1800) c.k.vqn s7 = .ok () s8 →
    ∃ u, restoreContext a c false tags secs cells bsecs s = .ok () (withThr s8 u) ∧
      (∀ k < 7, vget u.sc.globals (k + 1) 0 = globals.getD k 0) ∧ (∀ k < 448, vget u.sc.win k 0 = win.getD k 0) ∧
      u.sc.wb = c.sc.wb ∧ (∀ q < 8, queueAt u q = queues.getD q []) ∧ u.u.vl = c.u.vl ∧ u.u.vtype = c.u.vtype ∧
      u.u.fflags = c.u.fflags ∧ u.u.mstat = c.u.mstat ∧ u.u.tid = c.u.tid ∧ u.u.lid = s8.thr.u.lid ∧ u.ce = c.ce ∧
      u.k.kepc = c.k.kepc ∧ u.k.pkm = c.k.pkm ∧ u.k.ktvec = c.k.ktvec ∧ u.k.ptbr = c.k.ptbr ∧ u.k.ctxid = c.k.ctxid ∧
      u.k.keysel = c.k.keysel ∧ u.k.km = s8.thr.k.km ∧ u.k.kvq = s8.thr.k.kvq ∧ u.k.vqn = c.k.vqn ∧
      u.tr = s8.thr.tr ++ c.tr ∧ u.tq = s8.thr.tq ++ c.tq ∧ u.v.short = v.short ∧ u.v.smask = v.smask) ∧
  (∀ s : State, s.thr.k.km = true → s.thr.host = false → s.thr.status = .running →
    ∃ t, exec .halt s = .next t ∧ t.thr.status = .ended ∧ SameMemory s t ∧
      ∀ l, launchOf s (myNode s) s.thr.u.lid = some l → ∃ l', launchOf t (myNode s) s.thr.u.lid = some l' ∧
        s.thr.u.tid ∉ l'.live ∧ (s.thr.k.saved = false → l'.failed = true) ∧
        (s.thr.k.saved = true → l'.failed = l.failed ∧
          (l.stopped = false → ∃ x, l'.saved = l.saved ++ [x] ∧ x.tid = s.thr.u.tid ∧ x.area = s.thr.k.ksave)))

/-- Cache invalidations and fabric commands (R340, R388): `l1inv` empties the Span's L1 and instruction cache, on a host core its own
instruction lines of the shared cache (R392; the model keeps them per core, log 94), `winv` the die's window lines, and neither
keeps what is on its way; `xfmq` posts the 64-byte command record for its package, in kernel mode, while the queue
has room. A fill that arrives is installed in its set of eight ways, or among the L2's lines (R188, R189). -/
def Obligations.CachesAndCommands : Prop :=
  (∀ s : State, Executes .l1inv s → isHostPlace s.thr.place = s.thr.host →
    ∃ t, exec .l1inv s = .next (advance t) ∧ t.thr = s.thr ∧ SameMemory s t ∧
      (s.thr.host = false → (mySpan t).l1 = [] ∧ (mySpan t).fills = [] ∧ (mySpan t).icache = [] ∧
        ∀ p ∈ t.packets, p.place.peer = s.thr.place.peer → p.place.span = s.thr.place.span → p.cargo ≠ .code true) ∧
      (s.thr.host = true → t.spans = s.spans ∧ (pkgOf t (myNode s)).hostLines = (pkgOf s (myNode s)).hostLines ∧
        (∀ e, e ∈ (pkgOf t (myNode s)).hostCode ↔ e ∈ (pkgOf s (myNode s)).hostCode ∧ e.1 % 32 ≠ s.thr.place.slot) ∧
        ∀ p ∈ t.packets, p.place = s.thr.place → p.cargo ≠ .code true)) ∧
  (∀ s : State, s.thr.host = false → ∃ t, exec .winv s = .next (advance t) ∧ t.thr = s.thr ∧ SameMemory s t ∧
    (myDie t).window = [] ∧ (myDie t).winFills = [] ∧
    ∀ p ∈ t.packets, p.place.peer = s.thr.place.peer → isHostPlace p.place = false → p.cargo ≠ .line true) ∧
  (∀ (ra : BitVec 7) (s s1 s2 : State) (a : Word) (x : BitVec 512), Executes (.xfmq ra) s → srcS ra = true → Reads ra s a s1 →
    (s.thr.k.km = false → exec (.xfmq ra) s = .next (takeTrap false 0x04 (failing (.xfmq ra)) s)) ∧
    (s.thr.k.km = true → loadRecord a s1 = .ok x s2 →
      (64 ≤ (pkgOf s2 (myNode s)).commands.length → exec (.xfmq ra) s = .next (park .other s)) ∧
      ((pkgOf s2 (myNode s)).commands.length < 64 → ∃ c, c.op = (x.extractLsb' 0 8).toNat ∧ c.target = (x.extractLsb' 8 8).toNat ∧
        c.arg = x.extractLsb' 64 64 ∧ c.ctr = x.extractLsb' 128 64 ∧ c.inc = x.extractLsb' 192 64 ∧ c.stat = x.extractLsb' 256 64 ∧
        c.active = false ∧ exec (.xfmq ra) s = .next (advance (modPkg (myNode s) (fun p =>
          { p with commands := p.commands ++ [c] }) s2))))) ∧
  (∀ (peer span : Nat) (s : State) (f : Fill) (rest : List Fill), (spanOf s peer span).fills = f :: rest →
    ∃ t, exec (.l1FillArrival peer span) s = .next t ∧ t.thr = s.thr ∧ SameMemory s t ∧ (spanOf t peer span).fills = rest ∧
      nget (spanOf t peer span).l1 f.line = some ⟨f.data, f.key⟩ ∧
      (∀ n l, n ≠ f.line → nget (spanOf t peer span).l1 n = some l → nget (spanOf s peer span).l1 n = some l) ∧
      (∀ n, n % 256 ≠ f.line % 256 → nget (spanOf t peer span).l1 n = nget (spanOf s peer span).l1 n) ∧
      (((spanOf s peer span).l1.filter fun e => e.1 % 256 == f.line % 256 && e.1 != f.line).length < 8 → ∀ n, n ≠ f.line →
        nget (spanOf t peer span).l1 n = nget (spanOf s peer span).l1 n)) ∧
  (∀ (peer : Nat) (s : State) (f : Fill) (rest : List Fill), (dieOf s peer).winFills = f :: rest →
    ∃ t, exec (.windowFillArrival peer) s = .next t ∧ t.thr = s.thr ∧ SameMemory s t ∧ (dieOf t peer).winFills = rest ∧
      nget (dieOf t peer).window f.line = some ⟨f.data, f.fmt, f.scale, f.key⟩ ∧
      ∀ n l, n ≠ f.line → nget (dieOf t peer).window n = some l → nget (dieOf s peer).window n = some l)

/-- Interrupts (R375, R352, R296, R397, R108): taken in user mode, or in kernel mode with IE = 1, the first that is due in the
order 0x80, 0x82, 0x81, 0x83, as a trap that enters the handler; each reports its value. A thread in queue deadlock takes 0x0E
with `qstat`. A whole-vector entry that has started is not interrupted, nor one within an element group, and what the thread has
sent is waited for (R150, R161, R211). Leaving the stream drops a held trap, whose entry is saved and traps again (R374, log 60). -/
def Obligations.InterruptsEnterTheHandler : Prop :=
  ∀ s : State, s.thr.host = false → s.thr.status = .running → (s.thr.k.km = false ∨ s.thr.k.ie = true) → scalarQuiet s = true →
    (s.thr.k.ip0 = true →
      (streamLeaves s = true → exec .preEmpt s = .next (takeTrap false 0x80 0 (withThr s
        { stopStream s.thr with v := { (stopStream s.thr).v with held := none } }))) ∧
      (streamLeaves s = false → exec .preEmpt s = .fault .notEnabled) ∧
      exec .timer s = .fault .notEnabled ∧ exec .hostMessage s = .fault .notEnabled) ∧
    (s.thr.k.ip0 = false →
      (∀ x, s.thr.tr.find? (·.irq) = some x → exec .transferMemoryError s =
        .next (takeTrap false 0x82 (x.id.setWidth 64) (modTransfer x.order (fun y => { y with irq := false }) s))) ∧
      (s.thr.tr.any (·.irq) = false →
        (timerDue s = true → exec .timer s = .next (takeTrap false 0x81 0 s)) ∧
        (timerDue s = false →
          let m := vget (mySpan s).hmsg s.thr.place.slot { data := 0, pend := false, ovr := false, irq := false }
          messageIrq s = true → exec .hostMessage s = .next (takeTrap false 0x83 (BitVec.ofNat 64 s.thr.place.slot)
            (modMySpan (fun x => { x with hmsg := vset x.hmsg s.thr.place.slot { m with irq := false } }) s))))) ∧
    (deadlocked s = true → canLeave s = true → exec .queueDeadlock s = .next (takeTrap true 0x0E (qstatOf s) (withThr s
      { stopStream s.thr with v := { (stopStream s.thr).v with held := none } })))

/-- The vector stream's own steps (R141, R142, R210, R212, R251, R107): the oldest entry starts a group, a group that is
finished is written, a counter of a committed entry rises by 1, a link entry stages its registers; a status or completion entry
that waited goes to its queue when there is room. -/
def Obligations.StreamsMoveByThemselves : Prop :=
  (∀ (s s1 : State) (e : VEntry) (rest : List VEntry), s.thr.v.vq = e :: rest → s.thr.v.held = none →
    (e.link = none → isMarker e = false →
      (startGroup s = .ok () s1 → exec .elementGroupStart s = .next s1) ∧
      (isLoad e.ins = false → writeElems s = .ok () s1 → exec .elementGroupWrite s = .next s1) ∧
      (isLoad e.ins = true → writeElems s = .ok () s1 → exec .loadDataArrival s = .next s1)) ∧
    (∀ seq, e.link = some seq → (∀ a b c, e.ins ≠ .mrd a b c) → streamPackets s = [] →
      exec .linkEntryStaging s = .next (withThr s { s.thr with
        wait := if s.thr.wait = some .vqFull ∨ s.thr.wait = some .arit then some .other else s.thr.wait
        v := { s.thr.v with vq := rest }
        tq := s.thr.tq.map fun x => if x.seq = seq ∧ x.push = none then
          { x with staged := true, regs := (stagedOperands s.thr e x.sn).1, mask := (stagedOperands s.thr e x.sn).2 } else x })) ∧
    (∀ seq vd a b d, e.link = some seq → e.ins = .mrd vd a b → e.delivered = some (some d) → s.thr.v.long.isSome = true → streamPackets s = [] →
      vd.toNat < 48 → ∃ u, exec .linkEntryStaging s = .next (withThr s u) ∧ u.v.vq = rest ∧ vreg u true vd.toNat = d)) ∧
  (∀ (s : State) (e : VEntry) (rest : List VEntry) (ws : List VWrite) (fl : BitVec 5), s.thr.v.vq = e :: rest →
    s.thr.v.held = none → e.buf = [(ws, fl)] → e.pos < e.vl → e.opened = false → (∀ w ∈ ws, ∀ q v, w ≠ .push q v) →
    ∃ u, writeElems s = .ok () (withThr s u) ∧ (∃ e', u.v.vq = e' :: rest ∧ e'.buf = [] ∧ e.wpos ≤ e'.wpos) ∧
      u.u.fflags = s.thr.u.fflags ||| fl ∧ ∀ r, vreg u e.long r = vreg (ws.foldl (applyWrite e.long) s.thr) e.long r) ∧
  (∀ (s : State) (p : Counter) (rest : List Counter), s.thr.v.nbq = p :: rest → outFor s p.age = false →
    (Here p.ref s → Reaches .atomic p.ref 8 s → NotHeld p.loc.fpa 8 s → s.turn.residue = 0 →
      ∃ t, exec .nbCounterIncrement s = .next t ∧ t.thr = { s.thr with v := { s.thr.v with nbq := rest } } ∧
        Stored p.loc.key p.loc.fpa 8 ((memRead s p.loc.key p.loc.fpa 8 + 1) % 2 ^ 64) s t) ∧
    (Away p.ref s → ∃ t q, exec .nbCounterIncrement s = .next t ∧ SameMemory s t ∧ t.packets = s.packets ++ [q] ∧ q.loc = p.loc ∧
      q.cargo = .atomic .add 1)) ∧
  (∀ (s : State) (e : TEntry) (rest : List TEntry) (w : Word), s.thr.tq = e :: rest → e.push = some w →
    ((queueAt s.thr 6).length < 16 →
      exec (.deferredQueuePush 6) s = .next (withThr s { setQueue 6 (queueAt s.thr 6 ++ [w]) s.thr with
        tq := rest, u := { s.thr.u with mstat := s.thr.u.mstat ||| e.flags.setWidth 64 } })) ∧
    (16 ≤ (queueAt s.thr 6).length → exec (.deferredQueuePush 6) s = .fault .notEnabled)) ∧
  (∀ (s : State) (x : Transfer) (w : Word), s.thr.tr.find? (·.push.isSome) = some x → x.push = some w → (queueAt s.thr 7).length < 16 →
    exec (.deferredQueuePush 7) s = .next (withThr s { setQueue 7 (queueAt s.thr 7 ++ [w]) s.thr with
      tr := s.thr.tr.map fun y => if y.order = x.order then { y with push := none } else y }))

/-! ## Collectives -/

namespace Sys2Proof.Claims

/-- A control word that R328 lets through before any communicator is looked at. -/
def ControlLegal (k : CollKind) (v : Word) : Prop :=
  let op := (v.extractLsb' 6 2).toNat
  let w := (v.extractLsb' 22 8).toInt
  v.toNat < 2 ^ 30 ∧ op ≠ 3 ∧ -64 ≤ w ∧ w ≤ 63 ∧ (k = .rs ∨ k = .ar ∨ op = 0 ∧ w = 0) ∧ (op = 0 ∨ w = 0) ∧
    (k = .bc ∨ v.extractLsb' 10 12 = 0)

/-- A buffer view that R330 lets through for n members. -/
def BufferLegal (k : CollKind) (v : ShapeReg) (n : Nat) : Prop :=
  viewCount v < 2 ^ 32 ∧
  ((k = .rs ∨ k = .ar) ∧ (shapeFmt v = 0x04 ∨ shapeFmt v = 0x05) ∧ (shapeBase v).toNat % 64 = 0 ∧ viewCount v % (32 * n) = 0 ∧
      (∀ d < 6, d ≠ 0 ∧ shapeExt v d ≤ 1 ∨ shapeStr v d = (2 * ((List.range d).map (shapeExt v)).prod : Nat)) ∨
    (k = .bc ∨ k = .ag) ∧ fmtAssigned (shapeFmt v) = true ∧ (fmtRaw (shapeFmt v) = true ∨ sectorCondition v = true))

/-- The view conditions of R86 on the view of a bit-plane buffer: dense bytes, whole groups, a sector-aligned base. -/
def PlanesLegal (v : ShapeReg) : Prop :=
  (shapeBase v).toNat % 64 = 0 ∧ viewCount v % 512 = 0 ∧ ∀ d < 6, shapeStr v d = (((List.range d).map (shapeExt v)).prod : Nat)

/-- A collective as the instruction posts it (R325, R329): sequence number, control word, view, settings of the communicator. -/
def Posted (k : CollKind) (buf : Bool) (v : ShapeReg) (ctl ca : Word) (e : Comm) (ctr : Option Phys) (ps : List TlbEntry)
    (s : State) (c : Coll) : Prop :=
  c.comm = (ctl.extractLsb' 0 6).toNat ∧ c.seq = e.iseq ∧ c.prio = (ctl.extractLsb' 8 2).toNat ∧ c.rank = e.rank.toNat ∧
    c.key = {
      kind := k, op := (ctl.extractLsb' 6 2).toNat, wexp := (ctl.extractLsb' 22 8).toInt, root := (ctl.extractLsb' 10 12).toNat
      count := if buf then viewCount v else 0, fmt := shapeFmt v, nmem := e.nmem.toNat, chunk := e.chunk.toNat
      members := (List.range (e.nmem.toNat + 1)).map fun i => BitVec.ofNat 16 (memRead s 0 (e.map.toNat + 2 * i) 2) } ∧
    c.epoch = e.epoch ∧ c.vc = e.vc ∧ c.tenant = s.thr.k.ktenant ∧ c.keysel = s.thr.k.keysel.toNat ∧ c.age = s.thr.issued ∧
    c.owner = threadId s.thr ∧ c.ctx = s.thr.k.ctxid ∧ c.view = v ∧ c.ctr = ctr ∧ c.ctrVa = ca ∧ c.pages = ps ∧
    c.table = (myDie s).rtsel ∧ c.next = 0 ∧ c.written = 0 ∧ c.unacked = [] ∧ c.arrived = [] ∧ c.released = false ∧ c.flags = 0 ∧
    c.results = [] ∧ c.resultsSent = 0 ∧ c.sums = [] ∧ c.credits = [] ∧ c.granted = [] ∧ c.nextGrant = 0 ∧ c.sources = []

/-- What one posting changes: the die holds the collective and the communicator's next sequence number, and every member of the pod
that has posted the same instance knows of it (the model's numbers of instances: log 50). -/
def PostsInto (peer : Nat) (c : Coll) (s t : State) : Prop :=
  let plain (x : Coll) : Coll := { x with joined := [] }
  t.thr = { s.thr with issued := s.thr.issued + 1 } ∧ t.packets = s.packets ∧ t.messages = s.messages ∧ SameMemory s t ∧
  (∀ p, (dieOf t p).colls.map plain = (dieOf s p).colls.map plain ++ if p = peer then [plain c] else []) ∧
  (∀ p, ∀ x ∈ (dieOf t p).colls, x.inst = c.inst → x.joined = c.joined) ∧ peer ∈ c.joined ∧
  (∀ k, commOf (dieOf t peer) k =
    let e := commOf (dieOf s peer) k
    if k = c.comm then { e with iseq := e.iseq + 1 } else e)

/-- The accesses of the thread have performed; its posted collectives may still run. -/
def AccessesDone (s : State) : Prop :=
  s.thr.v.vq = [] ∧ s.thr.v.parked = [] ∧ s.thr.v.nbq = [] ∧ s.thr.tq = [] ∧ s.thr.tr = [] ∧ ∀ p ∈ s.packets, ownPacket s.thr p = false

/-- The collective words: kind, whether there is a buffer. -/
noncomputable def collWords : List (CollKind × Bool × (BitVec 7 → BitVec 7 → BitVec 7 → Instr)) :=
  [ (.rs, true, .crs), (.ar, true, .car), (.bc, true, .cbc), (.ag, true, .cag), (.bar, false, fun _ a b => .cbar a b),
    (.barRt, false, fun _ a b => .cbarRt a b) ]

/-- Reduce for sums, over the codes in any order (R332): each finite contribution is rounded on its own to the grid. -/
def reduceSum (k : CollKey) (codes : List Nat) : Nat × BitVec 5 :=
  let f := fmtFloat k.fmt
  let vs := codes.map (fpVal f)
  let nan := vs.any isNan
  let pinf := vs.contains (.inf false)
  let ninf := vs.contains (.inf true)
  let w : Int := (vs.map fun v => match v with | .num n m e => toGrid n m (e - k.wexp) | _ => 0).sum
  if nan ∨ pinf ∧ ninf then (f.nan, 0x01)
  else if pinf then (fpInf f false, 0)
  else if ninf then (fpInf f true, 0)
  else
    let c := max (-(2 : Int) ^ 127) (min w (2 ^ 127 - 1))
    let r := roundFp f 0 0 (.num (decide (c < 0)) c.natAbs (k.wexp - 64))
    (r.1, r.2 ||| if c = w then 0 else 0x02)

/-- A message has reached its receiver: it was taken out of the fabric before, or it is whole and its receiver can accept it. -/
def AtReceiver (s : State) (m : CollMsg) : Prop :=
  m.sunk = true ∨ m.sunk = false ∧ m.frames = [] ∧ canAccept s (messageItem m) = true

/-- A message at its receiver, and the collective there that it is for: that of its instance, or of a message from another pod the
oldest of its communicator and sequence number. -/
def IsFor (s : State) (id : Nat) (m : CollMsg) (c : Coll) : Prop :=
  messageAt s id = some m ∧ AtReceiver s m ∧ findColl (dieOf s m.dst) c.inst = some c ∧
    (m.inbound = false → m.inst = c.inst) ∧
    (m.inbound = true → (dieOf s m.dst).colls.find? (fun x => x.comm == m.comm && x.seq == m.seq) = some c)

/-- It agrees with the message, and no older collective of its thread holds the buffer: it takes the message. -/
def Meets (s : State) (id : Nat) (m : CollMsg) (c : Coll) : Prop :=
  IsFor s id m c ∧ c.key = m.key ∧ c.rank = m.toRank ∧ collActive (dieOf s m.dst) c = true

/-- Posted collectives and communicators of every die are as before. -/
def SameColls (s t : State) : Prop := ∀ p, (dieOf t p).colls = (dieOf s p).colls ∧ (dieOf t p).comms = (dieOf s p).comms

/-- A message is received: data or a barrier message from a die of the pod is answered with its acknowledgement, which starts on
its way back; any other leaves. -/
def Received (m : CollMsg) (s t : State) : Prop :=
  t.thr = s.thr ∧ t.packets = s.packets ∧ SameMemory s t ∧ SameColls s t ∧
    t.messages = if bodyAcked m.body = true ∧ m.inbound = false then
        s.messages.map fun x => if x.id = m.id then
          { m with src := m.dst, dst := m.src, fromRank := m.toRank, toRank := m.fromRank, body := .ack, sunk := false,
                   route := responseRoute (messageItem m) s.fresh }
        else x
      else s.messages.filter fun x => ! (x.id == m.id)

/-- A member's state after the failure of a collective that it has posted has reached it (R336): ERR stands, unless the communicator
has been made valid anew since (R325), the failed collective and later ones on the communicator are gone, and the owner of the failed
one has the failure to receive. -/
def Failed (peer : Nat) (c : Coll) (cause : Nat) (s t : State) : Prop :=
  (c.epoch = (commOf (dieOf s peer) c.comm).epoch → (commOf (dieOf t peer) c.comm).err = true) ∧
  (dieOf t peer).colls.map (·.inst) = ((dieOf s peer).colls.filter fun x =>
    ! (x.comm == c.comm && x.epoch == c.epoch && decide ((x.seq - c.seq).toNat < 2 ^ 31))).map (·.inst) ∧
  ∃ f ∈ (dieOf t peer).collFailures, f.owner = c.owner ∧ f.ctrVa = c.ctrVa ∧
    f.val = BitVec.ofNat 64 (c.comm + cause * 2 ^ 8 + c.seq.toNat * 2 ^ 32)

/-- An access of the engine of a die to a buffer under an erased key slot ends the context there (R402, log 42). -/
def EngineFaults (i : Instr) (peer : Nat) (c : Coll) (s : State) : Prop :=
  ∃ t, exec i s = .next t ∧ SameMemory s t ∧ ∀ x ∈ (dieOf t peer).colls, x.ctx ≠ c.ctx

/-- Every rank has contributed to every element of a part. -/
def Full (k : CollKey) (sums : NMap Sum) (p : Nat × Nat) : Prop :=
  ∀ l, p.1 ≤ l → l < p.2 → ∃ x, nget sums l = some x ∧ k.nmem + 1 ≤ x.ranks.length

end Sys2Proof.Claims

/-- Collective instructions (R328 to R330): the control word first, then the communicator, its failure, ROOT and the view; with all
of them legal and the thread's accesses performed the collective is posted with the next sequence number, while the die holds
fewer than 16. A bit-plane view that R86 refuses is *format fault*. A failure that the thread has not received is delivered first,
once. -/
def Obligations.CollectivesArePosted : Prop :=
  ∀ x ∈ collWords, ∀ (rd ra rb : BitVec 7) (s s1 s2 : State) (ctl ca : Word), s.thr.host = false →
    (x.2.1 = true → rd.toNat < 16) → srcS ra = true → srcS rb = true →
    let i := x.2.2 rd ra rb
    (∀ f, (myDie s).collFailures.find? (fun f => f.owner == threadId s.thr) = some f →
      exec i s = .next (takeTrap false 0x12 f.val (modDie (myPeer s) (fun d => { d with collFailures := d.collFailures.erase f }) s))) ∧
    ((∀ f ∈ (myDie s).collFailures, f.owner ≠ threadId s.thr) → Reads ra s ctl s1 → Reads rb s1 ca s2 →
      let comm := (ctl.extractLsb' 0 6).toNat
      let e := commOf (myDie s) comm
      let val (cause : Nat) : Word := BitVec.ofNat 64 (comm + cause * 2 ^ 8 + e.iseq.toNat * 2 ^ 32)
      let v : ShapeReg := if x.2.1 then vget s.thr.shp rd.toNat 0 else 0
      (¬ ControlLegal x.1 ctl → exec i s = .next (takeTrap false 0x02 (failing i) s)) ∧
      (ControlLegal x.1 ctl →
        (e.valid = false ∨ e.ctx ≠ s.thr.k.ctxid → exec i s = .next (takeTrap false 0x12 (val 1) s)) ∧
        (e.valid = true → e.ctx = s.thr.k.ctxid →
          (e.err = true → exec i s = .next (takeTrap false 0x12 (val 7) s)) ∧
          (e.err = false → x.1 = .bc → e.nmem.toNat < (ctl.extractLsb' 10 12).toNat →
            exec i s = .next (takeTrap false 0x02 (failing i) s)) ∧
          (e.err = false → (x.1 = .bc → (ctl.extractLsb' 10 12).toNat ≤ e.nmem.toNat) → ∀ (s3 : State) (ctr : Option Phys),
            physOf (access .store s.thr.k.km 8) ca s2 = .ok ctr s3 →
            (x.2.1 = true → ¬ BufferLegal x.1 v (e.nmem.toNat + 1) → exec i s = .next (takeTrap false 0x02 (failing i) s)) ∧
            (x.2.1 = true → BufferLegal x.1 v (e.nmem.toNat + 1) → fmtBitPlane (shapeFmt v) = true → ¬ PlanesLegal v →
              exec i s = .next (takeTrap false 0x0A (shapeBase v) s)) ∧
            ∀ (s4 : State) (ps : List TlbEntry), (x.2.1 = true → BufferLegal x.1 v (e.nmem.toNat + 1) ∧
                (fmtBitPlane (shapeFmt v) = true → PlanesLegal v) ∧
                bufferPages s.thr.k.km (collSize v) ((List.range (viewCount v)).map (viewAddr v)) [] s3 = .ok ps s4) →
              (x.2.1 = false → ps = [] ∧ s4 = s3) → s4.thr = { s2.thr with pages := s4.thr.pages } →
              (myDie s4).colls = (myDie s).colls → (myDie s4).comms = (myDie s).comms → AccessesDone s4 →
              (16 ≤ (myDie s).colls.length → exec i s = .next (park .other s)) ∧
              ((myDie s).colls.length < 16 → (x.2.1 = true → aritUsed s4 < 64) → ∃ c t, Posted x.1 x.2.1 v ctl ca e ctr ps s4 c ∧
                PostsInto (myPeer s) c s4 t ∧ exec i s = .next (advance (grantCredits (myPeer s) t)))))))

/-- What an owner forms does not depend on the order in which contributions arrive (R332), of a sum, a maximum and a minimum: a sum is
the exact sum of the contributions, each rounded on its own to the grid of W, limited to the word and rounded once to the format.
An exact add has the residue that its check expects (R96). -/
def Obligations.ReductionsDependOnlyOnTheSet : Prop :=
  (∀ (k : CollKey) (xs : List (Nat × Nat)), k.op = 0 →
    sumResult k (xs.foldl (fun y x => addContribution k x.1 x.2 y) Sum.empty) = reduceSum k (xs.map Prod.snd)) ∧
  (∀ (k : CollKey) (xs ys : List (Nat × Nat)), k.op = 0 ∨ fmtFp16 k.fmt = true ∧ (∀ x ∈ xs, x.2 < 2 ^ 16) → List.Perm xs ys →
    sumResult k (xs.foldl (fun y x => addContribution k x.1 x.2 y) Sum.empty) =
      sumResult k (ys.foldl (fun y x => addContribution k x.1 x.2 y) Sum.empty)) ∧
  (∀ (k : CollKey) (rank code b : Nat) (y : Sum), k.op = 1 ∨ k.op = 2 → y.best = some b →
    let r := fpMinMax ⟨fmtFloat k.fmt, 0, 0⟩ (k.op == 1) b code
    (addContribution k rank code y).best = some r.1 ∧ (addContribution k rank code y).flags = y.flags ||| r.2) ∧
  (∀ (k : CollKey) (code : Nat) (y : Sum), contributionChecks k code y = true)

/-- The engine sends chunks (R326, R331, R334, R335): of the ready collectives one of the highest priority, of the communicators with
one the next in turn, in its communicator the oldest that has still to send; a chunk of a reduction goes to the owners of its
elements, one of a broadcast or a gather to every other rank, a barrier's messages to rank 0 and from it to every rank, results of
`car` to every other rank, each as requests of at most 256 bytes (R312, R433; how they are cut is the model's, log 50). A message to
another pod takes the far end that the captured table gives (R338). A member without a route fails with
cause 5, a sector that the format refuses with cause 3 (R336); a buffer under an erased key slot ends the context (log 42). -/
def Sys2Proof.Claims.TheEngineSendsChunks : Prop :=
  (∀ (c : Coll) (p : Nat × Nat), p.1 ≤ p.2 →
    ((requestsOf c p).map fun q => (List.range (q.2 - q.1)).map (q.1 + ·)).flatten = (List.range (p.2 - p.1)).map (p.1 + ·) ∧
    ∀ q ∈ requestsOf c p, q.1 < q.2 ∧ (q.2 - q.1 = 1 ∨ (q.2 - q.1) * collSize c.view ≤ 256) ∧
      ∀ l, q.1 ≤ l → l < q.2 → (viewAddr c.view l).toNat / 256 = (viewAddr c.view q.1).toNat / 256) ∧
  ∀ (peer : Nat) (s : State) (c : Coll), nextChunk s peer = some c → findColl (dieOf s peer) c.inst = some c → c.prio < 4 →
    let gap (x : Coll) : Nat := (x.comm + 63 - (vget (dieOf s peer).served c.prio 63).toNat) % 64
    let sent (t : State) (ms : List CollMsg) : Prop :=
      t.thr = s.thr ∧ SameMemory s t ∧ t.packets = s.packets ∧ t.messages = s.messages ++ ms ∧
        ∀ m ∈ ms, m.src = peer ∧ m.fromRank = c.rank ∧ m.comm = c.comm ∧ m.seq = c.seq ∧ m.inst = c.inst ∧ m.key = c.key ∧
          m.tenant = c.tenant ∧ m.dst = ((memberOf c.key m.toRank).extractLsb' 0 12).toNat ∧ m.route.vc = c.vc.toNat ∧
          (if (memberOf c.key m.toRank).getLsbD 12 then
            ∃ r : BitVec 128, nget (if c.table then (dieOf s peer).routes1 else (dieOf s peer).routes0) m.dst = some r ∧
              r.getLsbD 0 = true ∧ m.far = some { port := (r.extractLsb' 1 3).toNat, pod := r.extractLsb' 4 16,
                                                  node := r.extractLsb' 20 10, die := r.extractLsb' 30 2 }
          else m.far = none)
    let others := (List.range (c.key.nmem + 1)).filter (· ≠ c.rank)
    c ∈ (dieOf s peer).colls ∧
    (∀ x ∈ (dieOf s peer).colls, chunkReady s peer x = true → x.prio < 4 → x.comm < 64 →
      x.prio ≤ c.prio ∧ (x.prio = c.prio → gap c ≤ gap x)) ∧
    (∀ x, (dieOf s peer).colls.find? (fun x => x.comm == c.comm && x.epoch == c.epoch && sendsLeft x) = some x → x.inst = c.inst) ∧
    (∀ p, collErased s c = some p → EngineFaults (.chunkSend peer) peer c s) ∧
    (∀ i, collErased s c = none → (firstChunks c)[c.next]? = some i → firstReady s peer c = true →
      (noRoute s peer c (chunkDests c i) = false → chunkRefused s c i = false →
        ∃ t ms, exec (.chunkSend peer) s = .next t ∧ sent t ms ∧
          (dieOf t peer).colls.map (fun x => (x.inst, x.next)) =
            (dieOf s peer).colls.map (fun x => (x.inst, if x.inst = c.inst then x.next + 1 else x.next)) ∧
          ms.map (fun m => (m.toRank, m.body)) = match c.key.kind with
            | .rs | .ar => ((owners c i).map fun j => (requestsOf c (part c i j)).map fun q =>
                (j, CollBody.contribution i q.1 ((readElems s c q).map Prod.fst))).flatten
            | .bc | .ag =>
              let p := if c.key.kind = .ag then part c i c.rank
                else (i * chunkElems c, min ((i + 1) * chunkElems c) c.key.count)
              (others.map fun j => (requestsOf c p).map fun q =>
                (j, CollBody.result q.1 ((readElems s c q).map Prod.fst) ((readElems s c q).map Prod.snd) 0)).flatten
            | .bar | .barRt => [(i - 1, if i = 0 then .arrival else .release)]) ∧
      (noRoute s peer c (chunkDests c i) = true → ∃ t, exec (.chunkSend peer) s = .next t ∧ SameMemory s t ∧ Failed peer c 5 s t) ∧
      (noRoute s peer c (chunkDests c i) = false → chunkRefused s c i = true → ∃ t, exec (.chunkSend peer) s = .next t ∧
        SameMemory s t ∧ Failed peer c 3 s t)) ∧
    (∀ first codes fl rest, collErased s c = none → firstReady s peer c = false → c.results = (first, codes, fl) :: rest →
      (noRoute s peer c others = false → ∃ t ms, exec (.chunkSend peer) s = .next t ∧ sent t ms ∧
        ms.map (fun m => (m.toRank, m.body)) = (others.map fun j => (requestsOf c (first, first + codes.length)).map fun q =>
          (j, CollBody.result q.1 ((codes.drop (q.1 - first)).take (q.2 - q.1)) [] fl)).flatten) ∧
      (noRoute s peer c others = true → ∃ t, exec (.chunkSend peer) s = .next t ∧ SameMemory s t ∧ Failed peer c 5 s t))

/-- A message reaches the collective that takes it (R331, R332): a contribution is added to the sums of its elements, whose owner writes the results once every rank has contributed to all of its part of a chunk, and in a `car` keeps them to send on; results and copies are written, credits and barrier messages noted. A second residue mismatch in a row fails the collective with cause 4 (R97),
members that disagree with cause 2 (R336). What comes before its collective is posted, or may use its buffer, leaves the fabric and waits there (R326).
Each is acknowledged, and the acknowledgement at its sender ends its wait (R333). -/
def Sys2Proof.Claims.MessagesArrive : Prop :=
  (∀ (s : State) (id : Nat) (m : CollMsg) (c : Coll), Meets s id m c →
    let changed (f : Coll → Coll) (u : State) : State :=
      modDie m.dst (fun d => { d with colls := (d.colls.map fun x => if x.inst = c.inst then f x else x) }) u
    (∀ p, collErased s c = some p →
      (∀ chunk first codes, m.body = .contribution chunk first codes → EngineFaults (.contributionArrival id) m.dst c s) ∧
      ∀ first codes src fl, m.body = .result first codes src fl → EngineFaults (.resultDataArrival id) m.dst c s) ∧
    (collErased s c = none → ∃ s1, Received m s s1 ∧
    (∀ chunk first codes, m.body = .contribution chunk first codes →
      (s.turn.residue = 0 → ∃ sums, (∀ l, nget sums l = if first ≤ l ∧ l < first + codes.length then
            some (addContribution c.key m.fromRank (codes.getD (l - first) 0) ((nget c.sums l).getD Sum.empty)) else nget c.sums l) ∧
        let p := part c chunk c.rank
        (¬ Full c.key sums p → exec (.contributionArrival id) s = .next (changed (fun x => { x with sums := sums }) s1)) ∧
        (Full c.key sums p →
          let rs := (List.range (p.2 - p.1)).map fun i => sumResult c.key ((nget sums (p.1 + i)).getD Sum.empty)
          let fl := rs.foldl (fun f r => f ||| r.2) 0
          ∃ left, (∀ l, nget left l = if p.1 ≤ l ∧ l < p.2 then none else nget sums l) ∧
          exec (.contributionArrival id) s = .next (grantCredits m.dst (changed (fun x => { x with
              sums := left, granted := x.granted.filter (fun g => g != chunk), written := x.written + (p.2 - p.1)
              flags := x.flags ||| fl
              results := if x.key.kind = .ar then x.results ++ [(p.1, rs.map Prod.fst, fl)] else x.results })
            (writeReduced c p.1 (rs.map Prod.fst) s1))))) ∧
      (2 ≤ s.turn.residue → ∃ t, exec (.contributionArrival id) s = .next t ∧ Failed m.dst c 4 s t)) ∧
    (∀ first codes src fl, m.body = .result first codes src fl →
      exec (.resultDataArrival id) s = .next (changed (fun x => { x with
          written := x.written + codes.length, flags := x.flags ||| fl
          sources := if x.key.kind = .rs ∨ x.key.kind = .ar then x.sources else landedSources x first codes src })
        (if c.key.kind = .rs ∨ c.key.kind = .ar then writeReduced c first codes s1 else writeCopied c first codes src s1))) ∧
    (∀ chunk, m.body = .credit chunk →
      exec (.creditGrant id) s = .next (changed (fun x => { x with credits := x.credits ++ [(m.fromRank, chunk)] }) s1)) ∧
    (m.body = .arrival →
      exec (.barrierMessage id) s = .next (changed (fun x => { x with arrived := x.arrived ++ [m.fromRank] }) s1)) ∧
    (m.body = .release → exec (.barrierMessage id) s = .next (changed (fun x => { x with released := true }) s1)))) ∧
  (∀ (s : State) (id : Nat) (m : CollMsg) (c : Coll), IsFor s id m c → m.inbound = false → c.comm = m.comm → c.seq = m.seq →
    c.key ≠ m.key ∨ c.rank ≠ m.toRank →
    (∀ y ∈ (dieOf s m.dst).colls, y ≠ c → y.inst ≠ c.inst ∧
      (y.comm = m.comm → ∀ x, findColl (dieOf s m.src) y.inst = some x → x.key = y.key)) →
    (m.body = .arrival → ∃ t, exec (.barrierMessage id) s = .next t ∧ Failed m.dst c 2 s t) ∧
    (∀ chunk first codes, m.body = .contribution chunk first codes →
      ∃ t, exec (.contributionArrival id) s = .next t ∧ Failed m.dst c 2 s t)) ∧
  (∀ (s : State) (id : Nat) (m : CollMsg), messageAt s id = some m → m.sunk = false → m.frames = [] → canAccept s (messageItem m) = true →
    (addressee (dieOf s m.dst) m = none ∧ (commOf (dieOf s m.dst) m.comm).err = false ∧ m.inst ∉ (dieOf s m.dst).stoppedColls ∧
        (commOf (dieOf s m.dst) m.comm).iseq = m.seq) ∨
      (∃ c, addressee (dieOf s m.dst) m = some c ∧ c.key = m.key ∧ c.rank = m.toRank ∧ collActive (dieOf s m.dst) c = false) →
    let waits (i : Instr) : Prop := ∃ t, exec i s = .next t ∧ t.thr = s.thr ∧ SameMemory s t ∧ SameColls s t ∧
      t.messages = s.messages.map fun x => if x.id = m.id then { x with sunk := true, route := { x.route with drained := false } } else x
    (m.body = .arrival → waits (.barrierMessage id)) ∧ (∀ chunk, m.body = .credit chunk → waits (.creditGrant id)) ∧
    (∀ first codes src fl, m.body = .result first codes src fl → waits (.resultDataArrival id))) ∧
  (∀ (s : State) (id cause : Nat) (m : CollMsg), messageAt s id = some m → AtReceiver s m → m.body = .failure cause →
    ∃ t, exec (.collectiveFailureMessage id) s = .next t ∧ t.thr = s.thr ∧ SameMemory s t ∧
      (∀ c, findColl (dieOf s m.dst) m.inst = some c → c.comm = m.comm → c.seq = m.seq → Failed m.dst c cause s t) ∧
      (concerned (dieOf s m.dst) m.comm m.seq m.inst = none → (commOf (dieOf t m.dst) m.comm).err = true)) ∧
  (∀ (s : State) (id : Nat) (m : CollMsg) (x : Item), itemAt s id = some x → responseHome s x = true → packetAt s id = none →
    messageAt s id = some m → ∃ t, exec (.acknowledgement id) s = .next t ∧ t.thr = s.thr ∧ SameMemory s t ∧
      t.messages = s.messages.filter (fun y => ! (y.id == m.id)) ∧
      (dieOf t m.dst).colls = (dieOf s m.dst).colls.map fun y =>
        if y.inst = m.inst then { y with unacked := y.unacked.filter (fun a => a != m.id) } else y)

/-- The counter of a collective takes its increment: its home answers without a fault, and no `claimt` holds the word. -/
def Sys2Proof.Claims.CounterAnswers (peer : Nat) (c : Coll) (p : Phys) (s : State) : Prop :=
  keyErased s p.key p.fpa = false ∧ targetFault s .atomic peer false c.ctx p.fpa 8 = none ∧ memoryBad s .atomic p.fpa 8 = false ∧
    s.turn.residue = 0

/-- Completion (R333, R339), for one that can complete: its flags reach the issuing thread's `fflags`, a barrier
of routes switches the active table, the collective goes, its counter rises by 1 wherever it lies, CSEQ rises by 1 unless the
communicator has been made valid anew (R325). A barrier of routes with no table loaded fails with cause 5 and switches nothing. A frame to another pod is sent again after 20 µs, its eighth loss fails with cause 6, and with the last acknowledged the message has arrived (R338). -/
def Sys2Proof.Claims.CollectivesEnd : Prop :=
  (∀ (peer comm : Nat) (s : State) (c : Coll),
    (dieOf s peer).colls.find? (fun x => x.comm == comm && collDone s peer x) = some c → findColl (dieOf s peer) c.inst = some c →
    (c.key.kind ≠ .barRt ∨ (dieOf s peer).rtLoaded = true →
      ∃ t, exec (.collectiveCompletion peer comm) s = .next t ∧
        (dieOf t peer).rtsel = (if c.key.kind = .barRt then ! (dieOf s peer).rtsel else (dieOf s peer).rtsel) ∧
        (∀ x ∈ (dieOf t peer).colls, x.inst ≠ c.inst) ∧
        (c.ctr = none → SameMemory s t) ∧
        ((∀ p, c.ctr = some p → CounterAnswers peer c p s) →
          (∀ p, c.ctr = some p → Stored p.key p.fpa 8 ((memRead s p.key p.fpa 8 + 1) % 2 ^ 64) s t) ∧
          t.thr = (if s.thr.status = .running ∧ threadId s.thr = c.owner then
            { s.thr with u := { s.thr.u with fflags := s.thr.u.fflags ||| c.flags } } else s.thr) ∧
          (dieOf t peer).colls.map (·.inst) = ((dieOf s peer).colls.filter fun x => x.inst != c.inst).map (·.inst) ∧
          (commOf (dieOf t peer) comm).cseq = (commOf (dieOf s peer) comm).cseq +
            if (commOf (dieOf s peer) comm).epoch = c.epoch then 1 else 0)) ∧
    (c.key.kind = .barRt → (dieOf s peer).rtLoaded = false →
      ∃ t, exec (.collectiveCompletion peer comm) s = .next t ∧ (dieOf t peer).rtsel = (dieOf s peer).rtsel ∧
        Failed peer c 5 s t)) ∧
  (∀ (s : State) (id : Nat) (m : CollMsg) (e : FarEnd) (f : Frame), messageAt s id = some m → m.far = some e →
    (∀ fs, m.frames = f :: fs → portOf s (m.src / 4) e.port = .live →
      (fs ≠ [] → exec (.frameAck id) s = .next { s with messages := s.messages.map fun x =>
        if x.id = id then { x with frames := x.frames.tail } else x }) ∧
      (fs = [] → ∃ t, exec (.frameAck id) s = .next t ∧ t.thr = s.thr ∧ SameMemory s t ∧
        t.messages = s.messages.filter (fun x => ! (x.id == m.id)) ∧
        (dieOf t m.src).colls = (dieOf s m.src).colls.map fun y =>
          if y.inst = m.inst then { y with unacked := y.unacked.filter (fun a => a != m.id) } else y)) ∧
    (∀ pre post, m.frames = pre ++ f :: post → (∀ g ∈ pre, s.time < g.sent + 20000) → f.sent + 20000 ≤ s.time →
      portOf s (m.src / 4) e.port = .live →
      (f.lost < 7 → (∀ x ∈ s.messages, x.id = id → x = m) →
        exec (.frameResend id) s = .next { s with messages := s.messages.map fun x =>
          if x.id = id then { x with frames := pre ++ { lost := f.lost + 1, sent := s.time } :: post } else x }) ∧
      (7 ≤ f.lost → ∀ c, findColl (dieOf s m.src) m.inst = some c → c.comm = m.comm → c.seq = m.seq →
        ∃ t, exec (.frameResend id) s = .next t ∧ Failed m.src c 6 s t)) ∧
    ((∀ g ∈ m.frames, s.time < g.sent + 20000) → exec (.frameResend id) s = .fault .notEnabled))

/-- Collectives: the engine, the messages, completion and failure (R331 to R339). -/
def Obligations.CollectivesMoveAndEnd : Prop :=
  TheEngineSendsChunks ∧ MessagesArrive ∧ CollectivesEnd

/-! ## Memory-mapped registers, the fabric, management -/

namespace Sys2Proof.Claims

/-- A TLB entry that a value of TLBINV names (R380). -/
def Named (v : Word) (e : TlbEntry) : Prop :=
  (v.getLsbD 18 = true ∨ e.ctx = v.extractLsb' 0 16 ∨ v.getLsbD 17 = true ∧ e.pte.getLsbD 8 = true) ∧
  (v.getLsbD 17 = true ∨ e.pte.getLsbD 8 = false) ∧
  (v.getLsbD 16 = true ∨
    (if e.large then e.vpn / 2 ^ 13 = (v.extractLsb' 19 39).toNat / 2 ^ 13 else e.vpn = (v.extractLsb' 19 39).toNat))

/-- An entry of the communicator table may become valid (R325, R326; its ranges and the map's end: log 36). -/
def CommFits (peer i : Nat) (d : Die) (c : Comm) : Prop :=
  8 ≤ c.chunk.toNat ∧ c.chunk.toNat ≤ 20 ∧ c.rank.toNat ≤ c.nmem.toNat ∧ roomTaken d i + 16 * 2 ^ c.chunk.toNat ≤ 2 ^ 24 ∧
    c.map.toNat % 64 = 0 ∧ fpaPeer c.map.toNat = peer ∧ inFirmware c.map.toNat = true ∧
    inFirmware (c.map.toNat + 2 * c.nmem.toNat + 1) = true

/-- It stands at the router of its destination. -/
def There (x : Item) : Prop := x.route.flight = none ∧ x.route.node = x.toNode ∧ x.route.die = x.toDie

/-- It stands in an input of a router: neither between packages, nor on the Causeway, nor waiting at its home. -/
def Standing (x : Item) : Prop := x.route.flight = none ∧ x.route.drained = false ∧ x.route.waiting = false

/-- The input and virtual channel of two routes is the same. -/
def SameInput (a b : Route) : Prop := a.node = b.node ∧ a.die = b.die ∧ a.port = b.port ∧ a.vc = b.vc

/-- It is the head of its input and virtual channel, with nothing there before it. -/
def Head (s : State) (x : Item) : Prop :=
  Standing x ∧ ∀ y ∈ items s, Standing y → SameInput y.route x.route → x.route.seq ≤ y.route.seq

/-- A token holds it. -/
def Held (s : State) (id : Nat) : Prop :=
  (∃ t ∈ s.podTokens, t.held = some id) ∨ ∃ k ∈ s.pkgs, ∃ t ∈ k.2.tokens, t.held = some id

/-- Its home can accept it (R317): off the Causeway from its reserve, from where it waits, or a head while the reserves of that die are
empty. -/
def Accepted (s : State) (x : Item) : Prop :=
  There x ∧ ¬ Held s x.id ∧ (x.route.drained = true ∨ x.route.waiting = true ∨ Head s x ∧ (reserveOf s x.toNode x.toDie false).request = none ∧
    (reserveOf s x.toNode x.toDie true).request = none)

/-- Its way has become r; nothing else of what is under way has changed, nor memory, nor the current thread. -/
def MovesTo (i : Instr) (id : Nat) (r : Route) (s : State) : Prop :=
  ∃ t, exec i s = .next t ∧ t.thr = s.thr ∧ SameMemory s t ∧
    t.packets = (s.packets.map fun p => if p.id = id then { p with route := r } else p) ∧
    t.messages.map (fun m => (m.id, m.route)) = s.messages.map fun m => (m.id, if m.id = id then r else m.route)

/-- A request has become its response, which starts at the home (R312). -/
def Answered (p : Packet) (c : Cargo) (s t : State) : Prop :=
  t.thr = s.thr ∧ t.packets = s.packets.map fun q =>
    if q.id = p.id then { p with cargo := c, route := responseRoute (packetItem p) s.fresh } else q

/-- The bytes of a reply with a value alone, and of one with n bytes from an address on and what their sector is. -/
def ValueOf (a v : Nat) : Reply := { loc := a, code := false, val := v, fmt := 0, scale := 0, record := none }
def BytesOf (p : Packet) (code : Bool) (a n : Nat) (s : State) : Reply :=
  { loc := p.loc.fpa, code := code, val := memRead s p.loc.key a n, fmt := (sectorOf s (a / 64)).fmt, scale := (sectorOf s (a / 64)).scale
    record := if (sectorOf s (a / 64)).key = cipherOf s p.loc.key a then (sectorOf s (a / 64)).record else none }

/-- An entry of the export table lets a request of n bytes at a pass (R321). -/
def Exports (e : BitVec 128) (k : ReqKind) (peer : Nat) (ctx : BitVec 16) (a n : Nat) : Prop :=
  e.getLsbD 0 = true ∧ (match k with | .load => e.getLsbD 1 = true | .store => e.getLsbD 2 = true | .atomic => e.getLsbD 3 = true) ∧
    (e.getLsbD 16 = true ∨ (e.extractLsb' 4 12).toNat = peer) ∧ e.extractLsb' 32 16 = ctx ∧
    (e.extractLsb' 64 29).toNat * 65536 ≤ a % 2 ^ 45 ∧
    a % 2 ^ 45 + n ≤ ((e.extractLsb' 64 29).toNat + (e.extractLsb' 96 32).toNat) * 65536

/-- A thread with no page kept in any of its vector entries. -/
def noPages (u : Thread) : Thread := { u with v := { u.v with vq := u.v.vq.map fun e => { e with pages := [] } } }

/-- The fatal end of a context on a source die (R322): its threads and collectives there are gone, the management processor of the
source's package logs it, and that of a target in another package; the host event queue reports it. -/
def ContextEnds (cause : FatalCause) (peer : Nat) (ctx : BitVec 16) (w : Place) (target : Nat) (s t : State) : Prop :=
  SameMemory s t ∧
  (∀ u ∈ allThreads t, u.status = .running → u.host = false → ¬ (u.place.peer = peer ∧ u.k.ctxid = ctx)) ∧
  (∀ c ∈ (dieOf t peer).colls, c.ctx ≠ ctx) ∧
  (∃ x ∈ (pkgOf t (peer / 4)).log, x.tick = s.time ∧ x.code = .fatal cause ∧ x.peer = peer ∧
    x.data = [fatalNumber cause, ctx.toNat, target] ∧
    ∃ e ∈ (pkgOf t (peer / 4)).events ++ (pkgOf t (peer / 4)).eventsWaiting, e.kind = 1 ∧ e.peer = w.peer ∧ e.span = w.span ∧
      e.slot = w.slot ∧ e.value = BitVec.ofNat 64 (x.seq.toNat + ctx.toNat * 2 ^ 32)) ∧
  (fpaNode target ≠ peer / 4 → cause ≠ .kernelTrap → cause ≠ .queueSave → cause ≠ .queueRestore →
    ∃ x ∈ (pkgOf t (fpaNode target)).log, x.tick = s.time ∧ x.code = .fatal cause ∧ x.peer = peer ∧
      x.data = [fatalNumber cause, ctx.toNat, target])

/-- A command of a package ends (R340): its status word, its counter, and the entry of the host event queue. Threads, dies and the
other packages are as before. -/
def CommandEnds (node : Nat) (c : Command) (rest : List Command) (result state : Nat) (s t : State) : Prop :=
  (pkgOf t node).commands = rest ∧ t.thr = s.thr ∧ t.others = s.others ∧ (∀ n, n ≠ node → pkgOf t n = pkgOf s n) ∧
  (∃ u, (c.stat = 0 → SameMemory s u) ∧ (c.ctr = 0 → SameMemory u t) ∧
    (c.stat ≠ 0 → homeKind c.stat.toNat ≠ .absent → homeKind c.stat.toNat ≠ .mmio →
      Stored 0 c.stat.toNat 8 (result + 256 * state) s u) ∧
    (c.ctr ≠ 0 → homeKind c.ctr.toNat ≠ .absent → homeKind c.ctr.toNat ≠ .mmio →
      Stored 0 c.ctr.toNat 8 ((memRead u 0 c.ctr.toNat 8 + c.inc.toNat) % 2 ^ 64) u t)) ∧
  ∃ e ∈ (pkgOf t node).events ++ (pkgOf t node).eventsWaiting, e.kind = 2 ∧ e.peer = c.place.peer ∧ e.span = c.place.span ∧
    e.slot = c.place.slot ∧ e.value = BitVec.ofNat 64 (result + state * 2 ^ 8 + c.op * 2 ^ 16 + c.target * 2 ^ 24)

/-- The codes of R341. -/
def stateCode : PortState → Nat
  | .live => 0 | .draining _ => 1 | .dark _ => 2 | .training _ => 3 | .verify _ => 4

/-- Two commands occupy one unit: the tables of one die, or one port. -/
def SameUnit (c d : Command) : Prop := (c.op = 3 ↔ d.op = 3) ∧ c.target = d.target

/-- A command is the next of those that meet a condition: no earlier one of its unit holds it up, and every earlier such command is
itself held up (R340). -/
def NextOf (node : Nat) (p : Command → Bool) (pre : List Command) (c : Command) (post : List Command) (s : State) : Prop :=
  (pkgOf s node).commands = pre ++ c :: post ∧ c.active = false ∧ p c = true ∧ (∀ d ∈ pre, ¬ SameUnit d c) ∧
    ∀ x d y, pre = x ++ d :: y → d.active = false → p d = true → ∃ e ∈ x, SameUnit e d

/-- The packages other than one are as before, with the dies, Spans and threads of all. -/
def OnlyPackage (node : Nat) (s t : State) : Prop :=
  t.thr = s.thr ∧ t.others = s.others ∧ t.spans = s.spans ∧ t.dies = s.dies ∧ ∀ n, n ≠ node → pkgOf t n = pkgOf s n

/-- Only one die is not as before. -/
def OnlyDie (peer : Nat) (s t : State) : Prop :=
  t.thr = s.thr ∧ t.others = s.others ∧ t.spans = s.spans ∧ t.pkgs = s.pkgs ∧ t.packets = s.packets ∧ t.messages = s.messages ∧
    SameMemory s t ∧ ∀ p, p ≠ peer → dieOf t p = dieOf s p

end Sys2Proof.Claims

/-- Register writes (R71, R192, R314, R321, R323, R325, R338, R375): a timer and an export entry hold what is written, with reserved
bits 0; read-only registers discard it; T_d and the time limit are held in their ranges; words 1 and 2 of a communicator hold
what is written only while VALID is 0; word 0 of a valid entry acts on ERR alone, and VALID comes to 1 only where the entry fits. -/
def Sys2Proof.Claims.RegisterWritesFollowTheirRules : Prop :=
  ∀ (peer : Nat) (v : Word) (s : State),
    (∀ span n, span < 192 → n < 8 → exec (.registerWrite (.mmio (fpaOf peer span 3 (0x200 + 8 * n))) v) s =
      .next (modSpan peer span (fun x => { x with timers := vset x.timers n v }) s)) ∧
    (∀ off ∈ [0x10, 0x18, 0x20, 0x80000000, 0x80000008, 0x80000100, 0x80000108, 0x80002000, 0x80002008],
      exec (.registerWrite (.mmio (fpaOf peer 192 3 off)) v) s = .next s) ∧
    (∀ x < 4096, ∀ h < 2, ∃ t, exec (.registerWrite (.mmio (fpaOf peer 192 3 (0x10000 + 16 * x + 8 * h))) v) s = .next t ∧
      OnlyDie peer s t ∧
      (∀ y, y ≠ x → nget (dieOf t peer).exports y = nget (dieOf s peer).exports y) ∧
      let old := (nget (dieOf s peer).exports x).getD 0
      let new := (nget (dieOf t peer).exports x).getD 0
      (h = 0 → new.extractLsb' 0 17 = v.extractLsb' 0 17 ∧ new.extractLsb' 17 15 = 0 ∧ new.extractLsb' 32 16 = v.extractLsb' 32 16 ∧
        new.extractLsb' 48 16 = 0 ∧ new.extractLsb' 64 64 = old.extractLsb' 64 64) ∧
      (h = 1 → new.extractLsb' 64 29 = v.extractLsb' 0 29 ∧ new.extractLsb' 93 3 = 0 ∧ new.extractLsb' 96 32 = v.extractLsb' 32 32 ∧
        new.extractLsb' 0 64 = old.extractLsb' 0 64)) ∧
    (exec (.detectWrite peer v) s = .next (modDie peer (fun d => { d with
      td := if (v.extractLsb' 0 16).toNat < 250 then 250 else v.extractLsb' 0 16 }) s)) ∧
    (exec (.timeoutWrite peer v) s = .next (modDie peer (fun d => { d with
      timeout := if v.toNat < 100 then 100 else if 1000000 < v.toNat then 1000000 else v.setWidth 20 }) s)) ∧
    (∀ i < 64, let c := commOf (dieOf s peer) i
      (∀ w ∈ [1, 2], ∃ t, exec (.registerWrite (.mmio (fpaOf peer 192 3 (0x20000 + 64 * i + 8 * w))) v) s = .next t ∧
        OnlyDie peer s t ∧ commOf (dieOf t peer) i =
          if c.valid then c else if w = 1 then { c with map := v } else { c with ctx := v.extractLsb' 0 16 }) ∧
      ∃ t, exec (.communicatorWord0Write peer i v) s = .next t ∧ OnlyDie peer s t ∧
        let err := c.err && ! v.getLsbD 1
        let n : Comm := { c with
          valid := false, err := err, vc := v.extractLsb' 2 3, chunk := v.extractLsb' 5 5, nmem := v.extractLsb' 10 12
          rank := v.extractLsb' 22 12 }
        let new := commOf (dieOf t peer) i
        (c.valid = true → v.getLsbD 0 = true → new = { c with err := err }) ∧
        (v.getLsbD 0 = false → new = n) ∧
        (c.valid = false → v.getLsbD 0 = true → CommFits peer i (dieOf s peer) n →
          new = { n with valid := true, iseq := 0, cseq := 0, epoch := c.epoch + 1 }) ∧
        (c.valid = false → v.getLsbD 0 = true → ¬ CommFits peer i (dieOf s peer) n → new.valid = false))

/-- Messages and invalidations (R380, R381, R395 to R397): a write of HMSG replaces the data, with OVR where one is pending, and a
load clears both; for an empty slot the thread
that was there last keeps it if it is saved, else it is discarded. DEVMSG appends an entry with its writer, and waits while the queue is full; a load of
HEVQD removes the oldest. TLBINV removes exactly the entries that it names, later elements of vector entries translate anew, but for a vector atomic that has
been checked (R199), and its writer goes on once what was in flight has performed. -/
def Sys2Proof.Claims.MessagesAndInvalidations : Prop :=
  (∀ (peer span slot : Nat) (v : Word) (s : State), span < 192 → slot < 8 →
    let h := vget (spanOf s peer span).hmsg slot { data := 0, pend := false, ovr := false, irq := false }
    ((∃ t ∈ allThreads s, t.status = .running ∧ t.place = ⟨peer, span, slot⟩) →
      exec (.hmsgWrite peer span slot v) s = .next (modSpan peer span (fun x => { x with
        hmsg := vset x.hmsg slot { data := v.extractLsb' 0 63, pend := true, ovr := h.ovr || h.pend, irq := true } }) s)) ∧
    (threadAt s ⟨peer, span, slot⟩ = none →
      (vget (spanOf s peer span).owners slot none = none → exec (.hmsgWrite peer span slot v) s = .next s) ∧
      ∀ id, vget (spanOf s peer span).owners slot none = some id → exec (.hmsgWrite peer span slot v) s =
        .next (modLaunch (peer / 4) id.1 (fun l => { l with saved := l.saved.map fun x =>
          if x.tid = id.2 ∧ x.peer = peer ∧ x.span = span ∧ x.slot = slot then
            { x with msg := { data := v.extractLsb' 0 63, pend := true, ovr := x.msg.ovr || x.msg.pend, irq := true } }
          else x }) s)) ∧
    exec (.hmsgRead peer span slot) s = .next (modSpan peer span (fun x => { x with
      hmsg := vset x.hmsg slot { h with pend := false, ovr := false } }) s)) ∧
  (∀ (v : Word) (s : State), let p := pkgOf s (myNode s)
    (p.events.length < 256 → p.eventsWaiting = [] → exec (.devmsg v) s = .next (modPkg (myNode s) (fun p => { p with
      events := p.events ++ [⟨0, s.thr.place.peer, s.thr.place.span, s.thr.place.slot, v⟩] }) s)) ∧
    (256 ≤ p.events.length → exec (.devmsg v) s = .next (park .other s))) ∧
  (∀ (node : Nat) (s : State), ∃ t, exec (.hevqd node) s = .next t ∧ OnlyPackage node s t ∧ SameMemory s t ∧
    let p := pkgOf s node
    let q := pkgOf t node
    q.events ++ q.eventsWaiting = p.events.tail ++ p.eventsWaiting ∧
      (p.events.length ≤ 256 → q.events.length = min 256 (p.events.tail.length + p.eventsWaiting.length))) ∧
  (∀ (peer : Nat) (v : Word) (s : State), peer / 4 < 1024 → ∃ t, exec (.tlbinv peer v) s = .next t ∧ noPages t.thr = noPages s.thr ∧
      t.others.map noPages = s.others.map noPages ∧
      (∀ u ∈ allThreads t, u.place.peer = peer → u.host = false → ∀ e ∈ u.v.vq, (∃ x ∈ e.pages, Named v x) →
        e.checked = true ∧ ((∃ a b c d, e.ins = .vaadd a b c d) ∨ ∃ a b c d, e.ins = .vafadd a b c d)) ∧
      t.pkgs = s.pkgs ∧ t.packets = s.packets ∧ SameMemory s t ∧ (∀ p, p ≠ peer → dieOf t p = dieOf s p) ∧
      (∀ p k, k < 256 → { spanOf t p k with utlb := [] } = { spanOf s p k with utlb := [] } ∧
        ∀ e, e ∈ (spanOf t p k).utlb ↔ e ∈ (spanOf s p k).utlb ∧ ¬ (p = peer ∧ Named v e)) ∧
    (∀ e, e ∈ (dieOf t peer).tlb ↔ e ∈ (dieOf s peer).tlb ∧ ¬ Named v e) ∧
    (∃ x ∈ (dieOf t peer).invals, x.place = s.thr.place ∧ x.value = v)) ∧
  (∀ (peer : Nat) (s : State),
    (∀ x, (dieOf s peer).invals.find? (invalDone s peer) = some x →
      ∃ t, exec (.invalidationComplete peer) s = .next t ∧ SameMemory s t ∧
        (s.thr.status = .running → s.thr.place = x.place → s.thr.wait = some .inval → t.thr = { s.thr with wait := none }) ∧
        ((∀ u ∈ allThreads s, u.status = .running → u.place = x.place → u.wait ≠ some .inval) → ∀ y ∈ (dieOf t peer).invals, y.place ≠ x.place)) ∧
    ((∀ x ∈ (dieOf s peer).invals, ∃ p ∈ s.packets, p.id ∈ x.packets) →
      exec (.invalidationComplete peer) s = .fault .notEnabled))

/-- The memory-mapped registers (R192, R308, R325, R380, R395 to R397). -/
def Obligations.MemoryMappedRegisters : Prop :=
  RegisterWritesFollowTheirRules ∧ MessagesAndInvalidations

/-- Hops (R309 to R313) of packets and messages: the head of an input goes within a package to the die aimed at
or over one die more, between packages on a usable plane to the package aimed at or over one more, and sets XPKG; it arrives there
unless it was lost; a head that cannot advance is watched, unless its input is in DRAIN. Nothing else moves. -/
def Sys2Proof.Claims.ItemsHop : Prop :=
  ∀ (s : State) (id : Nat) (x : Item), itemAt s id = some x →
    let r := x.route
    let aim := if r.node = x.toNode then x.toDie else 4
    (∀ h, r.drained = true → exec (.packetHop id h) s = .fault .notEnabled) ∧
    (Head s x →
      (∀ d < 5, d ≠ r.die → r.die ≠ aim →
        (d = aim ∨ r.hops = 0 →
          MovesTo (.packetHop id (.viaduct d)) id { r with die := d, port := r.die, seq := s.fresh, hops := r.hops + 1, det := .idle } s) ∧
        (d ≠ aim → r.hops ≠ 0 → exec (.packetHop id (.viaduct d)) s = .fault .notEnabled)) ∧
      (∀ pl n, r.die = 4 → r.node ≠ x.toNode → planeUsable s r.node pl n = true → n = x.toNode ∨ r.pkgs = 0 →
        MovesTo (.packetHop id (.plane pl n)) id { r with
          node := n, die := 4, port := 5 + pl, seq := s.fresh, flight := some (pl, r.node), hops := 0
          pkgs := if n = x.toNode then r.pkgs else r.pkgs + 1, xpkg := true, det := .idle } s) ∧
      (r.det = .idle → (∀ y ∈ items s, Held s y.id → ¬ SameInput y.route r) →
        MovesTo (.packetHop id .blocked) id { r with det := .watch s.time } s) ∧
      (∀ y ∈ items s, Held s y.id → SameInput y.route r → exec (.packetHop id .blocked) s = .fault .notEnabled)) ∧
    (¬ Head s x → ∀ h, h ≠ .arrive → exec (.packetHop id h) s = .fault .notEnabled) ∧
    (∀ f, r.flight = some f → r.drained = false →
      (r.lost = false → MovesTo (.packetHop id .arrive) id { r with flight := none, seq := s.fresh } s) ∧
      (r.lost = true → exec (.packetHop id .arrive) s = .fault .notEnabled))

/-- The rights of a request at its home (R22, R200, R321): the export table of another die, which a host core's requests do not meet
(R394), and the limit of a scratchpad there. -/
def Sys2Proof.Claims.TheTargetChecksRequests : Prop :=
  ∀ (s : State) (k : ReqKind) (peer : Nat) (host : Bool) (ctx : BitVec 16) (a n : Nat),
    let here := fpaPeer a = peer
    let passes := host = true ∨ here ∨ ∃ e ∈ (dieOf s (fpaPeer a)).exports, Exports e.2 k peer ctx a n
    let y := spanOf s (fpaPeer a) (fpaSpan a)
    let beyond := (host = true ∨ ¬ here) ∧ homeKind a = .pad ∧ padLimit y < fpaOffset a + n
    (¬ passes → targetFault s k peer host ctx a n = some .exportMiss) ∧
    (passes → beyond → targetFault s k peer host ctx a n = some .targetFault) ∧
    (passes → ¬ beyond → targetFault s k peer host ctx a n = none) ∧
    (∀ l, y.launch = some l →
      padLimit y = (y.poolcap - 4 * ((l.2.extractLsb' 0 4).toNat + (l.2.extractLsb' 4 5).toNat)) * 16384)

/-- Requests and responses (R200, R201, R206, R224, R321 to R323): a request that its home accepts passes those checks, performs, and is answered with what the home holds, its flags or a fault; under an erased key slot it
is answered by a fault (R402, log 42), and one for a word that a `claimt` holds waits there (R360). A response ends it: data reaches the agent that asked, an acknowledgement brings flags, a fault ends the context, or stops
the transfer whose access met a memory error once its other requests are acknowledged; so does a response that is lost, no sooner than TIMEOUT says. -/
def Sys2Proof.Claims.RequestsPerform : Prop :=
  (∀ (s : State) (id : Nat) (p : Packet), packetAt s id = some p →
    let a := p.loc.fpa
    let sec := sectorOf s (a / 64)
    let answers (c : Cargo) : Prop := ∃ t, exec (.requestAtHome id) s = .next t ∧ SameMemory s t ∧ Answered p c s t
    let mine := s.thr.status = .running ∧ s.thr.place = p.place ∧ threadId s.thr = p.owner
    let ends (i : Instr) (t : State) : Prop := exec i s = .next t ∧ t.packets = s.packets.filter fun q => q.id != id
    (Accepted s (packetItem p) →
      (∀ k n, requestKind p.cargo = some (k, n) → keyErased s p.loc.key a = true → answers (.fault .targetFault)) ∧
      (keyErased s p.loc.key a = false →
        (∀ k n, requestKind p.cargo = some (k, n) →
          let waits := waitsForWord p = true ∧ ∃ x ∈ (dieOf s (fpaPeer a)).claims, x.2 ≠ p.place ∧ a < x.1 + 16 ∧ x.1 < a + n
          (∀ c, targetFault s k p.place.peer (isHostPlace p.place) p.ctx a n = some c → answers (.fault c)) ∧
          (targetFault s k p.place.peer (isHostPlace p.place) p.ctx a n = none → waits →
            (p.route.waiting = true → exec (.requestAtHome id) s = .fault .notEnabled) ∧
            (p.route.waiting = false → MovesTo (.requestAtHome id) id { p.route with waiting := true } s)) ∧
          (targetFault s k p.place.peer (isHostPlace p.place) p.ctx a n = none → ¬ waits →
            (memoryBad s k a n = true → (∀ m, p.cargo = .load m → answers (.fault .memoryError)) ∧
              (∀ o v, p.cargo = .atomic o v → answers (.fault .memoryError)) ∧
              (∀ o, p.cargo = .fetch o → answers (.fault .memoryError)) ∧
              (∀ b, p.cargo = .line b ∨ p.cargo = .code b ∨ p.cargo = .hold → answers (.fault .memoryError))) ∧
            (memoryBad s k a n = false → s.turn.residue = 0 →
              (∀ m, p.cargo = .load m → answers (.data (BytesOf p false a m s))) ∧
              (p.cargo = .sector → memoryBad s .load (a / 64 * 64) 64 = false →
                answers (.data (BytesOf p false (a / 64 * 64) 64 s))) ∧
              -- window and instruction lines, which the place that asked keeps unless an acquire has come between
              (∀ b, p.cargo = .line b → answers (.data (BytesOf p false a 64 s)) ∧
                ∀ t, exec (.requestAtHome id) s = .next t → b = true → isHostPlace p.place = false →
                  ∃ f ∈ (dieOf t p.place.peer).winFills, f.line = a / 64 ∧ f.key = p.loc.key ∧
                    f.data = BitVec.ofNat 512 (memRead s p.loc.key a 64) ∧ f.fmt = sec.fmt ∧ f.scale = sec.scale) ∧
              (∀ b, p.cargo = .code b → answers (.data (BytesOf p true a 64 s)) ∧
                ∀ t, exec (.requestAtHome id) s = .next t → b = true → isHostPlace p.place = false →
                  nget (spanOf t p.place.peer p.place.span).icache (a / 64) =
                    some ⟨BitVec.ofNat 512 (memRead s p.loc.key a 64), p.loc.key⟩) ∧
              (∀ m v x, p.cargo = .part m v x → 0 < m → ∃ t, exec (.requestAtHome id) s = .next t ∧
                Stored p.loc.key a m (v % 2 ^ (8 * m)) s t ∧ (sectorOf t (a / 64)).record = x ∧ Answered p (.ack 0) s t) ∧
              -- a claim word, and registers
              (p.cargo = .hold → answers (.data (ValueOf a (memRead s p.loc.key a 16))) ∧
                ∀ t, exec (.requestAtHome id) s = .next t → mine → (a, p.place) ∈ (dieOf t (fpaPeer a)).claims) ∧
              (∀ x, p.cargo = .release x → ∃ t, exec (.requestAtHome id) s = .next t ∧ Answered p (.data (ValueOf a 0)) s t ∧
                (a, p.place) ∉ (dieOf t (fpaPeer a)).claims ∧ (x = none → SameMemory s t) ∧
                ∀ v, x = some v → Stored p.loc.key a 8 v.toNat s t) ∧
              (∀ m, p.cargo = .reg m none → ∃ t, exec (.requestAtHome id) s = .next t ∧ SameMemory s t ∧
                Answered p (.data (ValueOf a ((peekReg s (a / 8 * 8)).toNat / 2 ^ (8 * (a % 8)) % 2 ^ (8 * m)))) s t) ∧
              (∀ m v u, p.cargo = .reg m (some v) → isTlbinv a = false → regStore p.place a m v s = .ok () u →
                ∃ t, exec (.requestAtHome id) s = .next t ∧ SameMemory u t ∧ Answered p (.data (ValueOf a 0)) s t) ∧
              (∀ m v, p.cargo = .store m v → 0 < m → ∃ t, exec (.requestAtHome id) s = .next t ∧
                Stored p.loc.key a m (v % 2 ^ (8 * m)) s t ∧ Answered p (.ack 0) s t) ∧
              (∀ d f e, p.cargo = .put d f e → ∃ t, exec (.requestAtHome id) s = .next t ∧
                SameMemory (sectorWrite p.loc.key (a / 64) d f e s) t ∧ Answered p (.ack 0) s t) ∧
              (∀ op v, p.cargo = .atomic op v → let old := memRead s p.loc.key a (atomicSize op)
                ∃ t, exec (.requestAtHome id) s = .next t ∧
                  Stored p.loc.key a (atomicSize op) (atomicValue op v old % 2 ^ (8 * atomicSize op)) s t ∧
                  Answered p (.ack (atomicFlags op v old)) s t) ∧
              (∀ op v u, p.cargo = .fetch op → fetchAt op p.loc s = (.ok v, u) → ∃ t, exec (.requestAtHome id) s = .next t ∧
                SameMemory u t ∧ Answered p (.data (ValueOf a v)) u t)))))) ∧
    (¬ Held s id → itemAt s id = some (packetItem p) →
      p.route.drained = true ∧ causewayOpen s (packetItem p) = true ∨ There (packetItem p) ∧ Head s (packetItem p) →
      (∀ fl, p.cargo = .ack fl → ∃ t, ends (.acknowledgement id) t ∧ SameMemory s t ∧
        (mine → t.thr = { s.thr with u := { s.thr.u with fflags := s.thr.u.fflags ||| fl } }) ∧ (¬ mine → t.thr = s.thr)) ∧
      (∀ r, p.cargo = .data r → ∃ t, ends (.acknowledgement id) t ∧ SameMemory s t ∧ (¬ mine → t.thr = s.thr) ∧
        (mine → p.dest = none → p.agent = .scalar → t.thr = { s.thr with replies := s.thr.replies ++ [r] }) ∧
        (mine → ∀ d, p.dest = some d → let u := writeElem d.long d.reg d.elem d.sew (BitVec.ofNat 64 r.val) s.thr
          { t.thr with v := { t.thr.v with landed := s.thr.v.landed } } = { u with v := { u.v with landed := s.thr.v.landed } })) ∧
      (∀ c, p.cargo = .fault c → (∀ o, p.agent = .copy o → c ≠ .memoryError) → ∃ t, ends (.faultResponse id) t ∧
        ContextEnds c p.place.peer p.ctx p.place a s t) ∧
      (∀ o, p.agent = .copy o → p.cargo = .fault .memoryError → ∃ t, ends (.faultResponse id) t ∧ SameMemory s t ∧
        (mine → t.thr = { s.thr with tr := s.thr.tr.map fun x =>
          if x.order = o then { x with failed := true, added := false } else x }))) ∧
    (p.sent + (dieOf s p.place.peer).timeout.toNat * 1000 ≤ s.time → ∃ t, ends (.lostResponse id) t ∧
      ContextEnds .lostResponse p.place.peer p.ctx p.place a s t) ∧
    (s.time < p.sent + (dieOf s p.place.peer).timeout.toNat * 1000 → exec (.lostResponse id) s = .fault .notEnabled)) ∧
  (∀ (s : State) (id : Nat) (m : CollMsg) (c : Coll), packetAt s id = none → messageAt s id = some m → bodyAcked m.body = true →
    inFabric m = true → m.far = none → findColl (dieOf s m.src) m.inst = some c →
    (m.sent + (dieOf s m.src).timeout.toNat * 1000 ≤ s.time → ∃ t, exec (.lostResponse id) s = .next t ∧
      ContextEnds .lostResponse m.src c.ctx ⟨m.src, 0, 0⟩ (fpaOf m.dst 255 15 0) s t) ∧
    (s.time < m.sent + (dieOf s m.src).timeout.toNat * 1000 → exec (.lostResponse id) s = .fault .notEnabled))

/-- Detectors and the Causeway (R313, R316 to R318): a head watched for T_d is flagged, no sooner; the suspect is the flagged head at the lowest-numbered input; a captured request is sunk into a free reserve, counted and
logged with its input, and the token goes on. -/
def Sys2Proof.Claims.SuspectsAreSunk : Prop :=
  (∀ (s : State) (id since : Nat) (x : Item), itemAt s id = some x → x.route.det = .watch since →
    let r := x.route
    let td := (dieOf s (r.node * 4 + if r.die = 4 then 0 else r.die)).td.toNat
    (s.time < since + td ∨ ¬ Head s x → exec (.detectTimeout id) s = .fault .notEnabled) ∧
    (Head s x → since + td ≤ s.time →
      MovesTo (.detectTimeout id) id { r with det := .flagged } s ∧ ∀ t, exec (.detectTimeout id) s = .next t →
        (r.die = 4 → (pkgOf t r.node).ioFlags = (pkgOf s r.node).ioFlags + 1 ∧ t.dies = s.dies) ∧
        (r.die ≠ 4 → (dieOf t (r.node * 4 + r.die)).flagCount = (dieOf s (r.node * 4 + r.die)).flagCount + 1 ∧ t.pkgs = s.pkgs))) ∧
  (∀ (s : State) (node die : Nat) (pod : Bool),
    let flagged (y : Item) : Prop :=
      y ∈ items s ∧ Head s y ∧ y.route.node = node ∧ y.route.die = die ∧ y.route.det = .flagged ∧ y.route.xpkg = pod
    (∀ x, suspectAt s node die pod = some x →
      flagged x ∧ ∀ y, flagged y → x.route.port * 16 + x.route.vc ≤ y.route.port * 16 + y.route.vc) ∧
    (suspectAt s node die pod = none → ∀ y, ¬ flagged y)) ∧
  (∀ (s : State) (id : Nat) (p : Packet), packetAt s id = some p → itemAt s id = some (packetItem p) → Held s id →
    let x := packetItem p
    let r := p.route
    causewayOpen s x = true →
    (x.request = true → (reserveOf s x.toNode x.toDie r.xpkg).request ≠ none → exec (.suspectSunk id) s = .fault .notEnabled) ∧
    (x.request = false ∨ (reserveOf s x.toNode x.toDie r.xpkg).request = none → messageAt s id = none →
      MovesTo (.suspectSunk id) id { r with node := x.toNode, die := x.toDie } s ∧ ∀ t, exec (.suspectSunk id) s = .next t →
        (x.request = true → (reserveOf t x.toNode x.toDie r.xpkg).request = some id) ∧
        (r.die < 4 → (dieOf t (r.node * 4 + r.die)).drainCount = (dieOf s (r.node * 4 + r.die)).drainCount + 1) ∧
        (r.die = 4 → (pkgOf t r.node).ioDrains = (pkgOf s r.node).ioDrains + 1) ∧
        (∀ k : Token, (pkgOf s r.node).tokens = [k] → k.held = some id →
          (pkgOf t r.node).tokens = [{ k with held := none, pos := (k.pos + 1) % 5 }]) ∧
        (∀ k : Token, s.podTokens = [k] → k.held = some id → t.podTokens = [{ k with held := none, pos := (k.pos + 1) % 1024 }]) ∧
        ∃ e ∈ (pkgOf t r.node).log, e.code = .drain ∧ e.tick = s.time ∧ e.peer = 4 * r.node + r.die ∧
          e.data.take 4 = [r.die, r.port, r.vc, r.xpkg.toNat]))

/-- Tokens (R315, R316): a free token that visits captures for the suspect of its domain, unless another token is held or a request's
response credit is in use, and else goes on round its ring, the pod's where some plane carries a write to the next package (R324); one older (log 91) than the last seen is discarded; a token missed at the head of its ring is issued anew with the next epoch, also while held (log 45). -/
def Sys2Proof.Claims.TokensVisit : Prop :=
  (∀ (s : State) (node : Nat), ((∀ k ∈ (pkgOf s node).tokens, k.held ≠ none) → exec (.packageTokenVisit node) s = .fault .notEnabled) ∧
    ∀ (pre post : List Token) (k : Token), (pkgOf s node).tokens = pre ++ k :: post → (∀ y ∈ pre, y.held ≠ none) → k.held = none →
      let seen := if k.pos = 4 then (pkgOf s node).ioEpoch else (dieOf s (4 * node + k.pos)).epoch
      let free (x : Item) : Prop := pre = [] ∧ (∀ y ∈ post, y.held = none) ∧
        (x.request = true → (reserveOf s x.fromNode x.fromDie x.route.xpkg).credit = none)
      let k1 : Token := { k with visited := if k.pos = 0 then s.time else k.visited }
      (epochOlder k.epoch seen = true → exec (.packageTokenVisit node) s = .next (modPkg node (fun p => { p with tokens := pre ++ post }) s)) ∧
      (epochOlder k.epoch seen = false →
        (∀ x, suspectAt s node k.pos false = some x → free x →
          MovesTo (.packageTokenVisit node) x.id { x.route with drained := true, det := .idle } s ∧
          ∀ t, exec (.packageTokenVisit node) s = .next t → (pkgOf t node).tokens = pre ++ post ++ [{ k1 with held := some x.id }]) ∧
        ((∀ x, suspectAt s node k.pos false = some x → ¬ free x) → ∃ t, exec (.packageTokenVisit node) s = .next t ∧
          SameMemory s t ∧ t.packets = s.packets ∧ t.messages = s.messages ∧
          (pkgOf t node).tokens = pre ++ post ++ [{ k1 with pos := (k.pos + 1) % 5 }]))) ∧
  (∀ (s : State) (k : Token), s.podTokens = [k] →
    let suspect := (List.range 5).findSome? fun d => suspectAt s k.pos d true
    let free (x : Item) : Prop := x.request = true → (reserveOf s x.fromNode x.fromDie x.route.xpkg).credit = none
    let k1 : Token := { k with visited := if k.pos = 0 then s.time else k.visited }
    (k.held ≠ none → exec .podTokenVisit s = .fault .notEnabled) ∧
    (k.held = none → epochOlder k.epoch (pkgOf s k.pos).podEpoch = false →
      (∀ x, suspect = some x → free x → MovesTo .podTokenVisit x.id { x.route with drained := true, det := .idle } s ∧
        ∀ t, exec .podTokenVisit s = .next t → t.podTokens = [{ k1 with held := some x.id }]) ∧
      ((∀ x, suspect = some x → ¬ free x) → (∀ pl < 64, planeUsable s k.pos pl ((k.pos + 1) % 1024) = false) →
        exec .podTokenVisit s = .fault .notEnabled) ∧
      ((∀ x, suspect = some x → ¬ free x) → (∃ pl < 64, planeUsable s k.pos pl ((k.pos + 1) % 1024) = true) → ∃ t, exec .podTokenVisit s = .next t ∧ SameMemory s t ∧ t.packets = s.packets ∧
        t.messages = s.messages ∧ t.podTokens = [{ k1 with pos := (k.pos + 1) % 1024 }]))) ∧
  (∀ (s : State) (node : Nat) (k : Token), (pkgOf s node).tokens = [k] →
    (k.visited + 1000 ≤ s.time → exec (.packageTokenReissue node) s = .next (modPkg node (fun p => { p with
      tokens := [k, { epoch := k.epoch + 1, pos := 0, held := none, visited := s.time }] }) s)) ∧
    (s.time < k.visited + 1000 → exec (.packageTokenReissue node) s = .fault .notEnabled)) ∧
  (∀ (s : State) (k : Token), s.podTokens = [k] →
    (k.visited + 20000000 ≤ s.time → exec .podTokenReissue s =
      .next { s with podTokens := [k, { epoch := k.epoch + 1, pos := 0, held := none, visited := s.time }] }) ∧
    (s.time < k.visited + 20000000 → exec .podTokenReissue s = .fault .notEnabled))

/-- Planes (R324): a plane that stops delivering leaves the routing of the package until it is brought back, is logged, and loses what it
carries to or from there. -/
def Sys2Proof.Claims.PlanesStopAndReturn : Prop :=
  ∀ (s : State) (node plane : Nat) (lost : List Nat), plane < 64 →
    (∃ t, exec (.planeStopsDelivering node plane lost) s = .next t ∧ SameMemory s t ∧ t.thr = s.thr ∧
      (∀ n, planeUsable t node plane n = false) ∧
      (∀ p ∈ t.packets, ∀ n, p.route.flight = some (plane, n) → p.route.node = node ∨ n = node →
        lost = [] ∨ (p.route.node = node ∧ n ∈ lost) ∨ (n = node ∧ p.route.node ∈ lost) → p.route.lost = true) ∧
      ∃ x ∈ (pkgOf t node).log, x.code = .link ∧ x.tick = s.time) ∧
    ∃ t, exec (.stationBroughtBack node plane) s = .next t ∧ OnlyPackage node s t ∧ SameMemory s t ∧
      ∀ n < 1024, n ≠ node → planeOut s n plane = false → planeUsable t node plane n = true

/-- Packets and the Keystone (R309 to R318, R321 to R324). -/
def Obligations.TheFabricCarriesRequests : Prop :=
  ItemsHop ∧ TheTargetChecksRequests ∧ RequestsPerform ∧ SuspectsAreSunk ∧ TokensVisit ∧ PlanesStopAndReturn

/-- Management commands and scale-out ports (R340, R341), for the next command of each operation, which no earlier command of its unit
holds up: DRAIN of a live port and RETRAIN of a dark one begin, and are rejected on any other; LOADRT fills the inactive table;
QUERY reports; a record that is not in order is rejected. A port that drains goes dark, and one that trains is verified and comes
back or goes dark, with the results of R341, no sooner and no later than it says. -/
def Obligations.CommandsAndPorts : Prop :=
  (∀ (s : State) (node : Nat) (c : Command) (pre post : List Command),
    let st := portOf s node c.target
    let inOrder := c.zero = true ∧ c.target < 8
    let begins (x : PortState) : State := modPkg node (fun p => { p with
      ports := nset p.ports c.target x, commands := pre ++ { c with active := true } :: post }) s
    let ends (i : Instr) (result state : Nat) : Prop :=
      ∃ t, exec i s = .next t ∧ t.dies = s.dies ∧ CommandEnds node c (pre ++ post) result state s t
    (NextOf node (fun c => c.op == 1) pre c post s →
      (inOrder → st = .live → exec (.drain node) s = .next (begins (.draining s.time))) ∧
      (¬ inOrder ∨ st ≠ .live → ends (.drain node) 1 (stateCode st))) ∧
    (NextOf node (fun c => c.op == 2) pre c post s →
      (∀ since, st = .dark since →
        (inOrder → since + 10000 ≤ s.time → exec (.retrain node) s = .next (begins (.training s.time))) ∧
        (inOrder → s.time < since + 10000 → exec (.retrain node) s = .fault .notEnabled)) ∧
      (¬ inOrder ∨ (∀ since, st ≠ .dark since) → ends (.retrain node) 1 (stateCode st))) ∧
    (NextOf node (fun c => c.op == 3) pre c post s →
      let fits := c.zero = true ∧ c.target < 4 ∧ c.arg.toNat % 64 = 0
      let d := dieOf s (4 * node + c.target)
      (¬ fits → ends (.loadrt node) 1 0) ∧
      (fits → (∀ x ∈ d.colls, x.table = d.rtsel) → ∃ t, exec (.loadrt node) s = .next t ∧
        CommandEnds node c (pre ++ post) 0 0 s t ∧
        let e := dieOf t (4 * node + c.target)
        e.rtLoaded = true ∧ e.rtsel = d.rtsel ∧ (if d.rtsel then e.routes1 = d.routes1 else e.routes0 = d.routes0) ∧
        ∀ i < 4096, let w : BitVec 32 := BitVec.ofNat 32 (memRead s 0 (c.arg.toNat + 16 * i) 4)
          nget (if d.rtsel then e.routes0 else e.routes1) i = if w.getLsbD 0 then some (w.setWidth 128) else none) ∧
      (fits → (∃ x ∈ d.colls, x.table ≠ d.rtsel) → exec (.loadrt node) s = .fault .notEnabled)) ∧
    (NextOf node (fun c => c.op == 0 || decide (4 ≤ c.op)) pre c post s →
      (c.op = 4 → inOrder → ends (.query node) 0 (stateCode st)) ∧
      (c.op ≠ 4 ∨ ¬ inOrder → ends (.query node) 1 (stateCode st)))) ∧
  (∀ (s : State) (node port : Nat) (pre post : List Command) (c : Command),
    let frames := s.messages.filter fun m => m.frames != [] && m.src / 4 == node && m.far.any fun f => f.port == port
    let running (op : Nat) : Prop :=
      (pkgOf s node).commands = pre ++ c :: post ∧ c.active = true ∧ c.op = op ∧ c.target = port ∧ ∀ d ∈ pre, ¬ SameUnit d c
    let ends (i : Instr) (result : Nat) (x : PortState) : Prop := ∃ t, exec i s = .next t ∧ t.dies = s.dies ∧
      portOf t node port = x ∧ CommandEnds node c (pre ++ post) result (stateCode x) s t
    (∀ since, portOf s node port = .draining since →
      (running 1 → frames = [] → ends (.portDrained node port) 0 (.dark s.time)) ∧
      (frames ≠ [] → exec (.portDrained node port) s = .fault .notEnabled) ∧
      (running 1 → frames ≠ [] → since + 100000 ≤ s.time → ends (.drainTimeout node port) 2 (.dark s.time)) ∧
      (s.time < since + 100000 → exec (.drainTimeout node port) s = .fault .notEnabled)) ∧
    (∀ since, portOf s node port = .training since →
      (s.time < since + 50000000 →
        exec (.trainingSuccess node port) s = .next (modPkg node (fun p => { p with ports := nset p.ports port (.verify s.time) }) s) ∧
        exec (.trainingTimeout node port) s = .fault .notEnabled) ∧
      (since + 50000000 ≤ s.time → exec (.trainingSuccess node port) s = .fault .notEnabled ∧
        (running 2 → ends (.trainingTimeout node port) 3 (.dark s.time)))) ∧
    (∀ since, portOf s node port = .verify since → ∀ far : BitVec 29, running 2 →
      (far = c.arg.extractLsb' 0 29 → s.time ≤ since + 1000000 → ends (.verifyResult node port far) 0 .live) ∧
      (far ≠ c.arg.extractLsb' 0 29 ∨ since + 1000000 < s.time → ends (.verifyResult node port far) 4 (.dark s.time))))

/-- The management processor (R34, R398, R400 to R403, R391): a reset leaves no thread of the package running, its HBM as reset has
it, the other packages alone, and boots the slot that R400 chooses, or none; a die that does not lock in time is excluded; fuses,
updates, key slots and reports; the clock rule of R403, a change of the clock taking effect with the next cycle (R7; the part of a
cycle in thousandths is the model's, log 14); the budget period, whose charges begin at none. -/
def Obligations.ThePackageBootsAndIsManaged : Prop :=
  (∀ (s : State) (node : Nat), node < 1024 → ∃ t, exec (.packageReset node) s = .next t ∧ t.time = s.time ∧
    (∀ u ∈ allThreads t, u.status = .running → u.host = false → u.place.peer / 4 ≠ node) ∧
    (∀ key a, fpaNode a ≠ node → memByte t key a = memByte s key a) ∧
    (∀ key a, fpaNode a = node → memByte t key a = memByte State.reset key a) ∧
    (∀ n, n ≠ node → let p := pkgOf s n
      let q := pkgOf t n
      q.boot = p.boot ∧ q.slotA = p.slotA ∧ q.slotB = p.slotB ∧ q.fuses = p.fuses ∧ q.keys = p.keys ∧ q.ports = p.ports ∧
        q.commands = p.commands ∧ q.log = p.log ∧ q.events = p.events) ∧
    let p := pkgOf s node
    let q := pkgOf t node
    let ok (x : FwImage) : Prop := x.signed = true ∧ x.digest = shake256 x.body ∧ p.fuses ≤ x.version.toNat
    q.slotA = p.slotA ∧ q.slotB = p.slotB ∧ q.fuses = p.fuses ∧ q.keys = [] ∧ q.commands = [] ∧ q.events = [] ∧
    (ok p.slotA → ¬ ok p.slotB ∨ p.slotB.version.toNat ≤ p.slotA.version.toNat → q.boot = .locking s.time ∧ q.bootedB = false) ∧
    (ok p.slotB → ¬ ok p.slotA ∨ p.slotA.version.toNat < p.slotB.version.toNat → q.boot = .locking s.time ∧ q.bootedB = true) ∧
    (¬ ok p.slotA → ¬ ok p.slotB → q.boot = .heldInReset)) ∧
  (∀ (s : State) (peer since : Nat), (pkgOf s (peer / 4)).boot = .locking since → (dieOf s peer).locked = false →
    (dieOf s peer).excluded = false →
    (s.time < since + 50000000 →
      exec (.wavelengthLock peer) s = .next (modDie peer (fun d => { d with locked := true, ramp := some s.time }) s)) ∧
    (since + 50000000 ≤ s.time → exec (.wavelengthLock peer) s = .fault .notEnabled) ∧
    (s.time < since + 50000000 → exec (.wavelengthLockTimeout peer) s = .fault .notEnabled) ∧
    (since + 50000000 ≤ s.time → ∃ t, exec (.wavelengthLockTimeout peer) s = .next t ∧ (dieOf t peer).excluded = true ∧
      (∀ k < 192, (spanOf t peer k).poolcap = 0) ∧ ∃ x ∈ (pkgOf t (peer / 4)).log, x.code = .boot ∧ x.peer = peer ∧ x.data = [2])) ∧
  (∀ (s : State) (node slot : Nat) (key : Key) (image : FwImage), let p := pkgOf s node
    (∀ since, p.boot = .locking since → ∃ t, exec (.fuseBlow node) s = .next t ∧ OnlyPackage node s t ∧ SameMemory s t ∧
      (pkgOf t node).fuses = max p.fuses (if p.bootedB then p.slotB else p.slotA).version.toNat) ∧
    (image.version.toNat ≤ 64 → ∃ t, exec (.firmwareUpdate node image) s = .next t ∧ OnlyPackage node s t ∧ SameMemory s t ∧
      (pkgOf t node).slotA = (if p.bootedB then image else p.slotA) ∧ (pkgOf t node).slotB = (if p.bootedB then p.slotB else image)) ∧
    (1 ≤ slot → slot < 1024 →
      (∃ t, exec (.keySlotLoad node ⟨slot, key⟩) s = .next t ∧ OnlyPackage node s t ∧ slot ∉ (pkgOf t node).erased ∧
        ∀ k, nget (pkgOf t node).keys k = if k = slot then some key else nget p.keys k) ∧
      ∃ t, exec (.keySlotErase node slot) s = .next t ∧ OnlyPackage node s t ∧ slot ∈ (pkgOf t node).erased ∧
        ∀ k, nget (pkgOf t node).keys k = if k = slot then none else nget p.keys k) ∧
    (slot = 0 → exec (.keySlotLoad node ⟨slot, key⟩) s = .fault .notEnabled)) ∧
  (∀ (s : State) (node : Nat) (nonce : BitVec 256), ∃ t r, exec (.attestationRequest node nonce) s = .next t ∧ OnlyPackage node s t ∧
    SameMemory s t ∧ (pkgOf t node).report = some r ∧ let p := pkgOf s node
    r.extractLsb' 0 256 = nonce ∧ r.extractLsb' 256 64 = BitVec.ofNat 64 (2 + 2 ^ 8 + 0xB1 * 2 ^ 16 + node * 2 ^ 24) ∧
      r.extractLsb' 320 64 = Config.serial node ∧
      r.extractLsb' 384 512 = (if p.bootedB then p.slotB else p.slotA).digest ∧
      r.extractLsb' 896 512 = (if p.bootedB then p.slotA else p.slotB).digest ∧
      r.extractLsb' 1408 8 = (if p.bootedB then 1 else 0) ∧ r.extractLsb' 1416 8 = BitVec.ofNat 8 p.fuses ∧
      (∀ k < 1024, r.getLsbD (1424 + k) = true ↔ (nget p.keys k).isSome = true) ∧
      r.extractLsb' 2448 912 = Config.attestation node (r.extractLsb' 0 2448)) ∧
  (∀ (s : State) (peer : Nat) (rails : List Nat) (piers : List PierReading), piers.length = 12 →
    (∀ x, (dieOf s peer).sample = some x → x.tick + 10000 ≤ s.time) →
    let d := dieOf s peer
    let power := rails.sum
    let hottest := (piers.map (·.temp)).foldl max 0
    (115 < hottest → peer / 4 < 1024 → ∃ t, exec (.packageReset (peer / 4)) s = .next t ∧
      exec (.sensorSample peer rails piers) s = .next (logEvent (peer / 4) .thermal peer [hottest] t)) ∧
    (hottest ≤ 115 → ∃ t, exec (.sensorSample peer rails piers) s = .next t ∧ SameMemory s t ∧
      let e := dieOf t peer
      e.sample = some { tick := s.time, rails := rails, piers := piers } ∧
      e.hold = decide (105 < hottest ∨ d.hold = true ∧ 100 ≤ hottest) ∧
      e.clock = (if 105 < hottest ∨ d.hold = true ∧ 100 ≤ hottest then 1200
        else if d.cap < power then max 1200 (d.clock - 100)
        else if 100 * power < 95 * d.cap ∧ d.clock < 2100 then d.clock + 100 else d.clock))) ∧
  (∀ (clock ticks : Nat) (x : Span), let y := passCycles clock ticks x
    (x.started = false ∨ x.stopped = true → y = x) ∧
    (x.started = true → x.stopped = false →
      (x.phase + ticks * x.rate < 1000 → y.cycle = x.cycle ∧ y.rate = x.rate) ∧
      (1000 ≤ x.phase + ticks * x.rate → x.cycle < y.cycle ∧ y.rate = clock) ∧
      (clock = x.rate → y.cycle = x.cycle + (x.phase + ticks * clock) / 1000 ∧ y.phase = (x.phase + ticks * clock) % 1000))) ∧
  (∀ s : State, (s.period + 1000 ≤ s.time → exec .budgetPeriod s = .next { s with
      period := s.time / 1000 * 1000, dies := s.dies.map fun d => (d.1, { d.2 with used := [] }) }) ∧
    (s.time < s.period + 1000 → exec .budgetPeriod s = .fault .notEnabled))
end

