-- ==== Sys2Proof/Laws/Encoding.lean ====
section
/-! SUPPORT. The fields of a word that a format lays out (R39), and the table that each major opcode selects (R49). -/

set_option Elab.async false

set_option linter.unusedSimpArgs false

namespace Sys2Proof

theorem take_high {m n : Nat} (a : BitVec m) (b : BitVec n) (k l : Nat) (h : n ≤ k) :
    (a ++ b).extractLsb' k l = a.extractLsb' (k - n) l := by
  ext i hi
  simp [BitVec.getLsbD_append, show ¬ (k + i < n) by omega, Nat.sub_add_comm h]

theorem take_low {m n : Nat} (a : BitVec m) (b : BitVec n) (k l : Nat) (h : k + l ≤ n) :
    (a ++ b).extractLsb' k l = b.extractLsb' k l := by
  ext i hi
  simp [BitVec.getLsbD_append, show k + i < n by omega]

theorem take_all {n : Nat} (a : BitVec n) : a.extractLsb' 0 n = a := by ext i hi; simp

@[simp] theorem fmtR_Major (maj rd ra rb fn) : fldMajor (fmtR maj rd ra rb fn) = maj := by
  simp (disch := omega) only [fldMajor, fmtR, take_high, take_low, Nat.reduceSub, take_all]
@[simp] theorem fmtR_Rd (maj rd ra rb fn) : fldRd (fmtR maj rd ra rb fn) = rd := by
  simp (disch := omega) only [fldRd, fmtR, take_high, take_low, Nat.reduceSub, take_all]
@[simp] theorem fmtR_Ra (maj rd ra rb fn) : fldRa (fmtR maj rd ra rb fn) = ra := by
  simp (disch := omega) only [fldRa, fmtR, take_high, take_low, Nat.reduceSub, take_all]
@[simp] theorem fmtR_Rb (maj rd ra rb fn) : fldRb (fmtR maj rd ra rb fn) = rb := by
  simp (disch := omega) only [fldRb, fmtR, take_high, take_low, Nat.reduceSub, take_all]
@[simp] theorem fmtR_Fn (maj rd ra rb fn) : fldFn (fmtR maj rd ra rb fn) = fn := by
  simp (disch := omega) only [fldFn, fmtR, take_high, take_low, Nat.reduceSub, take_all]
@[simp] theorem fmtI_Major (maj rd ra imm) : fldMajor (fmtI maj rd ra imm) = maj := by
  simp (disch := omega) only [fldMajor, fmtI, take_high, take_low, Nat.reduceSub, take_all]
@[simp] theorem fmtI_Rd (maj rd ra imm) : fldRd (fmtI maj rd ra imm) = rd := by
  simp (disch := omega) only [fldRd, fmtI, take_high, take_low, Nat.reduceSub, take_all]
@[simp] theorem fmtI_Ra (maj rd ra imm) : fldRa (fmtI maj rd ra imm) = ra := by
  simp (disch := omega) only [fldRa, fmtI, take_high, take_low, Nat.reduceSub, take_all]
@[simp] theorem fmtI_Imm12 (maj rd ra imm) : fldImm12 (fmtI maj rd ra imm) = imm := by
  simp (disch := omega) only [fldImm12, fmtI, take_high, take_low, Nat.reduceSub, take_all]
@[simp] theorem fmtLS_Major (maj rd ra imm w) : fldMajor (fmtLS maj rd ra imm w) = maj := by
  simp (disch := omega) only [fldMajor, fmtLS, take_high, take_low, Nat.reduceSub, take_all]
@[simp] theorem fmtLS_Rd (maj rd ra imm w) : fldRd (fmtLS maj rd ra imm w) = rd := by
  simp (disch := omega) only [fldRd, fmtLS, take_high, take_low, Nat.reduceSub, take_all]
@[simp] theorem fmtLS_Ra (maj rd ra imm w) : fldRa (fmtLS maj rd ra imm w) = ra := by
  simp (disch := omega) only [fldRa, fmtLS, take_high, take_low, Nat.reduceSub, take_all]
@[simp] theorem fmtLS_Imm9 (maj rd ra imm w) : fldImm9 (fmtLS maj rd ra imm w) = imm := by
  simp (disch := omega) only [fldImm9, fmtLS, take_high, take_low, Nat.reduceSub, take_all]
@[simp] theorem fmtU_Major (maj rd imm) : fldMajor (fmtU maj rd imm) = maj := by
  simp (disch := omega) only [fldMajor, fmtU, take_high, take_low, Nat.reduceSub, take_all]
@[simp] theorem fmtU_Rd (maj rd imm) : fldRd (fmtU maj rd imm) = rd := by
  simp (disch := omega) only [fldRd, fmtU, take_high, take_low, Nat.reduceSub, take_all]
@[simp] theorem fmtU_Imm19 (maj rd imm) : fldImm19 (fmtU maj rd imm) = imm := by
  simp (disch := omega) only [fldImm19, fmtU, take_high, take_low, Nat.reduceSub, take_all]
@[simp] theorem fmtV_Major (maj vd va vb m x) : fldMajor (fmtV maj vd va vb m x) = maj := by
  simp (disch := omega) only [fldMajor, fmtV, take_high, take_low, Nat.reduceSub, take_all]
@[simp] theorem fmtV_Rd (maj vd va vb m x) : fldRd (fmtV maj vd va vb m x) = vd := by
  simp (disch := omega) only [fldRd, fmtV, take_high, take_low, Nat.reduceSub, take_all]
@[simp] theorem fmtV_Ra (maj vd va vb m x) : fldRa (fmtV maj vd va vb m x) = va := by
  simp (disch := omega) only [fldRa, fmtV, take_high, take_low, Nat.reduceSub, take_all]
@[simp] theorem fmtV_Rb (maj vd va vb m x) : fldRb (fmtV maj vd va vb m x) = vb := by
  simp (disch := omega) only [fldRb, fmtV, take_high, take_low, Nat.reduceSub, take_all]
@[simp] theorem fmtV_Msel (maj vd va vb m x) : fldMsel (fmtV maj vd va vb m x) = m := by
  simp (disch := omega) only [fldMsel, fmtV, take_high, take_low, Nat.reduceSub, take_all]
@[simp] theorem fmtT_Major (maj vd t s m fn) : fldMajor (fmtT maj vd t s m fn) = maj := by
  simp (disch := omega) only [fldMajor, fmtT, take_high, take_low, Nat.reduceSub, take_all]
@[simp] theorem fmtT_Rd (maj vd t s m fn) : fldRd (fmtT maj vd t s m fn) = vd := by
  simp (disch := omega) only [fldRd, fmtT, take_high, take_low, Nat.reduceSub, take_all]
@[simp] theorem fmtI_imm_6_4 (maj rd ra imm) : (fmtI maj rd ra imm).extractLsb' 6 4 = imm.extractLsb' 6 4 := by
  simp (disch := omega) only [fmtI, take_high, take_low, Nat.reduceSub, take_all]
@[simp] theorem fmtI_imm_10_2 (maj rd ra imm) : (fmtI maj rd ra imm).extractLsb' 10 2 = imm.extractLsb' 10 2 := by
  simp (disch := omega) only [fmtI, take_high, take_low, Nat.reduceSub, take_all]
@[simp] theorem fmtI_imm_0_6 (maj rd ra imm) : (fmtI maj rd ra imm).extractLsb' 0 6 = imm.extractLsb' 0 6 := by
  simp (disch := omega) only [fmtI, take_high, take_low, Nat.reduceSub, take_all]
@[simp] theorem fmtI_imm_4_2 (maj rd ra imm) : (fmtI maj rd ra imm).extractLsb' 4 2 = imm.extractLsb' 4 2 := by
  simp (disch := omega) only [fmtI, take_high, take_low, Nat.reduceSub, take_all]
@[simp] theorem fmtI_imm_0_3 (maj rd ra imm) : (fmtI maj rd ra imm).extractLsb' 0 3 = imm.extractLsb' 0 3 := by
  simp (disch := omega) only [fmtI, take_high, take_low, Nat.reduceSub, take_all]
@[simp] theorem fmtI_imm_3_1 (maj rd ra imm) : (fmtI maj rd ra imm).extractLsb' 3 1 = imm.extractLsb' 3 1 := by
  simp (disch := omega) only [fmtI, take_high, take_low, Nat.reduceSub, take_all]
@[simp] theorem fmtI_imm_6_6 (maj rd ra imm) : (fmtI maj rd ra imm).extractLsb' 6 6 = imm.extractLsb' 6 6 := by
  simp (disch := omega) only [fmtI, take_high, take_low, Nat.reduceSub, take_all]
@[simp] theorem fmtI_imm_0_7 (maj rd ra imm) : (fmtI maj rd ra imm).extractLsb' 0 7 = imm.extractLsb' 0 7 := by
  simp (disch := omega) only [fmtI, take_high, take_low, Nat.reduceSub, take_all]
@[simp] theorem fmtI_imm_11_1 (maj rd ra imm) : (fmtI maj rd ra imm).extractLsb' 11 1 = imm.extractLsb' 11 1 := by
  simp (disch := omega) only [fmtI, take_high, take_low, Nat.reduceSub, take_all]
@[simp] theorem fmtI_imm_0_11 (maj rd ra imm) : (fmtI maj rd ra imm).extractLsb' 0 11 = imm.extractLsb' 0 11 := by
  simp (disch := omega) only [fmtI, take_high, take_low, Nat.reduceSub, take_all]
@[simp] theorem fmtI_imm_7_4 (maj rd ra imm) : (fmtI maj rd ra imm).extractLsb' 7 4 = imm.extractLsb' 7 4 := by
  simp (disch := omega) only [fmtI, take_high, take_low, Nat.reduceSub, take_all]
@[simp] theorem fmtLS_w (maj rd ra imm w) : (fmtLS maj rd ra imm w).extractLsb' 0 3 = w := by
  simp (disch := omega) only [fmtLS, take_high, take_low, Nat.reduceSub, take_all]
@[simp] theorem fmtR_fnLow (maj rd ra rb fn) : (fmtR maj rd ra rb fn).extractLsb' 0 4 = fn.extractLsb' 0 4 := by
  simp (disch := omega) only [fmtR, take_high, take_low, Nat.reduceSub, take_all]
@[simp] theorem fmtV_vdLow (maj vd va vb m x) : (fmtV maj vd va vb m x).extractLsb' 19 4 = vd.extractLsb' 0 4 := by
  simp (disch := omega) only [fmtV, take_high, take_low, Nat.reduceSub, take_all]
@[simp] theorem fmtV_vdHigh (maj vd va vb m x) : (fmtV maj vd va vb m x).extractLsb' 23 3 = vd.extractLsb' 4 3 := by
  simp (disch := omega) only [fmtV, take_high, take_low, Nat.reduceSub, take_all]
@[simp] theorem fmtT_fn (maj vd t s m fn) : (fmtT maj vd t s m fn).extractLsb' 0 4 = fn := by
  simp (disch := omega) only [fmtT, take_high, take_low, Nat.reduceSub, take_all]
@[simp] theorem fmtT_m (maj vd t s m fn) : (fmtT maj vd t s m fn).extractLsb' 4 4 = m := by
  simp (disch := omega) only [fmtT, take_high, take_low, Nat.reduceSub, take_all]
@[simp] theorem fmtT_s (maj vd t s m fn) : (fmtT maj vd t s m fn).extractLsb' 8 7 = s := by
  simp (disch := omega) only [fmtT, take_high, take_low, Nat.reduceSub, take_all]
@[simp] theorem fmtT_t (maj vd t s m fn) : (fmtT maj vd t s m fn).extractLsb' 15 4 = t := by
  simp (disch := omega) only [fmtT, take_high, take_low, Nat.reduceSub, take_all]
@[simp] theorem fmtV_x (maj vd va vb m x) : (fmtV maj vd va vb m x).getLsbD 0 = x.getLsbD 0 := by
  rw [fmtV, BitVec.getLsbD_append]; rfl

theorem decode_01 (w : IWord) (h : fldMajor w = 0x01#6) : decode w = decodeAlu w := by
  rw [decode, h]; rfl
theorem decode_02 (w : IWord) (h : fldMajor w = 0x02#6) : decode w = decodeAlu32 w := by
  rw [decode, h]; rfl
theorem decode_03 (w : IWord) (h : fldMajor w = 0x03#6) : decode w = .ok (.addi (fldRd w) (fldRa w) (fldImm12 w)) := by
  rw [decode, h]; rfl
theorem decode_04 (w : IWord) (h : fldMajor w = 0x04#6) : decode w = .ok (.andi (fldRd w) (fldRa w) (fldImm12 w)) := by
  rw [decode, h]; rfl
theorem decode_05 (w : IWord) (h : fldMajor w = 0x05#6) : decode w = .ok (.ori (fldRd w) (fldRa w) (fldImm12 w)) := by
  rw [decode, h]; rfl
theorem decode_06 (w : IWord) (h : fldMajor w = 0x06#6) : decode w = .ok (.xori (fldRd w) (fldRa w) (fldImm12 w)) := by
  rw [decode, h]; rfl
theorem decode_07 (w : IWord) (h : fldMajor w = 0x07#6) : decode w = decodeShift w := by
  rw [decode, h]; rfl
theorem decode_08 (w : IWord) (h : fldMajor w = 0x08#6) : decode w = .ok (.slti (fldRd w) (fldRa w) (fldImm12 w)) := by
  rw [decode, h]; rfl
theorem decode_0A (w : IWord) (h : fldMajor w = 0x0A#6) : decode w = .ok (.lui (fldRd w) (fldImm19 w)) := by
  rw [decode, h]; rfl
theorem decode_0B (w : IWord) (h : fldMajor w = 0x0B#6) : decode w = .ok (.auipc (fldRd w) (fldImm19 w)) := by
  rw [decode, h]; rfl
theorem decode_0C (w : IWord) (h : fldMajor w = 0x0C#6) : decode w = .ok (.beq (fldRd w) (fldRa w) (fldImm12 w)) := by
  rw [decode, h]; rfl
theorem decode_0D (w : IWord) (h : fldMajor w = 0x0D#6) : decode w = .ok (.bne (fldRd w) (fldRa w) (fldImm12 w)) := by
  rw [decode, h]; rfl
theorem decode_0E (w : IWord) (h : fldMajor w = 0x0E#6) : decode w = .ok (.blt (fldRd w) (fldRa w) (fldImm12 w)) := by
  rw [decode, h]; rfl
theorem decode_0F (w : IWord) (h : fldMajor w = 0x0F#6) : decode w = .ok (.bge (fldRd w) (fldRa w) (fldImm12 w)) := by
  rw [decode, h]; rfl
theorem decode_10 (w : IWord) (h : fldMajor w = 0x10#6) : decode w = .ok (.bltu (fldRd w) (fldRa w) (fldImm12 w)) := by
  rw [decode, h]; rfl
theorem decode_11 (w : IWord) (h : fldMajor w = 0x11#6) : decode w = .ok (.bgeu (fldRd w) (fldRa w) (fldImm12 w)) := by
  rw [decode, h]; rfl
theorem decode_12 (w : IWord) (h : fldMajor w = 0x12#6) : decode w = .ok (.jal (fldRd w) (fldImm19 w)) := by
  rw [decode, h]; rfl
theorem decode_13 (w : IWord) (h : fldMajor w = 0x13#6) : decode w = .ok (.jalr (fldRd w) (fldRa w) (fldImm12 w)) := by
  rw [decode, h]; rfl
theorem decode_14 (w : IWord) (h : fldMajor w = 0x14#6) : decode w = decodeLoad w := by
  rw [decode, h]; rfl
theorem decode_15 (w : IWord) (h : fldMajor w = 0x15#6) : decode w = decodeStore w := by
  rw [decode, h]; rfl
theorem decode_16 (w : IWord) (h : fldMajor w = 0x16#6) : decode w = decodeSync w := by
  rw [decode, h]; rfl
theorem decode_17 (w : IWord) (h : fldMajor w = 0x17#6) : decode w = decodeFence w := by
  rw [decode, h]; rfl
theorem decode_18 (w : IWord) (h : fldMajor w = 0x18#6) : decode w = .ok (.csrrw (fldRd w) (fldRa w) (fldImm12 w)) := by
  rw [decode, h]; rfl
theorem decode_19 (w : IWord) (h : fldMajor w = 0x19#6) : decode w = .ok (.csrrs (fldRd w) (fldRa w) (fldImm12 w)) := by
  rw [decode, h]; rfl
theorem decode_1B (w : IWord) (h : fldMajor w = 0x1B#6) : decode w = decodeWindow w := by
  rw [decode, h]; rfl
theorem decode_1C (w : IWord) (h : fldMajor w = 0x1C#6) : decode w = mustZero (fldRd w = 0 ∧ fldRa w = 0) (.ok (.trap (fldImm12 w))) := by
  rw [decode, h]; rfl
theorem decode_1D (w : IWord) (h : fldMajor w = 0x1D#6) : decode w = decodeSystem w := by
  rw [decode, h]; rfl
theorem decode_1E (w : IWord) (h : fldMajor w = 0x1E#6) : decode w = decodeVcontrol w := by
  rw [decode, h]; rfl
theorem decode_1F (w : IWord) (h : fldMajor w = 0x1F#6) : decode w = decodePrefix w := by
  rw [decode, h]; rfl
theorem decode_20 (w : IWord) (h : fldMajor w = 0x20#6) : decode w = decodeVarith w := by
  rw [decode, h]; rfl
theorem decode_21 (w : IWord) (h : fldMajor w = 0x21#6) : decode w = decodeVarith w := by
  rw [decode, h]; rfl
theorem decode_22 (w : IWord) (h : fldMajor w = 0x22#6) : decode w = decodeVarith w := by
  rw [decode, h]; rfl
theorem decode_23 (w : IWord) (h : fldMajor w = 0x23#6) : decode w = decodeVarith w := by
  rw [decode, h]; rfl
theorem decode_24 (w : IWord) (h : fldMajor w = 0x24#6) : decode w = decodeVarith w := by
  rw [decode, h]; rfl
theorem decode_25 (w : IWord) (h : fldMajor w = 0x25#6) : decode w = decodeVarith w := by
  rw [decode, h]; rfl
theorem decode_26 (w : IWord) (h : fldMajor w = 0x26#6) : decode w = decodeVarith w := by
  rw [decode, h]; rfl
theorem decode_27 (w : IWord) (h : fldMajor w = 0x27#6) : decode w = decodeVarith w := by
  rw [decode, h]; rfl
theorem decode_28 (w : IWord) (h : fldMajor w = 0x28#6) : decode w = decodeVarith w := by
  rw [decode, h]; rfl
theorem decode_29 (w : IWord) (h : fldMajor w = 0x29#6) : decode w = decodeVarith w := by
  rw [decode, h]; rfl
theorem decode_2A (w : IWord) (h : fldMajor w = 0x2A#6) : decode w = decodeVarith w := by
  rw [decode, h]; rfl
theorem decode_2B (w : IWord) (h : fldMajor w = 0x2B#6) : decode w = decodeVarith w := by
  rw [decode, h]; rfl
theorem decode_2C (w : IWord) (h : fldMajor w = 0x2C#6) : decode w = decodeVarith w := by
  rw [decode, h]; rfl
theorem decode_2D (w : IWord) (h : fldMajor w = 0x2D#6) : decode w = decodeVarith w := by
  rw [decode, h]; rfl
theorem decode_2E (w : IWord) (h : fldMajor w = 0x2E#6) : decode w = decodeVarith w := by
  rw [decode, h]; rfl
theorem decode_2F (w : IWord) (h : fldMajor w = 0x2F#6) : decode w = decodeVarith w := by
  rw [decode, h]; rfl
theorem decode_30 (w : IWord) (h : fldMajor w = 0x30#6) : decode w = decodeVcmp w := by
  rw [decode, h]; rfl
theorem decode_31 (w : IWord) (h : fldMajor w = 0x31#6) : decode w = decodeMask w := by
  rw [decode, h]; rfl
theorem decode_32 (w : IWord) (h : fldMajor w = 0x32#6) : decode w = decodeCross w := by
  rw [decode, h]; rfl
theorem decode_33 (w : IWord) (h : fldMajor w = 0x33#6) : decode w = decodeVunary w := by
  rw [decode, h]; rfl
theorem decode_34 (w : IWord) (h : fldMajor w = 0x34#6) : decode w = decodeVreduce w := by
  rw [decode, h]; rfl
theorem decode_35 (w : IWord) (h : fldMajor w = 0x35#6) : decode w = decodeRandom w := by
  rw [decode, h]; rfl
theorem decode_36 (w : IWord) (h : fldMajor w = 0x36#6) : decode w = decodeVmem w := by
  rw [decode, h]; rfl
theorem decode_37 (w : IWord) (h : fldMajor w = 0x37#6) : decode w = decodeVmem w := by
  rw [decode, h]; rfl
theorem decode_38 (w : IWord) (h : fldMajor w = 0x38#6) : decode w = decodeVmem w := by
  rw [decode, h]; rfl
theorem decode_39 (w : IWord) (h : fldMajor w = 0x39#6) : decode w = decodeVmem w := by
  rw [decode, h]; rfl
theorem decode_3A (w : IWord) (h : fldMajor w = 0x3A#6) : decode w = decodeVmem w := by
  rw [decode, h]; rfl
theorem decode_3B (w : IWord) (h : fldMajor w = 0x3B#6) : decode w = decodeTensor w := by
  rw [decode, h]; rfl
theorem decode_3C (w : IWord) (h : fldMajor w = 0x3C#6) : decode w = decodeMatrix w := by
  rw [decode, h]; rfl
theorem decode_3D (w : IWord) (h : fldMajor w = 0x3D#6) : decode w = decodeMatrix w := by
  rw [decode, h]; rfl
theorem decode_3E (w : IWord) (h : fldMajor w = 0x3E#6) : decode w = decodeMatrixControl w := by
  rw [decode, h]; rfl
theorem decode_3F (w : IWord) (h : fldMajor w = 0x3F#6) : decode w = decodeEngine w := by
  rw [decode, h]; rfl

end Sys2Proof
end

