-- ==== Sys2Proof/Laws/Memory.lean ====
section
/-! SUPPORT. Memory: the canonical form is kept by every memory operation and held at reset; what a byte, a sector record
and a numbered record read as after a write. -/

set_option Elab.async false

namespace Sys2Proof.Machine

open Host (Cell)

/-! ## Records by number -/

/-- The numbers of the list strictly rise. -/
def rising {α : Type} : NMap α → Bool
  | [] => true
  | [_] => true
  | (k, _) :: (k', x) :: m => decide (k < k') && rising ((k', x) :: m)

theorem nget_nset_same {α : Type} (m : NMap α) (n : Nat) (x : α) : nget (nset m n x) n = some x := by
  induction m with
  | nil => simp [nset, nget]
  | cons e m ih =>
    obtain ⟨k, v⟩ := e
    simp only [nset]
    split
    · simp [nget]
    · split
      · simp [nget]
      · rename_i h1 h2; simp [nget, h1, ih]

theorem nget_nset_other {α : Type} (m : NMap α) (n n' : Nat) (x : α) (h : n' ≠ n) : nget (nset m n x) n' = nget m n' := by
  induction m with
  | nil => simp only [nset, nget, if_neg h]
  | cons e m ih =>
    obtain ⟨k, v⟩ := e
    simp only [nset]
    split
    · subst_vars; simp [nget, h]
    · split
      · rename_i h1 h2
        simp only [nget, if_neg h]
      · simp only [nget, ih]

/-- Every number of the list but perhaps the first is above n. -/
theorem rising_above {α : Type} (k : Nat) (v : α) (m : NMap α) (h : rising ((k, v) :: m) = true) :
    rising m = true ∧ ∀ e ∈ m, k < e.1 := by
  induction m generalizing k v with
  | nil => simp [rising]
  | cons e m ih =>
    obtain ⟨k', v'⟩ := e
    simp only [rising, Bool.and_eq_true, decide_eq_true_eq] at h
    refine ⟨h.2, ?_⟩
    intro e he
    rcases List.mem_cons.1 he with rfl | he
    · exact h.1
    · exact Nat.lt_trans h.1 ((ih k' v' h.2).2 e he)

theorem rising_cons {α : Type} (k : Nat) (v : α) (m : NMap α) (h : rising m = true) (ha : ∀ e ∈ m, k < e.1) :
    rising ((k, v) :: m) = true := by
  cases m with
  | nil => rfl
  | cons e m =>
    obtain ⟨k', v'⟩ := e
    simp only [rising, Bool.and_eq_true, decide_eq_true_eq]
    exact ⟨ha _ List.mem_cons_self, h⟩

theorem mem_nset {α : Type} (m : NMap α) (n : Nat) (x : α) : ∀ e ∈ nset m n x, e = (n, x) ∨ e ∈ m := by
  induction m with
  | nil => simp [nset]
  | cons e m ih =>
    obtain ⟨k, v⟩ := e
    intro e he
    simp only [nset] at he
    split at he
    · rcases List.mem_cons.1 he with h | h
      · exact .inl h
      · exact .inr (List.mem_cons_of_mem _ h)
    · split at he
      · rcases List.mem_cons.1 he with h | h
        · exact .inl h
        · exact .inr h
      · rcases List.mem_cons.1 he with h | h
        · exact .inr (h ▸ List.mem_cons_self)
        · rcases ih e h with h | h
          · exact .inl h
          · exact .inr (List.mem_cons_of_mem _ h)

theorem mem_ndel {α : Type} (m : NMap α) (n : Nat) : ∀ e ∈ ndel m n, e ∈ m := fun _ he => (List.mem_filter.1 he).1

theorem rising_nset {α : Type} (m : NMap α) (n : Nat) (x : α) (h : rising m = true) : rising (nset m n x) = true := by
  induction m with
  | nil => rfl
  | cons e m ih =>
    obtain ⟨k, v⟩ := e
    have ⟨hm, ha⟩ := rising_above k v m h
    simp only [nset]
    split
    · subst_vars; exact rising_cons _ _ _ hm ha
    · split
      · rename_i h1 h2
        refine rising_cons _ _ _ h ?_
        intro e he
        rcases List.mem_cons.1 he with rfl | he
        · exact h2
        · exact Nat.lt_trans h2 (ha e he)
      · rename_i h1 h2
        refine rising_cons _ _ _ (ih hm) ?_
        intro e he
        rcases mem_nset m n x e he with rfl | he
        · show k < n; omega
        · exact ha e he

theorem rising_filter {α : Type} (m : NMap α) (p : Nat × α → Bool) (h : rising m = true) : rising (m.filter p) = true := by
  induction m with
  | nil => rfl
  | cons e m ih =>
    obtain ⟨k, v⟩ := e
    have ⟨hm, ha⟩ := rising_above k v m h
    simp only [List.filter_cons]
    split
    · exact rising_cons _ _ _ (ih hm) fun e he => ha e (List.mem_filter.1 he).1
    · exact ih hm

theorem rising_ndel {α : Type} (m : NMap α) (n : Nat) (h : rising m = true) : rising (ndel m n) = true :=
  rising_filter m _ h

theorem nget_ndel_same {α : Type} (m : NMap α) (n : Nat) : nget (ndel m n) n = none := by
  induction m with
  | nil => rfl
  | cons e m ih =>
    simp only [ndel, List.filter_cons] at *
    split
    · rename_i h; simp only [bne_iff_ne] at h; simp [nget, Ne.symm h, ih]
    · exact ih

theorem nget_ndel_other {α : Type} (m : NMap α) (n n' : Nat) (hn : n' ≠ n) : nget (ndel m n) n' = nget m n' := by
  induction m with
  | nil => rfl
  | cons e m ih =>
    simp only [ndel, List.filter_cons] at *
    split
    · simp only [nget, ih]
    · rename_i h
      simp only [bne_iff_ne, ne_eq, Decidable.not_not] at h
      simp only [nget, if_neg (h ▸ hn : ¬ n' = e.1), ih]

/-! ## Cells -/

theorem cellsWf_iff (dflt : Nat → Byte) (m : List Cell) :
    cellsWf dflt m = true ↔ rising m = true ∧ ∀ e ∈ m, e.2 ≠ dflt e.1 := by
  induction m with
  | nil => simp [cellsWf, rising]
  | cons e m ih =>
    obtain ⟨k, v⟩ := e
    cases m with
    | nil => simp [cellsWf, rising]
    | cons e' m =>
      obtain ⟨k', v'⟩ := e'
      simp only [cellsWf, rising, Bool.and_eq_true, decide_eq_true_eq, ih, List.forall_mem_cons]
      tauto

theorem cellGet_eq (dflt : Nat → Byte) (m : List Cell) (n : Nat) : cellGet dflt m n = (nget m n).getD (dflt n) := by
  induction m with
  | nil => rfl
  | cons e m ih =>
    simp only [cellGet, nget]
    split
    · rfl
    · exact ih

theorem cellSet_eq (dflt : Nat → Byte) (m : List Cell) (n : Nat) (x : Byte) :
    cellSet dflt m n x = if x = dflt n then ndel m n else nset m n x := rfl

/-- A write keeps the canonical form. -/
theorem cellsWf_cellSet (dflt : Nat → Byte) (m : List Cell) (n : Nat) (x : Byte) (h : cellsWf dflt m = true) :
    cellsWf dflt (cellSet dflt m n x) = true := by
  rw [cellsWf_iff] at *
  rw [cellSet_eq]
  split
  · exact ⟨rising_ndel _ _ h.1, fun e he => h.2 e (mem_ndel _ _ e he)⟩
  · refine ⟨rising_nset _ _ _ h.1, fun e he => ?_⟩
    rcases mem_nset _ _ _ e he with rfl | he
    · assumption
    · exact h.2 e he

theorem cellsWf_filter (dflt : Nat → Byte) (m : List Cell) (p : Cell → Bool) (h : cellsWf dflt m = true) :
    cellsWf dflt (m.filter p) = true := by
  rw [cellsWf_iff] at *
  exact ⟨rising_filter _ _ h.1, fun e he => h.2 e (List.mem_filter.1 he).1⟩

theorem cellGet_cellSet_same (dflt : Nat → Byte) (m : List Cell) (n : Nat) (x : Byte) :
    cellGet dflt (cellSet dflt m n x) n = x := by
  rw [cellGet_eq, cellSet_eq]
  split
  · rename_i hx; rw [nget_ndel_same, hx]; rfl
  · rw [nget_nset_same]; rfl

theorem cellGet_cellSet_other (dflt : Nat → Byte) (m : List Cell) (n n' : Nat) (x : Byte)
    (hn : n' ≠ n) : cellGet dflt (cellSet dflt m n x) n' = cellGet dflt m n' := by
  rw [cellGet_eq, cellGet_eq, cellSet_eq]
  split
  · rw [nget_ndel_other _ _ _ hn]
  · rw [nget_nset_other _ _ _ _ hn]

/-! ## Sector records -/

theorem sectorsWf_iff (m : NMap Sector) : sectorsWf m = true ↔ rising m = true ∧ ∀ e ∈ m, e.2 ≠ Sector.reset := by
  induction m with
  | nil => simp [sectorsWf, rising]
  | cons e m ih =>
    obtain ⟨k, v⟩ := e
    cases m with
    | nil => simp [sectorsWf, rising]
    | cons e' m =>
      obtain ⟨k', v'⟩ := e'
      simp only [sectorsWf, rising, Bool.and_eq_true, decide_eq_true_eq, ih, List.forall_mem_cons]
      tauto

theorem sectorsWf_filter (m : NMap Sector) (p : Nat × Sector → Bool) (h : sectorsWf m = true) : sectorsWf (m.filter p) = true := by
  rw [sectorsWf_iff] at *
  exact ⟨rising_filter _ _ h.1, fun e he => h.2 e (List.mem_filter.1 he).1⟩

theorem sectorsWf_setSector (s : State) (sec : Nat) (x : Sector) (h : sectorsWf s.sectors = true) :
    sectorsWf (setSector s sec x).sectors = true := by
  rw [sectorsWf_iff] at *
  simp only [setSector]
  split
  · exact ⟨rising_ndel _ _ h.1, fun e he => h.2 e (mem_ndel _ _ e he)⟩
  · refine ⟨rising_nset _ _ _ h.1, fun e he => ?_⟩
    rcases mem_nset _ _ _ e he with rfl | he
    · assumption
    · exact h.2 e he

theorem sectorOf_setSector_same (s : State) (sec : Nat) (x : Sector) :
    sectorOf (setSector s sec x) sec = x := by
  simp only [sectorOf, setSector]
  split
  · rename_i hx; rw [nget_ndel_same, hx]; rfl
  · rw [nget_nset_same]; rfl

theorem sectorOf_setSector_other (s : State) (sec sec' : Nat) (x : Sector)
    (hn : sec' ≠ sec) : sectorOf (setSector s sec x) sec' = sectorOf s sec' := by
  simp only [sectorOf, setSector]
  split
  · rw [nget_ndel_other _ _ _ hn]
  · rw [nget_nset_other _ _ _ _ hn]

end Sys2Proof.Machine
end

