-- ==== Sys2Proof/Laws/MemoryWf.lean ====
section
/-! SUPPORT. The operations on memory keep `Memory.wf`, and what bytes read as after them. -/

set_option Elab.async false

namespace Sys2Proof.Machine

/-- The cells of a Span's scratchpad are in canonical form. -/
def padWf (x : Span) : Prop := cellsWf (padDefault x.pad.stamp) x.pad.cells = true

theorem wf_iff (s : State) : Memory.wf s = true ↔
    cellsWf memDefault s.mem = true ∧ (∀ e ∈ s.spans, padWf e.2) ∧ sectorsWf s.sectors = true := by
  simp [Memory.wf, padWf, and_assoc]

/-- The form concerns only bytes, scratchpads and sector records. -/
theorem wf_congr {s t : State} (hm : t.mem = s.mem) (hp : t.spans = s.spans) (hs : t.sectors = s.sectors)
    (h : Memory.wf s = true) : Memory.wf t = true := by simpa [Memory.wf, hm, hp, hs] using h

theorem wf_reset : Memory.wf State.reset = true := rfl

theorem padWf_reset : padWf Span.reset := rfl

theorem nget_mem {α : Type} (m : NMap α) (n : Nat) (x : α) (h : nget m n = some x) : (n, x) ∈ m := by
  induction m with
  | nil => cases h
  | cons e m ih =>
    obtain ⟨k, v⟩ := e
    simp only [nget] at h
    split at h
    · cases h; subst_vars; exact List.mem_cons_self
    · exact List.mem_cons_of_mem _ (ih h)

theorem padWf_spanOf {s : State} (h : Memory.wf s = true) (p k : Nat) : padWf (spanOf s p k) := by
  rw [wf_iff] at h
  unfold spanOf
  cases hx : nget s.spans (spanKey p k) with
  | none => exact padWf_reset
  | some x => exact h.2.1 _ (nget_mem _ _ _ hx)

theorem wf_setSpan {s : State} (h : Memory.wf s = true) (p k : Nat) {x : Span} (hx : padWf x) :
    Memory.wf (setSpan s p k x) = true := by
  rw [wf_iff] at *
  refine ⟨h.1, fun e he => ?_, h.2.2⟩
  rcases mem_nset _ _ _ e he with rfl | he
  · exact hx
  · exact h.2.1 e he

theorem wf_modSpan {s : State} (h : Memory.wf s = true) (p k : Nat) {f : Span → Span} (hf : ∀ x, padWf x → padWf (f x)) :
    Memory.wf (modSpan p k f s) = true := wf_setSpan h p k (hf _ (padWf_spanOf h p k))

/-- A change of a Span that leaves its scratchpad alone. -/
theorem wf_modSpan_pad {s : State} (h : Memory.wf s = true) (p k : Nat) {f : Span → Span} (hf : ∀ x, (f x).pad = x.pad) :
    Memory.wf (modSpan p k f s) = true := wf_modSpan h p k fun x hx => by simpa [padWf, hf x] using hx

theorem wf_modMySpan {s : State} (h : Memory.wf s = true) {f : Span → Span} (hf : ∀ x, (f x).pad = x.pad) :
    Memory.wf (modMySpan f s) = true := wf_modSpan_pad h _ _ hf

theorem wf_setDie {s : State} (h : Memory.wf s = true) (p : Nat) (x : Die) : Memory.wf (setDie s p x) = true := wf_congr rfl rfl rfl h
theorem wf_modDie {s : State} (h : Memory.wf s = true) (p : Nat) (f : Die → Die) : Memory.wf (modDie p f s) = true :=
  wf_congr rfl rfl rfl h
theorem wf_modPkg {s : State} (h : Memory.wf s = true) (n : Nat) (f : Pkg → Pkg) : Memory.wf (modPkg n f s) = true :=
  wf_congr rfl rfl rfl h
theorem wf_modThreads {s : State} (h : Memory.wf s = true) (p : Thread → Bool) (f : Thread → Thread) :
    Memory.wf (modThreads p f s) = true := wf_congr rfl rfl rfl h

theorem wf_setSector {s : State} (h : Memory.wf s = true) (sec : Nat) (x : Sector) : Memory.wf (setSector s sec x) = true := by
  rw [wf_iff] at *
  exact ⟨h.1, h.2.1, sectorsWf_setSector s sec x h.2.2⟩

theorem wf_placeByte {s : State} (h : Memory.wf s = true) (a : Nat) (b : Byte) : Memory.wf (placeByte s a b) = true := by
  unfold placeByte
  split
  · exact wf_modSpan h _ _ fun x hx => cellsWf_cellSet _ _ _ _ hx
  · rw [wf_iff] at *
    exact ⟨cellsWf_cellSet _ _ _ _ h.1, h.2⟩

theorem wf_placeBytes {s : State} (h : Memory.wf s = true) (a n v : Nat) : Memory.wf (placeBytes a n v s) = true := by
  induction n generalizing s a v with
  | zero => exact h
  | succ n ih => exact ih (wf_placeByte h _ _) _ _

/-- A change repeated over a list keeps what every single change keeps. -/
theorem foldl_keeps {α σ : Type} (P : σ → Prop) (f : σ → α → σ) (hf : ∀ s a, P s → P (f s a)) (l : List α) {s : σ} (h : P s) :
    P (l.foldl f s) := by
  induction l generalizing s with
  | nil => exact h
  | cons a l ih => exact ih (hf _ _ h)

theorem wf_rekey {s : State} (h : Memory.wf s = true) (key sec : Nat) : Memory.wf (rekey key sec s) = true := by
  unfold rekey
  split
  · exact h
  · exact wf_setSector (foldl_keeps (fun t => Memory.wf t = true) _ (fun t i ht => wf_placeByte ht _ _) _ h) _ _

theorem wf_touchPlain {s : State} (h : Memory.wf s = true) (key sec : Nat) : Memory.wf (touchPlain key sec s) = true :=
  wf_setSector (wf_rekey h _ _) _ _

theorem wf_memWrite {s : State} (h : Memory.wf s = true) (key a n v : Nat) : Memory.wf (memWrite key a n v s) = true :=
  wf_placeBytes (foldl_keeps (fun t => Memory.wf t = true) _ (fun _ _ ht => wf_touchPlain ht _ _) _ h) _ _ _

theorem wf_sectorWrite {s : State} (h : Memory.wf s = true) (key sec : Nat) (d : BitVec 512) (f c : BitVec 8) :
    Memory.wf (sectorWrite key sec d f c s) = true := wf_setSector (wf_placeBytes h _ _ _) _ _

/-! ## Bytes after a write -/

theorem spanOf_setSpan_same (s : State) (p k : Nat) (x : Span) : spanOf (setSpan s p k x) p k = x := by
  simp [spanOf, setSpan, nget_nset_same]

theorem spanOf_setSpan_other (s : State) (p k p' k' : Nat) (x : Span) (h : spanKey p' k' ≠ spanKey p k) :
    spanOf (setSpan s p k x) p' k' = spanOf s p' k' := by
  simp [spanOf, setSpan, nget_nset_other _ _ _ _ h]

/-- Two scratchpad addresses of one Span with one offset are one address. -/
theorem pad_address_eq {a b : Nat} (ha : homeKind a = .pad) (hb : homeKind b = .pad)
    (hk : spanKey (fpaPeer b) (fpaSpan b) = spanKey (fpaPeer a) (fpaSpan a)) (ho : fpaOffset b = fpaOffset a) : b = a := by
  have key : ∀ x, homeKind x = .pad → x / 2 ^ 44 % 2 = 1 ∧ x / 2 ^ 36 % 256 < 192 ∧ x / 2 ^ 32 % 16 = 0 := by
    intro x hx
    unfold homeKind at hx
    split at hx
    · split at hx <;> cases hx
    · rename_i h1
      split at hx
      · rename_i h2
        split at hx
        · rename_i h3; simp [fpaSystem, fpaSpan, fpaSub] at h1 h2 h3; exact ⟨h1, h2, h3⟩
        · split at hx
          · split at hx <;> cases hx
          · split at hx <;> cases hx
      · split at hx <;> cases hx
  have h1 := key a ha
  have h2 := key b hb
  simp only [spanKey, fpaPeer, fpaSpan, fpaOffset] at hk ho
  omega

theorem storedByte_placeByte_same {s : State} (a : Nat) (b : Byte) :
    storedByte (placeByte s a b) a = b := by
  unfold storedByte placeByte
  split
  · rw [modSpan, spanOf_setSpan_same]
    exact cellGet_cellSet_same _ _ _ _
  · exact cellGet_cellSet_same _ _ _ _

theorem storedByte_placeByte_other {s : State} (a a' : Nat) (b : Byte) (hn : a' ≠ a) :
    storedByte (placeByte s a b) a' = storedByte s a' := by
  unfold storedByte placeByte
  by_cases hp : homeKind a = .pad
  · rw [if_pos hp]
    by_cases hp' : homeKind a' = .pad
    · rw [if_pos hp', if_pos hp']
      by_cases hk : spanKey (fpaPeer a') (fpaSpan a') = spanKey (fpaPeer a) (fpaSpan a)
      · have ho : fpaOffset a' ≠ fpaOffset a := fun ho => hn (pad_address_eq hp hp' hk ho)
        have he : ∀ t : State, spanOf t (fpaPeer a') (fpaSpan a') = spanOf t (fpaPeer a) (fpaSpan a) := by
          intro t; simp [spanOf, hk]
        rw [he, he, modSpan, spanOf_setSpan_same]
        exact cellGet_cellSet_other _ _ _ _ _ ho
      · rw [modSpan, spanOf_setSpan_other _ _ _ _ _ _ hk]
    · rw [if_neg hp', if_neg hp']; rfl
  · rw [if_neg hp]
    by_cases hp' : homeKind a' = .pad
    · rw [if_pos hp', if_pos hp']; rfl
    · rw [if_neg hp', if_neg hp']
      exact cellGet_cellSet_other _ _ _ _ _ hn

@[simp] theorem storedByte_setSector (s : State) (sec : Nat) (x : Sector) (a : Nat) :
    storedByte (setSector s sec x) a = storedByte s a := rfl

@[simp] theorem sectorOf_placeByte (s : State) (a : Nat) (b : Byte) (sec : Nat) :
    sectorOf (placeByte s a b) sec = sectorOf s sec := by
  unfold placeByte; split <;> rfl

@[simp] theorem sectorOf_placeBytes (s : State) (a n v : Nat) (sec : Nat) :
    sectorOf (placeBytes a n v s) sec = sectorOf s sec := by
  induction n generalizing s a v with
  | zero => rfl
  | succ n ih => rw [placeBytes, ih, sectorOf_placeByte]

theorem storedByte_placeBytes_other {s : State} (a n v a' : Nat) (hn : a' < a ∨ a + n ≤ a') :
    storedByte (placeBytes a n v s) a' = storedByte s a' := by
  induction n generalizing s a v with
  | zero => rfl
  | succ n ih =>
    rw [placeBytes, ih _ _ (by omega), storedByte_placeByte_other _ _ _ (by omega)]

theorem storedByte_placeBytes_in {s : State} (a n v i : Nat) (hi : i < n) :
    storedByte (placeBytes a n v s) (a + i) = BitVec.ofNat 8 (v / 256 ^ i) := by
  induction n generalizing s a v i with
  | zero => omega
  | succ n ih =>
    rw [placeBytes]
    cases i with
    | zero =>
      rw [storedByte_placeBytes_other _ _ _ _ (by omega), Nat.add_zero,
        storedByte_placeByte_same, Nat.pow_zero, Nat.div_one]
    | succ i =>
      rw [show a + (i + 1) = a + 1 + i by omega, ih _ _ _ (by omega), Nat.div_div_eq_div_mul,
        Nat.pow_succ, Nat.mul_comm]

@[simp] theorem placeByte_pkgs (s : State) (a : Nat) (b : Byte) : (placeByte s a b).pkgs = s.pkgs := by
  unfold placeByte; split <;> rfl

@[simp] theorem placeBytes_pkgs (s : State) (a n v : Nat) : (placeBytes a n v s).pkgs = s.pkgs := by
  induction n generalizing s a v with
  | zero => rfl
  | succ n ih => rw [placeBytes, ih, placeByte_pkgs]

/-- The cipher of a key id is the package's. -/
theorem cipherOf_congr {s t : State} (hp : t.pkgs = s.pkgs) (key a : Nat) : cipherOf t key a = cipherOf s key a := by
  unfold cipherOf slotKeyOf pkgOf; rw [hp]

/-- The cipher of a key id is one for the bytes of a sector. -/
theorem cipherOf_sector (s : State) (key a b : Nat) (h : a / 64 = b / 64) (hh : homeKind a = homeKind b) :
    cipherOf s key a = cipherOf s key b := by
  unfold cipherOf; rw [hh, show fpaNode a = fpaNode b by unfold fpaNode; omega]

/-- What a byte reads as depends on its home's bytes, within its sector, on its sector's record and on the keys. -/
theorem memByte_congr {s t : State} (key a : Nat) (hp : t.pkgs = s.pkgs) (hs : sectorOf t (a / 64) = sectorOf s (a / 64))
    (hb : ∀ i < 64, storedByte t (64 * (a / 64) + i) = storedByte s (64 * (a / 64) + i)) : memByte t key a = memByte s key a := by
  have hsec : storedSector t (a / 64) = storedSector s (a / 64) := by
    unfold storedSector
    congr 1
    have : ∀ n ≤ 64, leNat (fun i => storedByte t (64 * (a / 64) + i)) n = leNat (fun i => storedByte s (64 * (a / 64) + i)) n := by
      intro n hn
      induction n with
      | zero => rfl
      | succ n ih => simp only [leNat, ih (by omega), hb n (by omega)]
    exact this 64 (Nat.le_refl _)
  have hself : storedByte t a = storedByte s a := by
    have := hb (a % 64) (Nat.mod_lt _ (by decide))
    rwa [Nat.div_add_mod] at this
  unfold memByte keyMatches seenSector
  rw [hs, hself, hsec, cipherOf_congr hp, cipherOf_congr hp]

/-- Two states hold the same in a sector: its bytes and its record, under the same keys. -/
def SameSector (s t : State) (k : Nat) : Prop :=
  t.pkgs = s.pkgs ∧ sectorOf t k = sectorOf s k ∧ ∀ i < 64, storedByte t (64 * k + i) = storedByte s (64 * k + i)

theorem SameSector.refl (s : State) (k : Nat) : SameSector s s k := ⟨rfl, rfl, fun _ _ => rfl⟩

theorem SameSector.trans {s t u : State} {k : Nat} (h : SameSector s t k) (h' : SameSector t u k) : SameSector s u k :=
  ⟨h'.1.trans h.1, h'.2.1.trans h.2.1, fun i hi => (h'.2.2 i hi).trans (h.2.2 i hi)⟩

theorem SameSector.memByte {s t : State} {key a : Nat} (h : SameSector s t (a / 64)) : memByte t key a = memByte s key a :=
  memByte_congr key a h.1 h.2.1 h.2.2

/-- Bytes placed one after the other in a sector leave the records, and the bytes elsewhere. -/
theorem placeSector (sec : Nat) (f : Nat → Byte) (n : Nat) {s : State} :
    let t := (List.range n).foldl (fun t i => placeByte t (64 * sec + i) (f i)) s
    t.pkgs = s.pkgs ∧ t.sectors = s.sectors ∧ (∀ k, sectorOf t k = sectorOf s k) ∧
      (∀ a, (a < 64 * sec ∨ 64 * sec + n ≤ a) → storedByte t a = storedByte s a) ∧
      ∀ i < n, storedByte t (64 * sec + i) = f i := by
  induction n with
  | zero => exact ⟨rfl, rfl, fun _ => rfl, fun _ _ => rfl, fun i hi => by omega⟩
  | succ n ih =>
    obtain ⟨hp, hs, hr, ho, hi⟩ := ih
    simp only [List.range_succ, List.foldl_append, List.foldl_cons, List.foldl_nil]
    refine ⟨?_, ?_, fun k => ?_, fun a ha => ?_, fun i hlt => ?_⟩
    · rw [placeByte_pkgs, hp]
    · rw [← hs]; unfold placeByte; split <;> rfl
    · rw [sectorOf_placeByte, hr]
    · rw [storedByte_placeByte_other _ _ _ (by omega), ho a (by omega)]
    · by_cases he : i = n
      · subst he; exact storedByte_placeByte_same _ _
      · rw [storedByte_placeByte_other _ _ _ (by omega), hi i (by omega)]

theorem homeKind_sector (a b : Nat) (h : a / 64 = b / 64) : homeKind a = homeKind b := by
  have h1 : fpaSystem a = fpaSystem b := by unfold fpaSystem; congr 2; omega
  have h2 : fpaStack a = fpaStack b := by unfold fpaStack; omega
  have h3 : fpaSpan a = fpaSpan b := by unfold fpaSpan; omega
  have h4 : fpaSub a = fpaSub b := by unfold fpaSub; omega
  have h5 : fpaHbmOffset a < 2 ^ 36 ↔ fpaHbmOffset b < 2 ^ 36 := by unfold fpaHbmOffset; omega
  have h6 : fpaOffset a < 2 ^ 20 ↔ fpaOffset b < 2 ^ 20 := by unfold fpaOffset; omega
  unfold homeKind
  simp only [h1, h2, h3, h4, h5, h6]

@[simp] theorem rekey_pkgs (key sec : Nat) (s : State) : (rekey key sec s).pkgs = s.pkgs := by
  unfold rekey
  split
  · rfl
  · exact (placeSector (s := s) sec (fun i => (seenSector s key sec).extractLsb' (8 * i) 8) 64).1

@[simp] theorem touchPlain_pkgs (key sec : Nat) (s : State) : (touchPlain key sec s).pkgs = s.pkgs := rekey_pkgs key sec s

/-- Bringing a sector under a key id leaves every other sector. -/
theorem sameSector_rekey {s : State} (key sec k : Nat) (hk : k ≠ sec) :
    SameSector s (rekey key sec s) k := by
  unfold rekey
  split
  · exact .refl s k
  · obtain ⟨hp, -, hr, ho, -⟩ := placeSector (s := s) sec
      (fun i => (seenSector s key sec).extractLsb' (8 * i) 8) 64
    refine ⟨hp, ?_, fun i hi => ?_⟩
    · rw [sectorOf_setSector_other _ _ _ _ hk, hr]
    · rw [storedByte_setSector, ho _ (by omega)]

theorem sameSector_touchPlain {s : State} (key sec k : Nat) (hk : k ≠ sec) :
    SameSector s (touchPlain key sec s) k := by
  refine (sameSector_rekey key sec k hk).trans ⟨rfl, ?_, fun _ _ => rfl⟩
  exact sectorOf_setSector_other _ _ _ _ hk

/-- The sectors that a write touches. -/
theorem mem_sectorsOf (a n k : Nat) : k ∈ sectorsOf a n ↔ 0 < n ∧ a / 64 ≤ k ∧ k ≤ (a + n - 1) / 64 := by
  unfold sectorsOf
  split
  · simp; omega
  · simp only [List.mem_map, List.mem_range]
    constructor
    · rintro ⟨i, hi, rfl⟩; omega
    · rintro ⟨h0, h1, h2⟩; exact ⟨k - a / 64, by omega, by omega⟩

theorem sameSector_touches (key k : Nat) (l : List Nat) (hk : k ∉ l) {s : State} :
    SameSector s (l.foldl (fun t sec => touchPlain key sec t) s) k := by
  induction l generalizing s with
  | nil => exact .refl s k
  | cons x l ih =>
    simp only [List.mem_cons, not_or] at hk
    exact (sameSector_touchPlain key x k hk.1).trans (ih hk.2)

/-- A plain write leaves every sector that it does not touch, under every key id. -/
theorem memByte_memWrite_sectors {s : State} (key a n v key' a' : Nat)
    (hn : a' / 64 ∉ sectorsOf a n) : memByte (memWrite key a n v s) key' a' = memByte s key' a' := by
  have hs := sameSector_touches (s := s) key (a' / 64) (sectorsOf a n) hn
  apply SameSector.memByte
  refine hs.trans ⟨placeBytes_pkgs _ _ _ _, sectorOf_placeBytes _ _ _ _ _, fun i hi => storedByte_placeBytes_other _ _ _ _ ?_⟩
  rw [mem_sectorsOf] at hn
  omega

/-- A sector that a plain write under a key id touches then matches it. -/
theorem touchPlain_reads {s : State} (key sec a : Nat) (ha : a / 64 = sec) :
    storedByte (touchPlain key sec s) a = memByte s key a ∧ keyMatches (touchPlain key sec s) key a = true := by
  have hk : ∀ b, b / 64 = sec → homeKind b = homeKind (64 * sec) := fun b hb => homeKind_sector _ _ (by omega)
  have hm : keyMatches s key (64 * sec) = keyMatches s key a := by
    unfold keyMatches
    rw [cipherOf_sector s key (64 * sec) a (by omega) (hk a ha).symm, ha, Nat.mul_div_cancel_left _ (by decide)]
  have hsec : sectorOf (touchPlain key sec s) sec = plainDescriptor (sectorOf (rekey key sec s) sec) :=
    sectorOf_setSector_same _ _ _
  have hpd : ∀ x : Sector, (plainDescriptor x).key = x.key := by
    intro x; unfold plainDescriptor; split; · rfl
    split <;> rfl
  constructor
  · show storedByte (rekey key sec s) a = _
    unfold rekey memByte
    rw [hm]
    split
    · rfl
    · obtain ⟨-, -, -, -, hi⟩ := placeSector (s := s) sec
        (fun i => (seenSector s key sec).extractLsb' (8 * i) 8) 64
      rw [storedByte_setSector]
      have := hi (a % 64) (Nat.mod_lt _ (by decide))
      rw [show 64 * sec + a % 64 = a by omega] at this
      rw [this, ha]
  · unfold keyMatches
    rw [ha, hsec, hpd, cipherOf_congr (touchPlain_pkgs key sec s), cipherOf_sector s key a (64 * sec) (by omega) (hk a ha)]
    unfold rekey
    split
    · rename_i hh; unfold keyMatches at hh; rwa [Nat.mul_div_cancel_left _ (by decide)] at hh
    · rw [sectorOf_setSector_same _ _ _]
      simp

theorem wf_touches {s : State} (h : Memory.wf s = true) (key : Nat) (l : List Nat) :
    Memory.wf (l.foldl (fun t sec => touchPlain key sec t) s) = true :=
  foldl_keeps (fun t => Memory.wf t = true) _ (fun _ _ hw => wf_touchPlain hw _ _) _ h

theorem touches_reads (key a : Nat) (l : List Nat) (hn : l.Nodup) (hm : a / 64 ∈ l) {s : State} :
    let t := l.foldl (fun t sec => touchPlain key sec t) s
    storedByte t a = memByte s key a ∧ keyMatches t key a = true := by
  induction l generalizing s with
  | nil => simp at hm
  | cons x l ih =>
    rw [List.nodup_cons] at hn
    simp only [List.foldl_cons]
    by_cases hx : a / 64 = x
    · have hs := sameSector_touches (s := touchPlain key x s) key (a / 64) l (hx ▸ hn.1)
      obtain ⟨h1, h2⟩ := touchPlain_reads (s := s) key x a hx
      constructor
      · have := hs.2.2 (a % 64) (Nat.mod_lt _ (by decide))
        rw [Nat.div_add_mod] at this
        rw [this, h1]
      · unfold keyMatches at h2 ⊢; rw [hs.2.1, cipherOf_congr hs.1]; exact h2
    · obtain ⟨h1, h2⟩ := ih (s := touchPlain key x s) hn.2 (by simpa [hx] using hm)
      refine ⟨h1.trans ?_, h2⟩
      exact (sameSector_touchPlain key x (a / 64) hx).memByte

theorem nodup_sectorsOf (a n : Nat) : (sectorsOf a n).Nodup := by
  unfold sectorsOf
  split
  · exact List.nodup_nil
  · exact List.Nodup.map (fun x y hxy => Nat.add_left_cancel hxy) List.nodup_range

/-- Under the key id of a plain write, every byte outside the bytes written reads as before. -/
theorem memByte_memWrite_other {s : State} (key a n v a' : Nat) (hn : a' < a ∨ a + n ≤ a') :
    memByte (memWrite key a n v s) key a' = memByte s key a' := by
  by_cases hs : a' / 64 ∈ sectorsOf a n
  · obtain ⟨h1, h2⟩ := touches_reads (s := s) key a' _ (nodup_sectorsOf a n) hs
    unfold memByte
    rw [if_pos, memWrite, storedByte_placeBytes_other _ _ _ _ hn, h1]
    · rfl
    · unfold keyMatches at h2 ⊢; rw [memWrite, sectorOf_placeBytes, cipherOf_congr (placeBytes_pkgs _ _ _ _)]; exact h2
  · exact memByte_memWrite_sectors _ _ _ _ _ _ hs

/-- A byte that a plain write wrote reads as written, under the key id of the write. -/
theorem memByte_memWrite_in {s : State} (key a n v i : Nat) (hi : i < n) :
    memByte (memWrite key a n v s) key (a + i) = BitVec.ofNat 8 (v / 256 ^ i) := by
  have hs : (a + i) / 64 ∈ sectorsOf a n := (mem_sectorsOf _ _ _).2 (by omega)
  obtain ⟨-, h2⟩ := touches_reads (s := s) key (a + i) _ (nodup_sectorsOf a n) hs
  unfold memByte
  rw [if_pos, memWrite, storedByte_placeBytes_in _ _ _ _ hi]
  unfold keyMatches at h2 ⊢; rw [memWrite, sectorOf_placeBytes, cipherOf_congr (placeBytes_pkgs _ _ _ _)]; exact h2

/-- A read of what a plain write wrote. -/
theorem memRead_memWrite_same {s : State} (key a n v : Nat) :
    memRead (memWrite key a n v s) key a n = v % 2 ^ (8 * n) := by
  have hb : ∀ m ≤ n, leNat (fun i => memByte (memWrite key a n v s) key (a + i)) m = v % 2 ^ (8 * m) := by
    intro m hm
    induction m with
    | zero => simp [leNat, Nat.mod_one]
    | succ m ih =>
      simp only [leNat]
      rw [ih (by omega), memByte_memWrite_in key a n v m (by omega), BitVec.toNat_ofNat,
        show (256 : Nat) = 2 ^ 8 from rfl, ← Nat.pow_mul, Nat.mul_comm ((v / 2 ^ (8 * m)) % 2 ^ 8),
        show 8 * (m + 1) = 8 * m + 8 by omega, Nat.pow_add, Nat.mod_mul]
  exact hb n (Nat.le_refl _)

end Sys2Proof.Machine
end

