-- ==== Sys2Proof/Laws/State.lean ====
section
/-! SUPPORT. What each update of a record leaves alone: one lemma for every field of the state and every named update of it, and
for every field of a thread and every named update of one. All are true by unfolding. -/

set_option Elab.async false

namespace Sys2Proof.Machine

/-! ### `setSpan` -/

@[simp] theorem setSpan_thr (s : State) (peer span : Nat) (x : Span) : (setSpan s peer span x).thr = s.thr := rfl
@[simp] theorem setSpan_others (s : State) (peer span : Nat) (x : Span) : (setSpan s peer span x).others = s.others := rfl
@[simp] theorem setSpan_dies (s : State) (peer span : Nat) (x : Span) : (setSpan s peer span x).dies = s.dies := rfl
@[simp] theorem setSpan_pkgs (s : State) (peer span : Nat) (x : Span) : (setSpan s peer span x).pkgs = s.pkgs := rfl
@[simp] theorem setSpan_vault (s : State) (peer span : Nat) (x : Span) : (setSpan s peer span x).vault = s.vault := rfl
@[simp] theorem setSpan_mem (s : State) (peer span : Nat) (x : Span) : (setSpan s peer span x).mem = s.mem := rfl
@[simp] theorem setSpan_sectors (s : State) (peer span : Nat) (x : Span) : (setSpan s peer span x).sectors = s.sectors := rfl
@[simp] theorem setSpan_packets (s : State) (peer span : Nat) (x : Span) : (setSpan s peer span x).packets = s.packets := rfl
@[simp] theorem setSpan_messages (s : State) (peer span : Nat) (x : Span) : (setSpan s peer span x).messages = s.messages := rfl
@[simp] theorem setSpan_podTokens (s : State) (peer span : Nat) (x : Span) : (setSpan s peer span x).podTokens = s.podTokens := rfl
@[simp] theorem setSpan_time (s : State) (peer span : Nat) (x : Span) : (setSpan s peer span x).time = s.time := rfl
@[simp] theorem setSpan_period (s : State) (peer span : Nat) (x : Span) : (setSpan s peer span x).period = s.period := rfl
@[simp] theorem setSpan_fresh (s : State) (peer span : Nat) (x : Span) : (setSpan s peer span x).fresh = s.fresh := rfl
@[simp] theorem setSpan_turn (s : State) (peer span : Nat) (x : Span) : (setSpan s peer span x).turn = s.turn := rfl
@[simp] theorem setSpan_turns (s : State) (peer span : Nat) (x : Span) : (setSpan s peer span x).turns = s.turns := rfl

/-! ### `modSpan` -/

@[simp] theorem modSpan_thr (s : State) (peer span : Nat) (f : Span → Span) : (modSpan peer span f s).thr = s.thr := rfl
@[simp] theorem modSpan_others (s : State) (peer span : Nat) (f : Span → Span) : (modSpan peer span f s).others = s.others := rfl
@[simp] theorem modSpan_dies (s : State) (peer span : Nat) (f : Span → Span) : (modSpan peer span f s).dies = s.dies := rfl
@[simp] theorem modSpan_pkgs (s : State) (peer span : Nat) (f : Span → Span) : (modSpan peer span f s).pkgs = s.pkgs := rfl
@[simp] theorem modSpan_vault (s : State) (peer span : Nat) (f : Span → Span) : (modSpan peer span f s).vault = s.vault := rfl
@[simp] theorem modSpan_mem (s : State) (peer span : Nat) (f : Span → Span) : (modSpan peer span f s).mem = s.mem := rfl
@[simp] theorem modSpan_sectors (s : State) (peer span : Nat) (f : Span → Span) : (modSpan peer span f s).sectors = s.sectors := rfl
@[simp] theorem modSpan_packets (s : State) (peer span : Nat) (f : Span → Span) : (modSpan peer span f s).packets = s.packets := rfl
@[simp] theorem modSpan_messages (s : State) (peer span : Nat) (f : Span → Span) : (modSpan peer span f s).messages = s.messages := rfl
@[simp] theorem modSpan_podTokens (s : State) (peer span : Nat) (f : Span → Span) : (modSpan peer span f s).podTokens = s.podTokens := rfl
@[simp] theorem modSpan_time (s : State) (peer span : Nat) (f : Span → Span) : (modSpan peer span f s).time = s.time := rfl
@[simp] theorem modSpan_period (s : State) (peer span : Nat) (f : Span → Span) : (modSpan peer span f s).period = s.period := rfl
@[simp] theorem modSpan_fresh (s : State) (peer span : Nat) (f : Span → Span) : (modSpan peer span f s).fresh = s.fresh := rfl
@[simp] theorem modSpan_turn (s : State) (peer span : Nat) (f : Span → Span) : (modSpan peer span f s).turn = s.turn := rfl
@[simp] theorem modSpan_turns (s : State) (peer span : Nat) (f : Span → Span) : (modSpan peer span f s).turns = s.turns := rfl

/-! ### `modMySpan` -/

@[simp] theorem modMySpan_thr (s : State) (f : Span → Span) : (modMySpan f s).thr = s.thr := rfl
@[simp] theorem modMySpan_others (s : State) (f : Span → Span) : (modMySpan f s).others = s.others := rfl
@[simp] theorem modMySpan_dies (s : State) (f : Span → Span) : (modMySpan f s).dies = s.dies := rfl
@[simp] theorem modMySpan_pkgs (s : State) (f : Span → Span) : (modMySpan f s).pkgs = s.pkgs := rfl
@[simp] theorem modMySpan_vault (s : State) (f : Span → Span) : (modMySpan f s).vault = s.vault := rfl
@[simp] theorem modMySpan_mem (s : State) (f : Span → Span) : (modMySpan f s).mem = s.mem := rfl
@[simp] theorem modMySpan_sectors (s : State) (f : Span → Span) : (modMySpan f s).sectors = s.sectors := rfl
@[simp] theorem modMySpan_packets (s : State) (f : Span → Span) : (modMySpan f s).packets = s.packets := rfl
@[simp] theorem modMySpan_messages (s : State) (f : Span → Span) : (modMySpan f s).messages = s.messages := rfl
@[simp] theorem modMySpan_podTokens (s : State) (f : Span → Span) : (modMySpan f s).podTokens = s.podTokens := rfl
@[simp] theorem modMySpan_time (s : State) (f : Span → Span) : (modMySpan f s).time = s.time := rfl
@[simp] theorem modMySpan_period (s : State) (f : Span → Span) : (modMySpan f s).period = s.period := rfl
@[simp] theorem modMySpan_fresh (s : State) (f : Span → Span) : (modMySpan f s).fresh = s.fresh := rfl
@[simp] theorem modMySpan_turn (s : State) (f : Span → Span) : (modMySpan f s).turn = s.turn := rfl
@[simp] theorem modMySpan_turns (s : State) (f : Span → Span) : (modMySpan f s).turns = s.turns := rfl

/-! ### `setDie` -/

@[simp] theorem setDie_thr (s : State) (peer : Nat) (x : Die) : (setDie s peer x).thr = s.thr := rfl
@[simp] theorem setDie_others (s : State) (peer : Nat) (x : Die) : (setDie s peer x).others = s.others := rfl
@[simp] theorem setDie_spans (s : State) (peer : Nat) (x : Die) : (setDie s peer x).spans = s.spans := rfl
@[simp] theorem setDie_pkgs (s : State) (peer : Nat) (x : Die) : (setDie s peer x).pkgs = s.pkgs := rfl
@[simp] theorem setDie_vault (s : State) (peer : Nat) (x : Die) : (setDie s peer x).vault = s.vault := rfl
@[simp] theorem setDie_mem (s : State) (peer : Nat) (x : Die) : (setDie s peer x).mem = s.mem := rfl
@[simp] theorem setDie_sectors (s : State) (peer : Nat) (x : Die) : (setDie s peer x).sectors = s.sectors := rfl
@[simp] theorem setDie_packets (s : State) (peer : Nat) (x : Die) : (setDie s peer x).packets = s.packets := rfl
@[simp] theorem setDie_messages (s : State) (peer : Nat) (x : Die) : (setDie s peer x).messages = s.messages := rfl
@[simp] theorem setDie_podTokens (s : State) (peer : Nat) (x : Die) : (setDie s peer x).podTokens = s.podTokens := rfl
@[simp] theorem setDie_time (s : State) (peer : Nat) (x : Die) : (setDie s peer x).time = s.time := rfl
@[simp] theorem setDie_period (s : State) (peer : Nat) (x : Die) : (setDie s peer x).period = s.period := rfl
@[simp] theorem setDie_fresh (s : State) (peer : Nat) (x : Die) : (setDie s peer x).fresh = s.fresh := rfl
@[simp] theorem setDie_turn (s : State) (peer : Nat) (x : Die) : (setDie s peer x).turn = s.turn := rfl
@[simp] theorem setDie_turns (s : State) (peer : Nat) (x : Die) : (setDie s peer x).turns = s.turns := rfl

/-! ### `modDie` -/

@[simp] theorem modDie_thr (s : State) (peer : Nat) (f : Die → Die) : (modDie peer f s).thr = s.thr := rfl
@[simp] theorem modDie_others (s : State) (peer : Nat) (f : Die → Die) : (modDie peer f s).others = s.others := rfl
@[simp] theorem modDie_spans (s : State) (peer : Nat) (f : Die → Die) : (modDie peer f s).spans = s.spans := rfl
@[simp] theorem modDie_pkgs (s : State) (peer : Nat) (f : Die → Die) : (modDie peer f s).pkgs = s.pkgs := rfl
@[simp] theorem modDie_vault (s : State) (peer : Nat) (f : Die → Die) : (modDie peer f s).vault = s.vault := rfl
@[simp] theorem modDie_mem (s : State) (peer : Nat) (f : Die → Die) : (modDie peer f s).mem = s.mem := rfl
@[simp] theorem modDie_sectors (s : State) (peer : Nat) (f : Die → Die) : (modDie peer f s).sectors = s.sectors := rfl
@[simp] theorem modDie_packets (s : State) (peer : Nat) (f : Die → Die) : (modDie peer f s).packets = s.packets := rfl
@[simp] theorem modDie_messages (s : State) (peer : Nat) (f : Die → Die) : (modDie peer f s).messages = s.messages := rfl
@[simp] theorem modDie_podTokens (s : State) (peer : Nat) (f : Die → Die) : (modDie peer f s).podTokens = s.podTokens := rfl
@[simp] theorem modDie_time (s : State) (peer : Nat) (f : Die → Die) : (modDie peer f s).time = s.time := rfl
@[simp] theorem modDie_period (s : State) (peer : Nat) (f : Die → Die) : (modDie peer f s).period = s.period := rfl
@[simp] theorem modDie_fresh (s : State) (peer : Nat) (f : Die → Die) : (modDie peer f s).fresh = s.fresh := rfl
@[simp] theorem modDie_turn (s : State) (peer : Nat) (f : Die → Die) : (modDie peer f s).turn = s.turn := rfl
@[simp] theorem modDie_turns (s : State) (peer : Nat) (f : Die → Die) : (modDie peer f s).turns = s.turns := rfl

/-! ### `setPkg` -/

@[simp] theorem setPkg_thr (s : State) (node : Nat) (x : Pkg) : (setPkg s node x).thr = s.thr := rfl
@[simp] theorem setPkg_others (s : State) (node : Nat) (x : Pkg) : (setPkg s node x).others = s.others := rfl
@[simp] theorem setPkg_spans (s : State) (node : Nat) (x : Pkg) : (setPkg s node x).spans = s.spans := rfl
@[simp] theorem setPkg_dies (s : State) (node : Nat) (x : Pkg) : (setPkg s node x).dies = s.dies := rfl
@[simp] theorem setPkg_vault (s : State) (node : Nat) (x : Pkg) : (setPkg s node x).vault = s.vault := rfl
@[simp] theorem setPkg_mem (s : State) (node : Nat) (x : Pkg) : (setPkg s node x).mem = s.mem := rfl
@[simp] theorem setPkg_sectors (s : State) (node : Nat) (x : Pkg) : (setPkg s node x).sectors = s.sectors := rfl
@[simp] theorem setPkg_packets (s : State) (node : Nat) (x : Pkg) : (setPkg s node x).packets = s.packets := rfl
@[simp] theorem setPkg_messages (s : State) (node : Nat) (x : Pkg) : (setPkg s node x).messages = s.messages := rfl
@[simp] theorem setPkg_podTokens (s : State) (node : Nat) (x : Pkg) : (setPkg s node x).podTokens = s.podTokens := rfl
@[simp] theorem setPkg_time (s : State) (node : Nat) (x : Pkg) : (setPkg s node x).time = s.time := rfl
@[simp] theorem setPkg_period (s : State) (node : Nat) (x : Pkg) : (setPkg s node x).period = s.period := rfl
@[simp] theorem setPkg_fresh (s : State) (node : Nat) (x : Pkg) : (setPkg s node x).fresh = s.fresh := rfl
@[simp] theorem setPkg_turn (s : State) (node : Nat) (x : Pkg) : (setPkg s node x).turn = s.turn := rfl
@[simp] theorem setPkg_turns (s : State) (node : Nat) (x : Pkg) : (setPkg s node x).turns = s.turns := rfl

/-! ### `modPkg` -/

@[simp] theorem modPkg_thr (s : State) (node : Nat) (f : Pkg → Pkg) : (modPkg node f s).thr = s.thr := rfl
@[simp] theorem modPkg_others (s : State) (node : Nat) (f : Pkg → Pkg) : (modPkg node f s).others = s.others := rfl
@[simp] theorem modPkg_spans (s : State) (node : Nat) (f : Pkg → Pkg) : (modPkg node f s).spans = s.spans := rfl
@[simp] theorem modPkg_dies (s : State) (node : Nat) (f : Pkg → Pkg) : (modPkg node f s).dies = s.dies := rfl
@[simp] theorem modPkg_vault (s : State) (node : Nat) (f : Pkg → Pkg) : (modPkg node f s).vault = s.vault := rfl
@[simp] theorem modPkg_mem (s : State) (node : Nat) (f : Pkg → Pkg) : (modPkg node f s).mem = s.mem := rfl
@[simp] theorem modPkg_sectors (s : State) (node : Nat) (f : Pkg → Pkg) : (modPkg node f s).sectors = s.sectors := rfl
@[simp] theorem modPkg_packets (s : State) (node : Nat) (f : Pkg → Pkg) : (modPkg node f s).packets = s.packets := rfl
@[simp] theorem modPkg_messages (s : State) (node : Nat) (f : Pkg → Pkg) : (modPkg node f s).messages = s.messages := rfl
@[simp] theorem modPkg_podTokens (s : State) (node : Nat) (f : Pkg → Pkg) : (modPkg node f s).podTokens = s.podTokens := rfl
@[simp] theorem modPkg_time (s : State) (node : Nat) (f : Pkg → Pkg) : (modPkg node f s).time = s.time := rfl
@[simp] theorem modPkg_period (s : State) (node : Nat) (f : Pkg → Pkg) : (modPkg node f s).period = s.period := rfl
@[simp] theorem modPkg_fresh (s : State) (node : Nat) (f : Pkg → Pkg) : (modPkg node f s).fresh = s.fresh := rfl
@[simp] theorem modPkg_turn (s : State) (node : Nat) (f : Pkg → Pkg) : (modPkg node f s).turn = s.turn := rfl
@[simp] theorem modPkg_turns (s : State) (node : Nat) (f : Pkg → Pkg) : (modPkg node f s).turns = s.turns := rfl

/-! ### `setSector` -/

@[simp] theorem setSector_thr (s : State) (sec : Nat) (x : Sector) : (setSector s sec x).thr = s.thr := rfl
@[simp] theorem setSector_others (s : State) (sec : Nat) (x : Sector) : (setSector s sec x).others = s.others := rfl
@[simp] theorem setSector_spans (s : State) (sec : Nat) (x : Sector) : (setSector s sec x).spans = s.spans := rfl
@[simp] theorem setSector_dies (s : State) (sec : Nat) (x : Sector) : (setSector s sec x).dies = s.dies := rfl
@[simp] theorem setSector_pkgs (s : State) (sec : Nat) (x : Sector) : (setSector s sec x).pkgs = s.pkgs := rfl
@[simp] theorem setSector_vault (s : State) (sec : Nat) (x : Sector) : (setSector s sec x).vault = s.vault := rfl
@[simp] theorem setSector_mem (s : State) (sec : Nat) (x : Sector) : (setSector s sec x).mem = s.mem := rfl
@[simp] theorem setSector_packets (s : State) (sec : Nat) (x : Sector) : (setSector s sec x).packets = s.packets := rfl
@[simp] theorem setSector_messages (s : State) (sec : Nat) (x : Sector) : (setSector s sec x).messages = s.messages := rfl
@[simp] theorem setSector_podTokens (s : State) (sec : Nat) (x : Sector) : (setSector s sec x).podTokens = s.podTokens := rfl
@[simp] theorem setSector_time (s : State) (sec : Nat) (x : Sector) : (setSector s sec x).time = s.time := rfl
@[simp] theorem setSector_period (s : State) (sec : Nat) (x : Sector) : (setSector s sec x).period = s.period := rfl
@[simp] theorem setSector_fresh (s : State) (sec : Nat) (x : Sector) : (setSector s sec x).fresh = s.fresh := rfl
@[simp] theorem setSector_turn (s : State) (sec : Nat) (x : Sector) : (setSector s sec x).turn = s.turn := rfl
@[simp] theorem setSector_turns (s : State) (sec : Nat) (x : Sector) : (setSector s sec x).turns = s.turns := rfl

/-! ### `modThreads` -/

@[simp] theorem modThreads_spans (s : State) (p : Thread → Bool) (f : Thread → Thread) : (modThreads p f s).spans = s.spans := rfl
@[simp] theorem modThreads_dies (s : State) (p : Thread → Bool) (f : Thread → Thread) : (modThreads p f s).dies = s.dies := rfl
@[simp] theorem modThreads_pkgs (s : State) (p : Thread → Bool) (f : Thread → Thread) : (modThreads p f s).pkgs = s.pkgs := rfl
@[simp] theorem modThreads_vault (s : State) (p : Thread → Bool) (f : Thread → Thread) : (modThreads p f s).vault = s.vault := rfl
@[simp] theorem modThreads_mem (s : State) (p : Thread → Bool) (f : Thread → Thread) : (modThreads p f s).mem = s.mem := rfl
@[simp] theorem modThreads_sectors (s : State) (p : Thread → Bool) (f : Thread → Thread) : (modThreads p f s).sectors = s.sectors := rfl
@[simp] theorem modThreads_packets (s : State) (p : Thread → Bool) (f : Thread → Thread) : (modThreads p f s).packets = s.packets := rfl
@[simp] theorem modThreads_messages (s : State) (p : Thread → Bool) (f : Thread → Thread) : (modThreads p f s).messages = s.messages := rfl
@[simp] theorem modThreads_podTokens (s : State) (p : Thread → Bool) (f : Thread → Thread) : (modThreads p f s).podTokens = s.podTokens := rfl
@[simp] theorem modThreads_time (s : State) (p : Thread → Bool) (f : Thread → Thread) : (modThreads p f s).time = s.time := rfl
@[simp] theorem modThreads_period (s : State) (p : Thread → Bool) (f : Thread → Thread) : (modThreads p f s).period = s.period := rfl
@[simp] theorem modThreads_fresh (s : State) (p : Thread → Bool) (f : Thread → Thread) : (modThreads p f s).fresh = s.fresh := rfl
@[simp] theorem modThreads_turn (s : State) (p : Thread → Bool) (f : Thread → Thread) : (modThreads p f s).turn = s.turn := rfl
@[simp] theorem modThreads_turns (s : State) (p : Thread → Bool) (f : Thread → Thread) : (modThreads p f s).turns = s.turns := rfl

/-! ### `park` -/

@[simp] theorem park_others (s : State) (w : Wait) : (park w s).others = s.others := rfl
@[simp] theorem park_spans (s : State) (w : Wait) : (park w s).spans = s.spans := rfl
@[simp] theorem park_dies (s : State) (w : Wait) : (park w s).dies = s.dies := rfl
@[simp] theorem park_pkgs (s : State) (w : Wait) : (park w s).pkgs = s.pkgs := rfl
@[simp] theorem park_vault (s : State) (w : Wait) : (park w s).vault = s.vault := rfl
@[simp] theorem park_mem (s : State) (w : Wait) : (park w s).mem = s.mem := rfl
@[simp] theorem park_sectors (s : State) (w : Wait) : (park w s).sectors = s.sectors := rfl
@[simp] theorem park_packets (s : State) (w : Wait) : (park w s).packets = s.packets := rfl
@[simp] theorem park_messages (s : State) (w : Wait) : (park w s).messages = s.messages := rfl
@[simp] theorem park_podTokens (s : State) (w : Wait) : (park w s).podTokens = s.podTokens := rfl
@[simp] theorem park_time (s : State) (w : Wait) : (park w s).time = s.time := rfl
@[simp] theorem park_period (s : State) (w : Wait) : (park w s).period = s.period := rfl
@[simp] theorem park_fresh (s : State) (w : Wait) : (park w s).fresh = s.fresh := rfl
@[simp] theorem park_turn (s : State) (w : Wait) : (park w s).turn = s.turn := rfl
@[simp] theorem park_turns (s : State) (w : Wait) : (park w s).turns = s.turns := rfl

/-! ### `l1StoreAt` -/

@[simp] theorem l1StoreAt_thr (s : State) (peer span a n v : Nat) : (l1StoreAt peer span a n v s).thr = s.thr := rfl
@[simp] theorem l1StoreAt_others (s : State) (peer span a n v : Nat) : (l1StoreAt peer span a n v s).others = s.others := rfl
@[simp] theorem l1StoreAt_dies (s : State) (peer span a n v : Nat) : (l1StoreAt peer span a n v s).dies = s.dies := rfl
@[simp] theorem l1StoreAt_pkgs (s : State) (peer span a n v : Nat) : (l1StoreAt peer span a n v s).pkgs = s.pkgs := rfl
@[simp] theorem l1StoreAt_vault (s : State) (peer span a n v : Nat) : (l1StoreAt peer span a n v s).vault = s.vault := rfl
@[simp] theorem l1StoreAt_mem (s : State) (peer span a n v : Nat) : (l1StoreAt peer span a n v s).mem = s.mem := rfl
@[simp] theorem l1StoreAt_sectors (s : State) (peer span a n v : Nat) : (l1StoreAt peer span a n v s).sectors = s.sectors := rfl
@[simp] theorem l1StoreAt_packets (s : State) (peer span a n v : Nat) : (l1StoreAt peer span a n v s).packets = s.packets := rfl
@[simp] theorem l1StoreAt_messages (s : State) (peer span a n v : Nat) : (l1StoreAt peer span a n v s).messages = s.messages := rfl
@[simp] theorem l1StoreAt_podTokens (s : State) (peer span a n v : Nat) : (l1StoreAt peer span a n v s).podTokens = s.podTokens := rfl
@[simp] theorem l1StoreAt_time (s : State) (peer span a n v : Nat) : (l1StoreAt peer span a n v s).time = s.time := rfl
@[simp] theorem l1StoreAt_period (s : State) (peer span a n v : Nat) : (l1StoreAt peer span a n v s).period = s.period := rfl
@[simp] theorem l1StoreAt_fresh (s : State) (peer span a n v : Nat) : (l1StoreAt peer span a n v s).fresh = s.fresh := rfl
@[simp] theorem l1StoreAt_turn (s : State) (peer span a n v : Nat) : (l1StoreAt peer span a n v s).turn = s.turn := rfl
@[simp] theorem l1StoreAt_turns (s : State) (peer span a n v : Nat) : (l1StoreAt peer span a n v s).turns = s.turns := rfl

/-! ### `l1Store` -/

@[simp] theorem l1Store_thr (s : State) (a n v : Nat) : (l1Store a n v s).thr = s.thr := rfl
@[simp] theorem l1Store_others (s : State) (a n v : Nat) : (l1Store a n v s).others = s.others := rfl
@[simp] theorem l1Store_dies (s : State) (a n v : Nat) : (l1Store a n v s).dies = s.dies := rfl
@[simp] theorem l1Store_pkgs (s : State) (a n v : Nat) : (l1Store a n v s).pkgs = s.pkgs := rfl
@[simp] theorem l1Store_vault (s : State) (a n v : Nat) : (l1Store a n v s).vault = s.vault := rfl
@[simp] theorem l1Store_mem (s : State) (a n v : Nat) : (l1Store a n v s).mem = s.mem := rfl
@[simp] theorem l1Store_sectors (s : State) (a n v : Nat) : (l1Store a n v s).sectors = s.sectors := rfl
@[simp] theorem l1Store_packets (s : State) (a n v : Nat) : (l1Store a n v s).packets = s.packets := rfl
@[simp] theorem l1Store_messages (s : State) (a n v : Nat) : (l1Store a n v s).messages = s.messages := rfl
@[simp] theorem l1Store_podTokens (s : State) (a n v : Nat) : (l1Store a n v s).podTokens = s.podTokens := rfl
@[simp] theorem l1Store_time (s : State) (a n v : Nat) : (l1Store a n v s).time = s.time := rfl
@[simp] theorem l1Store_period (s : State) (a n v : Nat) : (l1Store a n v s).period = s.period := rfl
@[simp] theorem l1Store_fresh (s : State) (a n v : Nat) : (l1Store a n v s).fresh = s.fresh := rfl
@[simp] theorem l1Store_turn (s : State) (a n v : Nat) : (l1Store a n v s).turn = s.turn := rfl
@[simp] theorem l1Store_turns (s : State) (a n v : Nat) : (l1Store a n v s).turns = s.turns := rfl

/-! ### `l1Remove` -/

@[simp] theorem l1Remove_thr (s : State) (a n : Nat) : (l1Remove a n s).thr = s.thr := rfl
@[simp] theorem l1Remove_others (s : State) (a n : Nat) : (l1Remove a n s).others = s.others := rfl
@[simp] theorem l1Remove_dies (s : State) (a n : Nat) : (l1Remove a n s).dies = s.dies := rfl
@[simp] theorem l1Remove_pkgs (s : State) (a n : Nat) : (l1Remove a n s).pkgs = s.pkgs := rfl
@[simp] theorem l1Remove_vault (s : State) (a n : Nat) : (l1Remove a n s).vault = s.vault := rfl
@[simp] theorem l1Remove_mem (s : State) (a n : Nat) : (l1Remove a n s).mem = s.mem := rfl
@[simp] theorem l1Remove_sectors (s : State) (a n : Nat) : (l1Remove a n s).sectors = s.sectors := rfl
@[simp] theorem l1Remove_packets (s : State) (a n : Nat) : (l1Remove a n s).packets = s.packets := rfl
@[simp] theorem l1Remove_messages (s : State) (a n : Nat) : (l1Remove a n s).messages = s.messages := rfl
@[simp] theorem l1Remove_podTokens (s : State) (a n : Nat) : (l1Remove a n s).podTokens = s.podTokens := rfl
@[simp] theorem l1Remove_time (s : State) (a n : Nat) : (l1Remove a n s).time = s.time := rfl
@[simp] theorem l1Remove_period (s : State) (a n : Nat) : (l1Remove a n s).period = s.period := rfl
@[simp] theorem l1Remove_fresh (s : State) (a n : Nat) : (l1Remove a n s).fresh = s.fresh := rfl
@[simp] theorem l1Remove_turn (s : State) (a n : Nat) : (l1Remove a n s).turn = s.turn := rfl
@[simp] theorem l1Remove_turns (s : State) (a n : Nat) : (l1Remove a n s).turns = s.turns := rfl

/-! ### `l1Clear` -/

@[simp] theorem l1Clear_thr (s : State) : (l1Clear s).thr = s.thr := rfl
@[simp] theorem l1Clear_others (s : State) : (l1Clear s).others = s.others := rfl
@[simp] theorem l1Clear_dies (s : State) : (l1Clear s).dies = s.dies := rfl
@[simp] theorem l1Clear_pkgs (s : State) : (l1Clear s).pkgs = s.pkgs := rfl
@[simp] theorem l1Clear_vault (s : State) : (l1Clear s).vault = s.vault := rfl
@[simp] theorem l1Clear_mem (s : State) : (l1Clear s).mem = s.mem := rfl
@[simp] theorem l1Clear_sectors (s : State) : (l1Clear s).sectors = s.sectors := rfl
@[simp] theorem l1Clear_packets (s : State) : (l1Clear s).packets = s.packets := rfl
@[simp] theorem l1Clear_messages (s : State) : (l1Clear s).messages = s.messages := rfl
@[simp] theorem l1Clear_podTokens (s : State) : (l1Clear s).podTokens = s.podTokens := rfl
@[simp] theorem l1Clear_time (s : State) : (l1Clear s).time = s.time := rfl
@[simp] theorem l1Clear_period (s : State) : (l1Clear s).period = s.period := rfl
@[simp] theorem l1Clear_fresh (s : State) : (l1Clear s).fresh = s.fresh := rfl
@[simp] theorem l1Clear_turn (s : State) : (l1Clear s).turn = s.turn := rfl
@[simp] theorem l1Clear_turns (s : State) : (l1Clear s).turns = s.turns := rfl

/-! ### `windowClear` -/

@[simp] theorem windowClear_thr (s : State) : (windowClear s).thr = s.thr := rfl
@[simp] theorem windowClear_others (s : State) : (windowClear s).others = s.others := rfl
@[simp] theorem windowClear_spans (s : State) : (windowClear s).spans = s.spans := rfl
@[simp] theorem windowClear_pkgs (s : State) : (windowClear s).pkgs = s.pkgs := rfl
@[simp] theorem windowClear_vault (s : State) : (windowClear s).vault = s.vault := rfl
@[simp] theorem windowClear_mem (s : State) : (windowClear s).mem = s.mem := rfl
@[simp] theorem windowClear_sectors (s : State) : (windowClear s).sectors = s.sectors := rfl
@[simp] theorem windowClear_messages (s : State) : (windowClear s).messages = s.messages := rfl
@[simp] theorem windowClear_podTokens (s : State) : (windowClear s).podTokens = s.podTokens := rfl
@[simp] theorem windowClear_time (s : State) : (windowClear s).time = s.time := rfl
@[simp] theorem windowClear_period (s : State) : (windowClear s).period = s.period := rfl
@[simp] theorem windowClear_fresh (s : State) : (windowClear s).fresh = s.fresh := rfl
@[simp] theorem windowClear_turn (s : State) : (windowClear s).turn = s.turn := rfl
@[simp] theorem windowClear_turns (s : State) : (windowClear s).turns = s.turns := rfl

/-! ### `modTransfer` -/

@[simp] theorem modTransfer_others (s : State) (order : Nat) (f : Transfer → Transfer) : (modTransfer order f s).others = s.others := rfl
@[simp] theorem modTransfer_spans (s : State) (order : Nat) (f : Transfer → Transfer) : (modTransfer order f s).spans = s.spans := rfl
@[simp] theorem modTransfer_dies (s : State) (order : Nat) (f : Transfer → Transfer) : (modTransfer order f s).dies = s.dies := rfl
@[simp] theorem modTransfer_pkgs (s : State) (order : Nat) (f : Transfer → Transfer) : (modTransfer order f s).pkgs = s.pkgs := rfl
@[simp] theorem modTransfer_vault (s : State) (order : Nat) (f : Transfer → Transfer) : (modTransfer order f s).vault = s.vault := rfl
@[simp] theorem modTransfer_mem (s : State) (order : Nat) (f : Transfer → Transfer) : (modTransfer order f s).mem = s.mem := rfl
@[simp] theorem modTransfer_sectors (s : State) (order : Nat) (f : Transfer → Transfer) : (modTransfer order f s).sectors = s.sectors := rfl
@[simp] theorem modTransfer_packets (s : State) (order : Nat) (f : Transfer → Transfer) : (modTransfer order f s).packets = s.packets := rfl
@[simp] theorem modTransfer_messages (s : State) (order : Nat) (f : Transfer → Transfer) : (modTransfer order f s).messages = s.messages := rfl
@[simp] theorem modTransfer_podTokens (s : State) (order : Nat) (f : Transfer → Transfer) : (modTransfer order f s).podTokens = s.podTokens := rfl
@[simp] theorem modTransfer_time (s : State) (order : Nat) (f : Transfer → Transfer) : (modTransfer order f s).time = s.time := rfl
@[simp] theorem modTransfer_period (s : State) (order : Nat) (f : Transfer → Transfer) : (modTransfer order f s).period = s.period := rfl
@[simp] theorem modTransfer_fresh (s : State) (order : Nat) (f : Transfer → Transfer) : (modTransfer order f s).fresh = s.fresh := rfl
@[simp] theorem modTransfer_turn (s : State) (order : Nat) (f : Transfer → Transfer) : (modTransfer order f s).turn = s.turn := rfl
@[simp] theorem modTransfer_turns (s : State) (order : Nat) (f : Transfer → Transfer) : (modTransfer order f s).turns = s.turns := rfl

/-! ### `logEvent` -/

@[simp] theorem logEvent_thr (s : State) (node : Nat) (code : LogCode) (peer : Nat) (data : List Nat) : (logEvent node code peer data s).thr = s.thr := rfl
@[simp] theorem logEvent_others (s : State) (node : Nat) (code : LogCode) (peer : Nat) (data : List Nat) : (logEvent node code peer data s).others = s.others := rfl
@[simp] theorem logEvent_spans (s : State) (node : Nat) (code : LogCode) (peer : Nat) (data : List Nat) : (logEvent node code peer data s).spans = s.spans := rfl
@[simp] theorem logEvent_dies (s : State) (node : Nat) (code : LogCode) (peer : Nat) (data : List Nat) : (logEvent node code peer data s).dies = s.dies := rfl
@[simp] theorem logEvent_vault (s : State) (node : Nat) (code : LogCode) (peer : Nat) (data : List Nat) : (logEvent node code peer data s).vault = s.vault := rfl
@[simp] theorem logEvent_mem (s : State) (node : Nat) (code : LogCode) (peer : Nat) (data : List Nat) : (logEvent node code peer data s).mem = s.mem := rfl
@[simp] theorem logEvent_sectors (s : State) (node : Nat) (code : LogCode) (peer : Nat) (data : List Nat) : (logEvent node code peer data s).sectors = s.sectors := rfl
@[simp] theorem logEvent_packets (s : State) (node : Nat) (code : LogCode) (peer : Nat) (data : List Nat) : (logEvent node code peer data s).packets = s.packets := rfl
@[simp] theorem logEvent_messages (s : State) (node : Nat) (code : LogCode) (peer : Nat) (data : List Nat) : (logEvent node code peer data s).messages = s.messages := rfl
@[simp] theorem logEvent_podTokens (s : State) (node : Nat) (code : LogCode) (peer : Nat) (data : List Nat) : (logEvent node code peer data s).podTokens = s.podTokens := rfl
@[simp] theorem logEvent_time (s : State) (node : Nat) (code : LogCode) (peer : Nat) (data : List Nat) : (logEvent node code peer data s).time = s.time := rfl
@[simp] theorem logEvent_period (s : State) (node : Nat) (code : LogCode) (peer : Nat) (data : List Nat) : (logEvent node code peer data s).period = s.period := rfl
@[simp] theorem logEvent_fresh (s : State) (node : Nat) (code : LogCode) (peer : Nat) (data : List Nat) : (logEvent node code peer data s).fresh = s.fresh := rfl
@[simp] theorem logEvent_turn (s : State) (node : Nat) (code : LogCode) (peer : Nat) (data : List Nat) : (logEvent node code peer data s).turn = s.turn := rfl
@[simp] theorem logEvent_turns (s : State) (node : Nat) (code : LogCode) (peer : Nat) (data : List Nat) : (logEvent node code peer data s).turns = s.turns := rfl

/-! ### `hostEvent` -/

@[simp] theorem hostEvent_thr (s : State) (node : Nat) (e : HostEvent) : (hostEvent node e s).thr = s.thr := rfl
@[simp] theorem hostEvent_others (s : State) (node : Nat) (e : HostEvent) : (hostEvent node e s).others = s.others := rfl
@[simp] theorem hostEvent_spans (s : State) (node : Nat) (e : HostEvent) : (hostEvent node e s).spans = s.spans := rfl
@[simp] theorem hostEvent_dies (s : State) (node : Nat) (e : HostEvent) : (hostEvent node e s).dies = s.dies := rfl
@[simp] theorem hostEvent_vault (s : State) (node : Nat) (e : HostEvent) : (hostEvent node e s).vault = s.vault := rfl
@[simp] theorem hostEvent_mem (s : State) (node : Nat) (e : HostEvent) : (hostEvent node e s).mem = s.mem := rfl
@[simp] theorem hostEvent_sectors (s : State) (node : Nat) (e : HostEvent) : (hostEvent node e s).sectors = s.sectors := rfl
@[simp] theorem hostEvent_packets (s : State) (node : Nat) (e : HostEvent) : (hostEvent node e s).packets = s.packets := rfl
@[simp] theorem hostEvent_messages (s : State) (node : Nat) (e : HostEvent) : (hostEvent node e s).messages = s.messages := rfl
@[simp] theorem hostEvent_podTokens (s : State) (node : Nat) (e : HostEvent) : (hostEvent node e s).podTokens = s.podTokens := rfl
@[simp] theorem hostEvent_time (s : State) (node : Nat) (e : HostEvent) : (hostEvent node e s).time = s.time := rfl
@[simp] theorem hostEvent_period (s : State) (node : Nat) (e : HostEvent) : (hostEvent node e s).period = s.period := rfl
@[simp] theorem hostEvent_fresh (s : State) (node : Nat) (e : HostEvent) : (hostEvent node e s).fresh = s.fresh := rfl
@[simp] theorem hostEvent_turn (s : State) (node : Nat) (e : HostEvent) : (hostEvent node e s).turn = s.turn := rfl
@[simp] theorem hostEvent_turns (s : State) (node : Nat) (e : HostEvent) : (hostEvent node e s).turns = s.turns := rfl

/-! ### `beginInval` -/

@[simp] theorem beginInval_pkgs (s : State) (peer : Nat) (who : Place) (v : Word) : (beginInval peer who v s).pkgs = s.pkgs := rfl
@[simp] theorem beginInval_vault (s : State) (peer : Nat) (who : Place) (v : Word) : (beginInval peer who v s).vault = s.vault := rfl
@[simp] theorem beginInval_mem (s : State) (peer : Nat) (who : Place) (v : Word) : (beginInval peer who v s).mem = s.mem := rfl
@[simp] theorem beginInval_sectors (s : State) (peer : Nat) (who : Place) (v : Word) : (beginInval peer who v s).sectors = s.sectors := rfl
@[simp] theorem beginInval_packets (s : State) (peer : Nat) (who : Place) (v : Word) : (beginInval peer who v s).packets = s.packets := rfl
@[simp] theorem beginInval_messages (s : State) (peer : Nat) (who : Place) (v : Word) : (beginInval peer who v s).messages = s.messages := rfl
@[simp] theorem beginInval_podTokens (s : State) (peer : Nat) (who : Place) (v : Word) : (beginInval peer who v s).podTokens = s.podTokens := rfl
@[simp] theorem beginInval_time (s : State) (peer : Nat) (who : Place) (v : Word) : (beginInval peer who v s).time = s.time := rfl
@[simp] theorem beginInval_period (s : State) (peer : Nat) (who : Place) (v : Word) : (beginInval peer who v s).period = s.period := rfl
@[simp] theorem beginInval_fresh (s : State) (peer : Nat) (who : Place) (v : Word) : (beginInval peer who v s).fresh = s.fresh := rfl
@[simp] theorem beginInval_turn (s : State) (peer : Nat) (who : Place) (v : Word) : (beginInval peer who v s).turn = s.turn := rfl
@[simp] theorem beginInval_turns (s : State) (peer : Nat) (who : Place) (v : Word) : (beginInval peer who v s).turns = s.turns := rfl

/-! ### `sendPacket` -/

@[simp] theorem sendPacket_others (s : State) (r : Ref) (n : Nat) (d : Option ElemDest) (c : Cargo) : (sendPacket r n d c s).others = s.others := rfl
@[simp] theorem sendPacket_spans (s : State) (r : Ref) (n : Nat) (d : Option ElemDest) (c : Cargo) : (sendPacket r n d c s).spans = s.spans := rfl
@[simp] theorem sendPacket_dies (s : State) (r : Ref) (n : Nat) (d : Option ElemDest) (c : Cargo) : (sendPacket r n d c s).dies = s.dies := rfl
@[simp] theorem sendPacket_pkgs (s : State) (r : Ref) (n : Nat) (d : Option ElemDest) (c : Cargo) : (sendPacket r n d c s).pkgs = s.pkgs := rfl
@[simp] theorem sendPacket_vault (s : State) (r : Ref) (n : Nat) (d : Option ElemDest) (c : Cargo) : (sendPacket r n d c s).vault = s.vault := rfl
@[simp] theorem sendPacket_mem (s : State) (r : Ref) (n : Nat) (d : Option ElemDest) (c : Cargo) : (sendPacket r n d c s).mem = s.mem := rfl
@[simp] theorem sendPacket_sectors (s : State) (r : Ref) (n : Nat) (d : Option ElemDest) (c : Cargo) : (sendPacket r n d c s).sectors = s.sectors := rfl
@[simp] theorem sendPacket_messages (s : State) (r : Ref) (n : Nat) (d : Option ElemDest) (c : Cargo) : (sendPacket r n d c s).messages = s.messages := rfl
@[simp] theorem sendPacket_podTokens (s : State) (r : Ref) (n : Nat) (d : Option ElemDest) (c : Cargo) : (sendPacket r n d c s).podTokens = s.podTokens := rfl
@[simp] theorem sendPacket_time (s : State) (r : Ref) (n : Nat) (d : Option ElemDest) (c : Cargo) : (sendPacket r n d c s).time = s.time := rfl
@[simp] theorem sendPacket_period (s : State) (r : Ref) (n : Nat) (d : Option ElemDest) (c : Cargo) : (sendPacket r n d c s).period = s.period := rfl
@[simp] theorem sendPacket_turn (s : State) (r : Ref) (n : Nat) (d : Option ElemDest) (c : Cargo) : (sendPacket r n d c s).turn = s.turn := rfl
@[simp] theorem sendPacket_turns (s : State) (r : Ref) (n : Nat) (d : Option ElemDest) (c : Cargo) : (sendPacket r n d c s).turns = s.turns := rfl

/-! ### `addFlags` -/

@[simp] theorem addFlags_place (t : Thread) (fl : BitVec 5) : (addFlags fl t).place = t.place := rfl
@[simp] theorem addFlags_yielded (t : Thread) (fl : BitVec 5) : (addFlags fl t).yielded = t.yielded := rfl
@[simp] theorem addFlags_replies (t : Thread) (fl : BitVec 5) : (addFlags fl t).replies = t.replies := rfl
@[simp] theorem addFlags_acting (t : Thread) (fl : BitVec 5) : (addFlags fl t).acting = t.acting := rfl
@[simp] theorem addFlags_pages (t : Thread) (fl : BitVec 5) : (addFlags fl t).pages = t.pages := rfl
@[simp] theorem addFlags_saving (t : Thread) (fl : BitVec 5) : (addFlags fl t).saving = t.saving := rfl
@[simp] theorem addFlags_host (t : Thread) (fl : BitVec 5) : (addFlags fl t).host = t.host := rfl
@[simp] theorem addFlags_status (t : Thread) (fl : BitVec 5) : (addFlags fl t).status = t.status := rfl
@[simp] theorem addFlags_pc (t : Thread) (fl : BitVec 5) : (addFlags fl t).pc = t.pc := rfl
@[simp] theorem addFlags_sc (t : Thread) (fl : BitVec 5) : (addFlags fl t).sc = t.sc := rfl
@[simp] theorem addFlags_shp (t : Thread) (fl : BitVec 5) : (addFlags fl t).shp = t.shp := rfl
@[simp] theorem addFlags_ce (t : Thread) (fl : BitVec 5) : (addFlags fl t).ce = t.ce := rfl
@[simp] theorem addFlags_k (t : Thread) (fl : BitVec 5) : (addFlags fl t).k = t.k := rfl
@[simp] theorem addFlags_v (t : Thread) (fl : BitVec 5) : (addFlags fl t).v = t.v := rfl
@[simp] theorem addFlags_tq (t : Thread) (fl : BitVec 5) : (addFlags fl t).tq = t.tq := rfl
@[simp] theorem addFlags_tr (t : Thread) (fl : BitVec 5) : (addFlags fl t).tr = t.tr := rfl
@[simp] theorem addFlags_issued (t : Thread) (fl : BitVec 5) : (addFlags fl t).issued = t.issued := rfl
@[simp] theorem addFlags_wait (t : Thread) (fl : BitVec 5) : (addFlags fl t).wait = t.wait := rfl
@[simp] theorem addFlags_loop (t : Thread) (fl : BitVec 5) : (addFlags fl t).loop = t.loop := rfl

/-! ### `setQueue` -/

@[simp] theorem setQueue_place (t : Thread) (q : Nat) (l : List Word) : (setQueue q l t).place = t.place := rfl
@[simp] theorem setQueue_yielded (t : Thread) (q : Nat) (l : List Word) : (setQueue q l t).yielded = t.yielded := rfl
@[simp] theorem setQueue_replies (t : Thread) (q : Nat) (l : List Word) : (setQueue q l t).replies = t.replies := rfl
@[simp] theorem setQueue_acting (t : Thread) (q : Nat) (l : List Word) : (setQueue q l t).acting = t.acting := rfl
@[simp] theorem setQueue_pages (t : Thread) (q : Nat) (l : List Word) : (setQueue q l t).pages = t.pages := rfl
@[simp] theorem setQueue_saving (t : Thread) (q : Nat) (l : List Word) : (setQueue q l t).saving = t.saving := rfl
@[simp] theorem setQueue_host (t : Thread) (q : Nat) (l : List Word) : (setQueue q l t).host = t.host := rfl
@[simp] theorem setQueue_status (t : Thread) (q : Nat) (l : List Word) : (setQueue q l t).status = t.status := rfl
@[simp] theorem setQueue_pc (t : Thread) (q : Nat) (l : List Word) : (setQueue q l t).pc = t.pc := rfl
@[simp] theorem setQueue_shp (t : Thread) (q : Nat) (l : List Word) : (setQueue q l t).shp = t.shp := rfl
@[simp] theorem setQueue_u (t : Thread) (q : Nat) (l : List Word) : (setQueue q l t).u = t.u := rfl
@[simp] theorem setQueue_ce (t : Thread) (q : Nat) (l : List Word) : (setQueue q l t).ce = t.ce := rfl
@[simp] theorem setQueue_k (t : Thread) (q : Nat) (l : List Word) : (setQueue q l t).k = t.k := rfl
@[simp] theorem setQueue_v (t : Thread) (q : Nat) (l : List Word) : (setQueue q l t).v = t.v := rfl
@[simp] theorem setQueue_tq (t : Thread) (q : Nat) (l : List Word) : (setQueue q l t).tq = t.tq := rfl
@[simp] theorem setQueue_tr (t : Thread) (q : Nat) (l : List Word) : (setQueue q l t).tr = t.tr := rfl
@[simp] theorem setQueue_issued (t : Thread) (q : Nat) (l : List Word) : (setQueue q l t).issued = t.issued := rfl
@[simp] theorem setQueue_wait (t : Thread) (q : Nat) (l : List Word) : (setQueue q l t).wait = t.wait := rfl
@[simp] theorem setQueue_loop (t : Thread) (q : Nat) (l : List Word) : (setQueue q l t).loop = t.loop := rfl

/-! ### `setLanded` -/

@[simp] theorem setLanded_place (t : Thread) (b : Bool) (rs : List Nat) : (setLanded b rs t).place = t.place := rfl
@[simp] theorem setLanded_yielded (t : Thread) (b : Bool) (rs : List Nat) : (setLanded b rs t).yielded = t.yielded := rfl
@[simp] theorem setLanded_replies (t : Thread) (b : Bool) (rs : List Nat) : (setLanded b rs t).replies = t.replies := rfl
@[simp] theorem setLanded_acting (t : Thread) (b : Bool) (rs : List Nat) : (setLanded b rs t).acting = t.acting := rfl
@[simp] theorem setLanded_pages (t : Thread) (b : Bool) (rs : List Nat) : (setLanded b rs t).pages = t.pages := rfl
@[simp] theorem setLanded_saving (t : Thread) (b : Bool) (rs : List Nat) : (setLanded b rs t).saving = t.saving := rfl
@[simp] theorem setLanded_host (t : Thread) (b : Bool) (rs : List Nat) : (setLanded b rs t).host = t.host := rfl
@[simp] theorem setLanded_status (t : Thread) (b : Bool) (rs : List Nat) : (setLanded b rs t).status = t.status := rfl
@[simp] theorem setLanded_pc (t : Thread) (b : Bool) (rs : List Nat) : (setLanded b rs t).pc = t.pc := rfl
@[simp] theorem setLanded_sc (t : Thread) (b : Bool) (rs : List Nat) : (setLanded b rs t).sc = t.sc := rfl
@[simp] theorem setLanded_shp (t : Thread) (b : Bool) (rs : List Nat) : (setLanded b rs t).shp = t.shp := rfl
@[simp] theorem setLanded_u (t : Thread) (b : Bool) (rs : List Nat) : (setLanded b rs t).u = t.u := rfl
@[simp] theorem setLanded_ce (t : Thread) (b : Bool) (rs : List Nat) : (setLanded b rs t).ce = t.ce := rfl
@[simp] theorem setLanded_k (t : Thread) (b : Bool) (rs : List Nat) : (setLanded b rs t).k = t.k := rfl
@[simp] theorem setLanded_tq (t : Thread) (b : Bool) (rs : List Nat) : (setLanded b rs t).tq = t.tq := rfl
@[simp] theorem setLanded_tr (t : Thread) (b : Bool) (rs : List Nat) : (setLanded b rs t).tr = t.tr := rfl
@[simp] theorem setLanded_issued (t : Thread) (b : Bool) (rs : List Nat) : (setLanded b rs t).issued = t.issued := rfl
@[simp] theorem setLanded_wait (t : Thread) (b : Bool) (rs : List Nat) : (setLanded b rs t).wait = t.wait := rfl
@[simp] theorem setLanded_loop (t : Thread) (b : Bool) (rs : List Nat) : (setLanded b rs t).loop = t.loop := rfl

/-! ### `dropHead` -/

@[simp] theorem dropHead_place (t : Thread) : (dropHead t).place = t.place := rfl
@[simp] theorem dropHead_yielded (t : Thread) : (dropHead t).yielded = t.yielded := rfl
@[simp] theorem dropHead_replies (t : Thread) : (dropHead t).replies = t.replies := rfl
@[simp] theorem dropHead_acting (t : Thread) : (dropHead t).acting = t.acting := rfl
@[simp] theorem dropHead_pages (t : Thread) : (dropHead t).pages = t.pages := rfl
@[simp] theorem dropHead_saving (t : Thread) : (dropHead t).saving = t.saving := rfl
@[simp] theorem dropHead_host (t : Thread) : (dropHead t).host = t.host := rfl
@[simp] theorem dropHead_status (t : Thread) : (dropHead t).status = t.status := rfl
@[simp] theorem dropHead_pc (t : Thread) : (dropHead t).pc = t.pc := rfl
@[simp] theorem dropHead_sc (t : Thread) : (dropHead t).sc = t.sc := rfl
@[simp] theorem dropHead_shp (t : Thread) : (dropHead t).shp = t.shp := rfl
@[simp] theorem dropHead_u (t : Thread) : (dropHead t).u = t.u := rfl
@[simp] theorem dropHead_ce (t : Thread) : (dropHead t).ce = t.ce := rfl
@[simp] theorem dropHead_k (t : Thread) : (dropHead t).k = t.k := rfl
@[simp] theorem dropHead_tq (t : Thread) : (dropHead t).tq = t.tq := rfl
@[simp] theorem dropHead_tr (t : Thread) : (dropHead t).tr = t.tr := rfl
@[simp] theorem dropHead_issued (t : Thread) : (dropHead t).issued = t.issued := rfl
@[simp] theorem dropHead_loop (t : Thread) : (dropHead t).loop = t.loop := rfl

/-! ### `withHead` -/

@[simp] theorem withHead_place (t : Thread) (f : VEntry → VEntry) : (withHead f t).place = t.place := rfl
@[simp] theorem withHead_yielded (t : Thread) (f : VEntry → VEntry) : (withHead f t).yielded = t.yielded := rfl
@[simp] theorem withHead_replies (t : Thread) (f : VEntry → VEntry) : (withHead f t).replies = t.replies := rfl
@[simp] theorem withHead_acting (t : Thread) (f : VEntry → VEntry) : (withHead f t).acting = t.acting := rfl
@[simp] theorem withHead_pages (t : Thread) (f : VEntry → VEntry) : (withHead f t).pages = t.pages := rfl
@[simp] theorem withHead_saving (t : Thread) (f : VEntry → VEntry) : (withHead f t).saving = t.saving := rfl
@[simp] theorem withHead_host (t : Thread) (f : VEntry → VEntry) : (withHead f t).host = t.host := rfl
@[simp] theorem withHead_status (t : Thread) (f : VEntry → VEntry) : (withHead f t).status = t.status := rfl
@[simp] theorem withHead_pc (t : Thread) (f : VEntry → VEntry) : (withHead f t).pc = t.pc := rfl
@[simp] theorem withHead_sc (t : Thread) (f : VEntry → VEntry) : (withHead f t).sc = t.sc := rfl
@[simp] theorem withHead_shp (t : Thread) (f : VEntry → VEntry) : (withHead f t).shp = t.shp := rfl
@[simp] theorem withHead_u (t : Thread) (f : VEntry → VEntry) : (withHead f t).u = t.u := rfl
@[simp] theorem withHead_ce (t : Thread) (f : VEntry → VEntry) : (withHead f t).ce = t.ce := rfl
@[simp] theorem withHead_k (t : Thread) (f : VEntry → VEntry) : (withHead f t).k = t.k := rfl
@[simp] theorem withHead_tq (t : Thread) (f : VEntry → VEntry) : (withHead f t).tq = t.tq := rfl
@[simp] theorem withHead_tr (t : Thread) (f : VEntry → VEntry) : (withHead f t).tr = t.tr := rfl
@[simp] theorem withHead_issued (t : Thread) (f : VEntry → VEntry) : (withHead f t).issued = t.issued := rfl
@[simp] theorem withHead_wait (t : Thread) (f : VEntry → VEntry) : (withHead f t).wait = t.wait := rfl
@[simp] theorem withHead_loop (t : Thread) (f : VEntry → VEntry) : (withHead f t).loop = t.loop := rfl

/-! ### `setShape` -/

@[simp] theorem setShape_place (t : Thread) (n : Nat) (x : ShapeReg) : (setShape n x t).place = t.place := rfl
@[simp] theorem setShape_yielded (t : Thread) (n : Nat) (x : ShapeReg) : (setShape n x t).yielded = t.yielded := rfl
@[simp] theorem setShape_replies (t : Thread) (n : Nat) (x : ShapeReg) : (setShape n x t).replies = t.replies := rfl
@[simp] theorem setShape_acting (t : Thread) (n : Nat) (x : ShapeReg) : (setShape n x t).acting = t.acting := rfl
@[simp] theorem setShape_pages (t : Thread) (n : Nat) (x : ShapeReg) : (setShape n x t).pages = t.pages := rfl
@[simp] theorem setShape_saving (t : Thread) (n : Nat) (x : ShapeReg) : (setShape n x t).saving = t.saving := rfl
@[simp] theorem setShape_host (t : Thread) (n : Nat) (x : ShapeReg) : (setShape n x t).host = t.host := rfl
@[simp] theorem setShape_status (t : Thread) (n : Nat) (x : ShapeReg) : (setShape n x t).status = t.status := rfl
@[simp] theorem setShape_pc (t : Thread) (n : Nat) (x : ShapeReg) : (setShape n x t).pc = t.pc := rfl
@[simp] theorem setShape_sc (t : Thread) (n : Nat) (x : ShapeReg) : (setShape n x t).sc = t.sc := rfl
@[simp] theorem setShape_u (t : Thread) (n : Nat) (x : ShapeReg) : (setShape n x t).u = t.u := rfl
@[simp] theorem setShape_ce (t : Thread) (n : Nat) (x : ShapeReg) : (setShape n x t).ce = t.ce := rfl
@[simp] theorem setShape_k (t : Thread) (n : Nat) (x : ShapeReg) : (setShape n x t).k = t.k := rfl
@[simp] theorem setShape_v (t : Thread) (n : Nat) (x : ShapeReg) : (setShape n x t).v = t.v := rfl
@[simp] theorem setShape_tq (t : Thread) (n : Nat) (x : ShapeReg) : (setShape n x t).tq = t.tq := rfl
@[simp] theorem setShape_tr (t : Thread) (n : Nat) (x : ShapeReg) : (setShape n x t).tr = t.tr := rfl
@[simp] theorem setShape_issued (t : Thread) (n : Nat) (x : ShapeReg) : (setShape n x t).issued = t.issued := rfl
@[simp] theorem setShape_wait (t : Thread) (n : Nat) (x : ShapeReg) : (setShape n x t).wait = t.wait := rfl
@[simp] theorem setShape_loop (t : Thread) (n : Nat) (x : ShapeReg) : (setShape n x t).loop = t.loop := rfl

/-! ### `clampVl` -/

@[simp] theorem clampVl_place (t : Thread) : (clampVl t).place = t.place := rfl
@[simp] theorem clampVl_yielded (t : Thread) : (clampVl t).yielded = t.yielded := rfl
@[simp] theorem clampVl_replies (t : Thread) : (clampVl t).replies = t.replies := rfl
@[simp] theorem clampVl_acting (t : Thread) : (clampVl t).acting = t.acting := rfl
@[simp] theorem clampVl_pages (t : Thread) : (clampVl t).pages = t.pages := rfl
@[simp] theorem clampVl_saving (t : Thread) : (clampVl t).saving = t.saving := rfl
@[simp] theorem clampVl_host (t : Thread) : (clampVl t).host = t.host := rfl
@[simp] theorem clampVl_status (t : Thread) : (clampVl t).status = t.status := rfl
@[simp] theorem clampVl_pc (t : Thread) : (clampVl t).pc = t.pc := rfl
@[simp] theorem clampVl_sc (t : Thread) : (clampVl t).sc = t.sc := rfl
@[simp] theorem clampVl_shp (t : Thread) : (clampVl t).shp = t.shp := rfl
@[simp] theorem clampVl_ce (t : Thread) : (clampVl t).ce = t.ce := rfl
@[simp] theorem clampVl_k (t : Thread) : (clampVl t).k = t.k := rfl
@[simp] theorem clampVl_v (t : Thread) : (clampVl t).v = t.v := rfl
@[simp] theorem clampVl_tq (t : Thread) : (clampVl t).tq = t.tq := rfl
@[simp] theorem clampVl_tr (t : Thread) : (clampVl t).tr = t.tr := rfl
@[simp] theorem clampVl_issued (t : Thread) : (clampVl t).issued = t.issued := rfl
@[simp] theorem clampVl_wait (t : Thread) : (clampVl t).wait = t.wait := rfl
@[simp] theorem clampVl_loop (t : Thread) : (clampVl t).loop = t.loop := rfl

/-! ### `leaveTrap` -/

@[simp] theorem leaveTrap_place (t : Thread) (es : List VEntry) : (leaveTrap es t).place = t.place := rfl
@[simp] theorem leaveTrap_yielded (t : Thread) (es : List VEntry) : (leaveTrap es t).yielded = t.yielded := rfl
@[simp] theorem leaveTrap_acting (t : Thread) (es : List VEntry) : (leaveTrap es t).acting = t.acting := rfl
@[simp] theorem leaveTrap_saving (t : Thread) (es : List VEntry) : (leaveTrap es t).saving = t.saving := rfl
@[simp] theorem leaveTrap_host (t : Thread) (es : List VEntry) : (leaveTrap es t).host = t.host := rfl
@[simp] theorem leaveTrap_status (t : Thread) (es : List VEntry) : (leaveTrap es t).status = t.status := rfl
@[simp] theorem leaveTrap_sc (t : Thread) (es : List VEntry) : (leaveTrap es t).sc = t.sc := rfl
@[simp] theorem leaveTrap_shp (t : Thread) (es : List VEntry) : (leaveTrap es t).shp = t.shp := rfl
@[simp] theorem leaveTrap_ce (t : Thread) (es : List VEntry) : (leaveTrap es t).ce = t.ce := rfl
@[simp] theorem leaveTrap_tq (t : Thread) (es : List VEntry) : (leaveTrap es t).tq = t.tq := rfl
@[simp] theorem leaveTrap_issued (t : Thread) (es : List VEntry) : (leaveTrap es t).issued = t.issued := rfl
@[simp] theorem leaveTrap_loop (t : Thread) (es : List VEntry) : (leaveTrap es t).loop = t.loop := rfl

/-! ### `enterTrap` -/

@[simp] theorem enterTrap_place (t : Thread) (c : BitVec 8) (v : Word) (n : Nat) (b : Bool) : (enterTrap c v n b t).place = t.place := rfl
@[simp] theorem enterTrap_yielded (t : Thread) (c : BitVec 8) (v : Word) (n : Nat) (b : Bool) : (enterTrap c v n b t).yielded = t.yielded := rfl
@[simp] theorem enterTrap_acting (t : Thread) (c : BitVec 8) (v : Word) (n : Nat) (b : Bool) : (enterTrap c v n b t).acting = t.acting := rfl
@[simp] theorem enterTrap_host (t : Thread) (c : BitVec 8) (v : Word) (n : Nat) (b : Bool) : (enterTrap c v n b t).host = t.host := rfl
@[simp] theorem enterTrap_status (t : Thread) (c : BitVec 8) (v : Word) (n : Nat) (b : Bool) : (enterTrap c v n b t).status = t.status := rfl
@[simp] theorem enterTrap_sc (t : Thread) (c : BitVec 8) (v : Word) (n : Nat) (b : Bool) : (enterTrap c v n b t).sc = t.sc := rfl
@[simp] theorem enterTrap_shp (t : Thread) (c : BitVec 8) (v : Word) (n : Nat) (b : Bool) : (enterTrap c v n b t).shp = t.shp := rfl
@[simp] theorem enterTrap_ce (t : Thread) (c : BitVec 8) (v : Word) (n : Nat) (b : Bool) : (enterTrap c v n b t).ce = t.ce := rfl
@[simp] theorem enterTrap_v (t : Thread) (c : BitVec 8) (v : Word) (n : Nat) (b : Bool) : (enterTrap c v n b t).v = t.v := rfl
@[simp] theorem enterTrap_tq (t : Thread) (c : BitVec 8) (v : Word) (n : Nat) (b : Bool) : (enterTrap c v n b t).tq = t.tq := rfl
@[simp] theorem enterTrap_tr (t : Thread) (c : BitVec 8) (v : Word) (n : Nat) (b : Bool) : (enterTrap c v n b t).tr = t.tr := rfl
@[simp] theorem enterTrap_issued (t : Thread) (c : BitVec 8) (v : Word) (n : Nat) (b : Bool) : (enterTrap c v n b t).issued = t.issued := rfl

/-! ### `setScalar` -/

@[simp] theorem setScalar_place (t : Thread) (r : BitVec 7) (v : Word) : (setScalar r v t).place = t.place := by
  unfold setScalar; split; · rfl
  split <;> rfl
@[simp] theorem setScalar_yielded (t : Thread) (r : BitVec 7) (v : Word) : (setScalar r v t).yielded = t.yielded := by
  unfold setScalar; split; · rfl
  split <;> rfl
@[simp] theorem setScalar_replies (t : Thread) (r : BitVec 7) (v : Word) : (setScalar r v t).replies = t.replies := by
  unfold setScalar; split; · rfl
  split <;> rfl
@[simp] theorem setScalar_acting (t : Thread) (r : BitVec 7) (v : Word) : (setScalar r v t).acting = t.acting := by
  unfold setScalar; split; · rfl
  split <;> rfl
@[simp] theorem setScalar_pages (t : Thread) (r : BitVec 7) (v : Word) : (setScalar r v t).pages = t.pages := by
  unfold setScalar; split; · rfl
  split <;> rfl
@[simp] theorem setScalar_saving (t : Thread) (r : BitVec 7) (v : Word) : (setScalar r v t).saving = t.saving := by
  unfold setScalar; split; · rfl
  split <;> rfl
@[simp] theorem setScalar_host (t : Thread) (r : BitVec 7) (v : Word) : (setScalar r v t).host = t.host := by
  unfold setScalar; split; · rfl
  split <;> rfl
@[simp] theorem setScalar_status (t : Thread) (r : BitVec 7) (v : Word) : (setScalar r v t).status = t.status := by
  unfold setScalar; split; · rfl
  split <;> rfl
@[simp] theorem setScalar_pc (t : Thread) (r : BitVec 7) (v : Word) : (setScalar r v t).pc = t.pc := by
  unfold setScalar; split; · rfl
  split <;> rfl
@[simp] theorem setScalar_shp (t : Thread) (r : BitVec 7) (v : Word) : (setScalar r v t).shp = t.shp := by
  unfold setScalar; split; · rfl
  split <;> rfl
@[simp] theorem setScalar_u (t : Thread) (r : BitVec 7) (v : Word) : (setScalar r v t).u = t.u := by
  unfold setScalar; split; · rfl
  split <;> rfl
@[simp] theorem setScalar_ce (t : Thread) (r : BitVec 7) (v : Word) : (setScalar r v t).ce = t.ce := by
  unfold setScalar; split; · rfl
  split <;> rfl
@[simp] theorem setScalar_k (t : Thread) (r : BitVec 7) (v : Word) : (setScalar r v t).k = t.k := by
  unfold setScalar; split; · rfl
  split <;> rfl
@[simp] theorem setScalar_v (t : Thread) (r : BitVec 7) (v : Word) : (setScalar r v t).v = t.v := by
  unfold setScalar; split; · rfl
  split <;> rfl
@[simp] theorem setScalar_tq (t : Thread) (r : BitVec 7) (v : Word) : (setScalar r v t).tq = t.tq := by
  unfold setScalar; split; · rfl
  split <;> rfl
@[simp] theorem setScalar_tr (t : Thread) (r : BitVec 7) (v : Word) : (setScalar r v t).tr = t.tr := by
  unfold setScalar; split; · rfl
  split <;> rfl
@[simp] theorem setScalar_issued (t : Thread) (r : BitVec 7) (v : Word) : (setScalar r v t).issued = t.issued := by
  unfold setScalar; split; · rfl
  split <;> rfl
@[simp] theorem setScalar_wait (t : Thread) (r : BitVec 7) (v : Word) : (setScalar r v t).wait = t.wait := by
  unfold setScalar; split; · rfl
  split <;> rfl
@[simp] theorem setScalar_loop (t : Thread) (r : BitVec 7) (v : Word) : (setScalar r v t).loop = t.loop := by
  unfold setScalar; split; · rfl
  split <;> rfl

/-! ### `retire` -/

@[simp] theorem retire_place (t : Thread) : (retire t).place = t.place := by
  unfold retire retireBody; split; · rfl
  simp only; split; · rfl
  split <;> rfl
@[simp] theorem retire_yielded (t : Thread) : (retire t).yielded = t.yielded := by
  unfold retire retireBody; split; · rfl
  simp only; split; · rfl
  split <;> rfl
@[simp] theorem retire_replies (t : Thread) : (retire t).replies = [] := by
  unfold retire; split <;> rfl
@[simp] theorem retire_acting (t : Thread) : (retire t).acting = t.acting := by
  unfold retire retireBody; split; · rfl
  simp only; split; · rfl
  split <;> rfl
@[simp] theorem retire_saving (t : Thread) : (retire t).saving = t.saving := by
  unfold retire retireBody; split; · rfl
  simp only; split; · rfl
  split <;> rfl
@[simp] theorem retire_host (t : Thread) : (retire t).host = t.host := by
  unfold retire retireBody; split; · rfl
  simp only; split; · rfl
  split <;> rfl
@[simp] theorem retire_status (t : Thread) : (retire t).status = t.status := by
  unfold retire retireBody; split; · rfl
  simp only; split; · rfl
  split <;> rfl
@[simp] theorem retire_sc (t : Thread) : (retire t).sc = t.sc := by
  unfold retire retireBody; split; · rfl
  simp only; split; · rfl
  split <;> rfl
@[simp] theorem retire_shp (t : Thread) : (retire t).shp = t.shp := by
  unfold retire retireBody; split; · rfl
  simp only; split; · rfl
  split <;> rfl
@[simp] theorem retire_ce (t : Thread) : (retire t).ce = t.ce := by
  unfold retire retireBody; split; · rfl
  simp only; split; · rfl
  split <;> rfl
@[simp] theorem retire_k (t : Thread) : (retire t).k = t.k := by
  unfold retire retireBody; split; · rfl
  simp only; split; · rfl
  split <;> rfl
@[simp] theorem retire_v (t : Thread) : (retire t).v = t.v := by
  unfold retire retireBody; split; · rfl
  simp only; split; · rfl
  split <;> rfl
@[simp] theorem retire_tq (t : Thread) : (retire t).tq = t.tq := by
  unfold retire retireBody; split; · rfl
  simp only; split; · rfl
  split <;> rfl
@[simp] theorem retire_tr (t : Thread) : (retire t).tr = t.tr := by
  unfold retire retireBody; split; · rfl
  simp only; split; · rfl
  split <;> rfl
@[simp] theorem retire_issued (t : Thread) : (retire t).issued = t.issued := by
  unfold retire retireBody; split; · rfl
  simp only; split; · rfl
  split <;> rfl
@[simp] theorem retire_wait (t : Thread) : (retire t).wait = none := by
  unfold retire; split <;> rfl

/-- An instruction that completes leaves the ids of its thread. -/
@[simp] theorem retire_ids (t : Thread) : ((retire t).u.lid, (retire t).u.tid) = (t.u.lid, t.u.tid) := by
  unfold retire retireBody; split; · rfl
  simp only; split; · rfl
  split <;> rfl

/-- Outside a loop an instruction that completes goes on at the next word. -/
theorem retire_next {t : Thread} (h : t.loop = none) : retire t = { t with pc := t.pc + 4, wait := none, replies := [], pages := [] } := by
  unfold retire; simp only [h]

/-! ### the registers that `addFlags` and `enterTrap` write -/

@[simp] theorem addFlags_fflags (t : Thread) (fl : BitVec 5) : (addFlags fl t).u.fflags = t.u.fflags ||| fl := rfl
@[simp] theorem enterTrap_pc (t : Thread) (c : BitVec 8) (v : Word) (n : Nat) (b : Bool) :
    (enterTrap c v n b t).pc = trapEntry t := rfl
@[simp] theorem enterTrap_kepc (t : Thread) (c : BitVec 8) (v : Word) (n : Nat) (b : Bool) :
    (enterTrap c v n b t).k.kepc = t.pc := rfl
@[simp] theorem enterTrap_kcause (t : Thread) (c : BitVec 8) (v : Word) (n : Nat) (b : Bool) :
    (enterTrap c v n b t).k.kcause = c := rfl
@[simp] theorem enterTrap_kval (t : Thread) (c : BitVec 8) (v : Word) (n : Nat) (b : Bool) :
    (enterTrap c v n b t).k.kval = v := rfl
@[simp] theorem enterTrap_km (t : Thread) (c : BitVec 8) (v : Word) (n : Nat) (b : Bool) :
    (enterTrap c v n b t).k.km = true := rfl

/-! ### records by number -/

@[simp] theorem dieOf_setDie_same (s : State) (p : Nat) (x : Die) : dieOf (setDie s p x) p = x := by
  simp [dieOf, setDie, nget_nset_same]

theorem dieOf_setDie_other (s : State) (p p' : Nat) (x : Die) (h : p' ≠ p) : dieOf (setDie s p x) p' = dieOf s p' := by
  simp [dieOf, setDie, nget_nset_other _ _ _ _ h]

@[simp] theorem dieOf_modDie_same (s : State) (p : Nat) (f : Die → Die) : dieOf (modDie p f s) p = f (dieOf s p) := by
  simp [modDie]

theorem dieOf_modDie_other (s : State) (p p' : Nat) (f : Die → Die) (h : p' ≠ p) : dieOf (modDie p f s) p' = dieOf s p' := by
  simp [modDie, dieOf_setDie_other _ _ _ _ h]

@[simp] theorem pkgOf_setPkg_same (s : State) (p : Nat) (x : Pkg) : pkgOf (setPkg s p x) p = x := by
  simp [pkgOf, setPkg, nget_nset_same]

theorem pkgOf_setPkg_other (s : State) (p p' : Nat) (x : Pkg) (h : p' ≠ p) : pkgOf (setPkg s p x) p' = pkgOf s p' := by
  simp [pkgOf, setPkg, nget_nset_other _ _ _ _ h]

@[simp] theorem pkgOf_modPkg_same (s : State) (p : Nat) (f : Pkg → Pkg) : pkgOf (modPkg p f s) p = f (pkgOf s p) := by
  simp [modPkg]

theorem pkgOf_modPkg_other (s : State) (p p' : Nat) (f : Pkg → Pkg) (h : p' ≠ p) : pkgOf (modPkg p f s) p' = pkgOf s p' := by
  simp [modPkg, pkgOf_setPkg_other _ _ _ _ h]

end Sys2Proof.Machine
end

