-- ==== Sys2Proof/Laws/Ops.lean ====
section
/-! SUPPORT. How meanings run: the steps of the monad, how a meaning ends, the checks before a word, the scalar operands,
and what the shared forms of scalar-side words do. -/

set_option Elab.async false

namespace Sys2Proof.Machine

open Host (Outcome)

/-! ## Steps of a meaning -/

@[simp] theorem run_pure {α : Type} (a : α) (s : State) : (pure a : Op α) s = .ok a s := rfl

@[simp] theorem run_bind {α β : Type} (m : Op α) (f : α → Op β) (s : State) :
    (m >>= f) s = match m s with
      | .ok a t => f a t
      | .error e t => .error e t := by
  simp only [bind, EStateM.bind]
  cases m s <;> rfl

@[simp] theorem run_map {α β : Type} (g : α → β) (m : Op α) (s : State) :
    (g <$> m) s = match m s with
      | .ok a t => .ok (g a) t
      | .error e t => .error e t := by
  simp only [Functor.map, EStateM.map]
  cases m s <;> rfl

@[simp] theorem run_read {α : Type} (f : State → α) (s : State) : (read f : Op α) s = .ok (f s) s := rfl
@[simp] theorem run_update (f : State → State) (s : State) : (update f : Op Unit) s = .ok () (f s) := rfl
@[simp] theorem run_modThr (f : Thread → Thread) (s : State) :
    (modThr f : Op Unit) s = .ok () { s with thr := f s.thr } := rfl
@[simp] theorem run_raise {α : Type} (e : Stop) (s : State) : (raise e : Op α) s = .error e s := rfl
@[simp] theorem run_get (s : State) : (get : Op State) s = .ok s s := rfl

@[simp] theorem run_trapC {α : Type} (c : Cause) (v : Word) (s : State) :
    (trapC c v : Op α) s = .error (.trap (causeCode c) v) s := rfl

theorem run_require {p : Prop} [Decidable p] (h : p) (e : Stop) (s : State) : (require p e : Op Unit) s = .ok () s := by
  simp [require, h]

theorem run_require_not {p : Prop} [Decidable p] (h : ¬ p) (e : Stop) (s : State) : (require p e : Op Unit) s = .error e s := by
  simp [require, h]

@[simp] theorem run_orStop_some {α : Type} (a : α) (e : Stop) (s : State) : (orStop (some a) e : Op α) s = .ok a s := rfl
@[simp] theorem run_orStop_none {α : Type} (e : Stop) (s : State) : (orStop none e : Op α) s = .error e s := rfl

@[simp] theorem run_forEach_nil {α : Type} (f : α → Op Unit) (s : State) : (forEach [] f) s = .ok () s := rfl

theorem run_forEach_cons {α : Type} (x : α) (xs : List α) (f : α → Op Unit) (s : State) :
    (forEach (x :: xs) f) s = match f x s with
      | .ok _ t => forEach xs f t
      | .error e t => .error e t := by
  rw [forEach, run_bind]
  cases f x s <;> rfl

/-! ## How a meaning ends -/

theorem finish_ok {m : Op Unit} {s t : State} {u : Unit} (h : m s = .ok u t) : finish m s = .next t := by
  unfold finish; rw [h]

theorem finish_trap {m : Op Unit} {s t : State} {c : BitVec 8} {v : Word} (h : m s = .error (.trap c v) t) :
    finish m s = .next (takeTrap false c v s) := by
  unfold finish; rw [h]

theorem finish_trapKeep {m : Op Unit} {s t : State} {c : BitVec 8} {v : Word} (h : m s = .error (.trapKeep c v) t) :
    finish m s = .next (takeTrap false c v t) := by
  unfold finish; rw [h]

theorem finish_wait {m : Op Unit} {s t : State} {w : Wait} (h : m s = .error (.wait w) t) : finish m s = .next (park w s) := by
  unfold finish; rw [h]

theorem finish_fatal {m : Op Unit} {s t : State} {c : FatalCause} {a : Nat} (h : m s = .error (.fatal c a) t) :
    finish m s = .next (fatalHere c a t) := by
  unfold finish; rw [h]

/-- A meaning that never finds its step impossible goes on. -/
theorem finish_goes {m : Op Unit} {s : State} (h : ∀ t, m s ≠ .error .absent t) : ∃ t, finish m s = .next t := by
  unfold finish
  split
  · exact ⟨_, rfl⟩
  · exact ⟨_, rfl⟩
  · exact ⟨_, rfl⟩
  · exact ⟨_, rfl⟩
  · exact ⟨_, rfl⟩
  · exact ⟨_, rfl⟩
  · exact ⟨_, rfl⟩
  · exact ⟨_, rfl⟩
  · rename_i h'; exact absurd h' (h _)

/-! ## Meanings that never find their step impossible -/

/-- The operation never ends in `absent`. -/
def Present {α : Type} (m : Op α) : Prop := ∀ s t, m s ≠ .error .absent t

theorem Present.finish {m : Op Unit} (h : Present m) (s : State) : ∃ t, Machine.finish m s = .next t := finish_goes (h s)

theorem present_pure {α : Type} (a : α) : Present (pure a : Op α) := fun _ _ h => nomatch h
theorem present_read {α : Type} (f : State → α) : Present (read f : Op α) := fun _ _ h => nomatch h
theorem present_update (f : State → State) : Present (update f : Op Unit) := fun _ _ h => nomatch h
theorem present_modThr (f : Thread → Thread) : Present (modThr f : Op Unit) := fun _ _ h => nomatch h
theorem present_get : Present (get : Op State) := fun _ _ h => nomatch h

theorem present_raise {α : Type} {e : Stop} (h : e ≠ .absent) : Present (raise e : Op α) := by
  intro s t ht
  rw [run_raise] at ht
  cases ht
  exact h rfl

theorem present_trapC {α : Type} (c : Cause) (v : Word) : Present (trapC c v : Op α) := fun _ _ h => nomatch h

theorem present_bind {α β : Type} {m : Op α} {f : α → Op β} (hm : Present m) (hf : ∀ a, Present (f a)) :
    Present (m >>= f) := by
  intro s t h
  rw [run_bind] at h
  split at h
  · exact hf _ _ _ h
  · rename_i e u he
    cases h
    exact hm _ _ he

theorem present_require {p : Prop} [Decidable p] {e : Stop} (h : e ≠ .absent) : Present (require p e : Op Unit) := by
  unfold require
  split
  · exact present_pure _
  · exact present_raise h

theorem present_orStop {α : Type} (o : Option α) {e : Stop} (h : e ≠ .absent) : Present (orStop o e : Op α) := by
  cases o with
  | none => exact present_raise h
  | some a => exact present_pure a

theorem present_ite {α : Type} {p : Prop} [Decidable p] {m n : Op α} (hm : Present m) (hn : Present n) :
    Present (if p then m else n) := by
  split <;> assumption

theorem present_forEach {α : Type} (l : List α) (f : α → Op Unit) (h : ∀ a, Present (f a)) : Present (forEach l f) := by
  induction l with
  | nil => exact present_pure _
  | cons a l ih => exact present_bind (h a) fun _ => ih

/-! ## The checks before a word (R47) -/

/-- A word that its agent executes passes where its privilege, mode and operand fields do. -/
theorem checkWord_ok {i : Instr} {p l o : Bool} {s : State} (hh : s.thr.host = false ∨ hostExecutes i = true) (hp : p = false ∨ s.thr.k.km = true)
    (hl : l = false ∨ s.thr.v.long.isSome = true) (ho : o = true) : checkWord i p l o s = .ok () s := by
  subst ho
  unfold checkWord
  simp only [run_bind, run_read]
  rw [run_require (by rcases hh with h | h <;> simp [h])]
  simp only
  rw [run_require (by rcases hp with h | h <;> simp [h])]
  simp only
  rw [run_require (by rcases hl with h | h <;> simp [h])]
  simp only
  simp [require]

/-- A privileged word in user mode is *privilege* (R47 step 2). -/
theorem checkWord_user {i : Instr} {l o : Bool} {s : State} (hh : s.thr.host = false) (hk : s.thr.k.km = false) :
    checkWord i true l o s = .error (.trap (causeCode .privilege) (wordVal i)) s := by
  unfold checkWord
  simp only [run_bind, run_read]
  rw [run_require (by simp [hh])]
  simp only
  rw [run_require_not (by simp [hk])]

/-- A word of long mode in short mode is *mode* (R47 step 3). -/
theorem checkWord_short {i : Instr} {o : Bool} {s : State} (hh : s.thr.host = false) (hl : s.thr.v.long.isSome = false) :
    checkWord i false true o s = .error (.trap (causeCode .mode) (wordVal i)) s := by
  unfold checkWord
  simp only [run_bind, run_read]
  rw [run_require (by simp [hh])]
  simp only
  rw [run_require (by simp)]
  simp only
  rw [run_require_not (by simp [hl])]

/-- An operand field out of range is *illegal operand* (R47 step 4). -/
theorem checkWord_operands {i : Instr} {s : State} (hh : s.thr.host = false) :
    checkWord i false false false s = .error (.trap (causeCode .illegalOperand) (wordVal i)) s := by
  unfold checkWord
  simp only [run_bind, run_read]
  rw [run_require (by simp [hh])]
  simp only
  rw [run_require (by simp)]
  simp only
  rw [run_require (by simp)]
  simp only
  rw [run_require_not (by simp)]

/-! ## Scalar operands (R41, R42, R105, R114) -/

theorem readS_reg {f : BitVec 7} (h : f.toNat < 120) (s : State) : readS f s = .ok (scalar s.thr f) s := by
  simp [readS, h]

theorem readS_queue {f : BitVec 7} (h : ¬ f.toNat < 120) (s : State) {v : Word} {rest : List Word}
    (hq : queueAt s.thr (queueOf f) = v :: rest) :
    readS f s = .ok v { s with thr := setQueue (queueOf f) rest s.thr } := by
  simp [readS, h, hq]

theorem readS_empty {f : BitVec 7} (h : ¬ f.toNat < 120) (s : State) (hq : queueAt s.thr (queueOf f) = []) :
    readS f s = .error (.wait (.popEmpty (queueOf f) 0)) s := by
  simp [readS, h, hq]

theorem writeS_reg {f : BitVec 7} (h : f.toNat < 120) (v : Word) (s : State) :
    writeS f v s = .ok () { s with thr := setScalar f v s.thr } := by
  simp [writeS, h]

theorem writeS_queue {f : BitVec 7} (h : ¬ f.toNat < 120) (v : Word) (s : State)
    (hq : (queueAt s.thr (queueOf f)).length < 16) :
    writeS f v s = .ok () { s with thr := setQueue (queueOf f) (queueAt s.thr (queueOf f) ++ [v]) s.thr } := by
  simp [writeS, h, require, hq]

theorem writeS_full {f : BitVec 7} (h : ¬ f.toNat < 120) (v : Word) (s : State)
    (hq : ¬ (queueAt s.thr (queueOf f)).length < 16) :
    writeS f v s = .error (.wait (.pushFull (queueOf f))) s := by
  simp [writeS, h, require, hq]

/-- A read of a source changes at most one queue. -/
theorem readS_cases {f : BitVec 7} {s t : State} {v : Word} (h : readS f s = .ok v t) :
    (f.toNat < 120 ∧ v = scalar s.thr f ∧ t = s) ∨
    (¬ f.toNat < 120 ∧ ∃ rest, queueAt s.thr (queueOf f) = v :: rest ∧
      t = { s with thr := setQueue (queueOf f) rest s.thr }) := by
  by_cases hf : f.toNat < 120
  · rw [readS_reg hf] at h; cases h; exact .inl ⟨hf, rfl, rfl⟩
  · cases hq : queueAt s.thr (queueOf f) with
    | nil => rw [readS_empty hf _ hq] at h; cases h
    | cons x rest => rw [readS_queue hf _ hq] at h; cases h; exact .inr ⟨hf, rest, rfl, rfl⟩

/-- A write of a destination changes one register or one queue. -/
theorem writeS_cases {f : BitVec 7} {v : Word} {s t : State} {u : Unit} (h : writeS f v s = .ok u t) :
    (f.toNat < 120 ∧ t = { s with thr := setScalar f v s.thr }) ∨
    (¬ f.toNat < 120 ∧ (queueAt s.thr (queueOf f)).length < 16 ∧
      t = { s with thr := setQueue (queueOf f) (queueAt s.thr (queueOf f) ++ [v]) s.thr }) := by
  by_cases hf : f.toNat < 120
  · rw [writeS_reg hf] at h; cases h; exact .inl ⟨hf, rfl⟩
  · by_cases hq : (queueAt s.thr (queueOf f)).length < 16
    · rw [writeS_queue hf _ _ hq] at h; cases h; exact .inr ⟨hf, hq, rfl⟩
    · rw [writeS_full hf _ _ hq] at h; cases h

theorem present_readS (f : BitVec 7) : Present (readS f) := by
  intro s t h
  by_cases hf : f.toNat < 120
  · rw [readS_reg hf] at h; cases h
  · cases hq : queueAt s.thr (queueOf f) with
    | nil => rw [readS_empty hf _ hq] at h; cases h
    | cons x rest => rw [readS_queue hf _ hq] at h; cases h

theorem present_writeS (f : BitVec 7) (v : Word) : Present (writeS f v) := by
  intro s t h
  by_cases hf : f.toNat < 120
  · rw [writeS_reg hf] at h; cases h
  · by_cases hq : (queueAt s.thr (queueOf f)).length < 16
    · rw [writeS_queue hf _ _ hq] at h; cases h
    · rw [writeS_full hf _ _ hq] at h; cases h

theorem present_checkWord (i : Instr) (p l o : Bool) : Present (checkWord i p l o) := by
  unfold checkWord
  refine present_bind (present_read _) fun _ => ?_
  refine present_bind (present_require nofun) fun _ => ?_
  refine present_bind (present_require nofun) fun _ => ?_
  exact present_bind (present_require nofun) fun _ => present_require nofun

/-! ## The shared forms of scalar-side words -/

/-- A scalar-side word whose checks pass and whose effect completes goes on at the next word. -/
theorem scalarOp_ok {i : Instr} {o : Bool} {body : Op Unit} {s t : State} {u : Unit} (hh : s.thr.host = false ∨ hostExecutes i = true) (ho : o = true)
    (hb : body s = .ok u t) : scalarOp i o body s = .next { t with thr := retire t.thr } := by
  unfold scalarOp
  apply finish_ok
  rw [run_bind, checkWord_ok hh (.inl rfl) (.inl rfl) ho]
  simp only [run_bind, hb]
  rfl

theorem scalarOp_goes {i : Instr} {o : Bool} {body : Op Unit} (hb : Present body) (s : State) :
    ∃ t, scalarOp i o body s = .next t :=
  Present.finish (present_bind (present_checkWord _ _ _ _) fun _ => present_bind hb fun _ => present_modThr _) s

/-- Two operands read, one result written. -/
theorem binaryOp_ok {i : Instr} {rd ra rb : BitVec 7} {f : Word → Word → Word} {s s1 s2 s3 : State} {a b : Word} {u : Unit}
    (hh : s.thr.host = false ∨ hostExecutes i = true) (hf : (dstS rd && srcS ra && srcS rb) = true) (ha : readS ra s = .ok a s1)
    (hb : readS rb s1 = .ok b s2) (hw : writeS rd (f a b) s2 = .ok u s3) :
    binaryOp i rd ra rb f s = .next { s3 with thr := retire s3.thr } := by
  apply scalarOp_ok hh hf (u := u)
  simp only [run_bind, ha, hb, hw]

/-- One operand read, one result written. -/
theorem unaryOp_ok {i : Instr} {rd ra : BitVec 7} {f : Word → Word} {s s1 s2 : State} {a : Word} {u : Unit}
    (hh : s.thr.host = false ∨ hostExecutes i = true) (hf : (dstS rd && srcS ra) = true) (ha : readS ra s = .ok a s1)
    (hw : writeS rd (f a) s1 = .ok u s2) :
    unaryOp i rd ra f s = .next { s2 with thr := retire s2.thr } := by
  apply scalarOp_ok hh hf (u := u)
  simp only [run_bind, ha, hw]

end Sys2Proof.Machine
end

