-- ==== Sys2Proof/Laws/PerInstr.lean ====
section
/-! SUPPORT. For every instruction: decoding its word gives it back (R39, R49 to R56). The part's own steps have no word. -/

set_option Elab.async false

set_option linter.unusedSimpArgs false

namespace Sys2Proof.Laws.RoundTrip

/-- The word of a well-formed instruction decodes to that instruction. -/
def Statement (i : Instr) : Prop := i.wellFormed = true → decode (encode i) = .ok i

theorem add : ∀ rd ra rb, Statement (.add rd ra rb) := by
  intro rd ra rb h
  change decode (fmtR 0x01#6 rd ra rb 0#5) = _
  rw [decode_01 _ (fmtR_Major ..)]
  simp only [decodeAlu, fmtR_Rd, fmtR_Ra, fmtR_Rb, fmtR_Fn]; rfl
theorem sub : ∀ rd ra rb, Statement (.sub rd ra rb) := by
  intro rd ra rb h
  change decode (fmtR 0x01#6 rd ra rb 1#5) = _
  rw [decode_01 _ (fmtR_Major ..)]
  simp only [decodeAlu, fmtR_Rd, fmtR_Ra, fmtR_Rb, fmtR_Fn]; rfl
theorem and : ∀ rd ra rb, Statement (.and rd ra rb) := by
  intro rd ra rb h
  change decode (fmtR 0x01#6 rd ra rb 2#5) = _
  rw [decode_01 _ (fmtR_Major ..)]
  simp only [decodeAlu, fmtR_Rd, fmtR_Ra, fmtR_Rb, fmtR_Fn]; rfl
theorem or : ∀ rd ra rb, Statement (.or rd ra rb) := by
  intro rd ra rb h
  change decode (fmtR 0x01#6 rd ra rb 3#5) = _
  rw [decode_01 _ (fmtR_Major ..)]
  simp only [decodeAlu, fmtR_Rd, fmtR_Ra, fmtR_Rb, fmtR_Fn]; rfl
theorem xor : ∀ rd ra rb, Statement (.xor rd ra rb) := by
  intro rd ra rb h
  change decode (fmtR 0x01#6 rd ra rb 4#5) = _
  rw [decode_01 _ (fmtR_Major ..)]
  simp only [decodeAlu, fmtR_Rd, fmtR_Ra, fmtR_Rb, fmtR_Fn]; rfl
theorem andn : ∀ rd ra rb, Statement (.andn rd ra rb) := by
  intro rd ra rb h
  change decode (fmtR 0x01#6 rd ra rb 5#5) = _
  rw [decode_01 _ (fmtR_Major ..)]
  simp only [decodeAlu, fmtR_Rd, fmtR_Ra, fmtR_Rb, fmtR_Fn]; rfl
theorem orn : ∀ rd ra rb, Statement (.orn rd ra rb) := by
  intro rd ra rb h
  change decode (fmtR 0x01#6 rd ra rb 6#5) = _
  rw [decode_01 _ (fmtR_Major ..)]
  simp only [decodeAlu, fmtR_Rd, fmtR_Ra, fmtR_Rb, fmtR_Fn]; rfl
theorem sll : ∀ rd ra rb, Statement (.sll rd ra rb) := by
  intro rd ra rb h
  change decode (fmtR 0x01#6 rd ra rb 7#5) = _
  rw [decode_01 _ (fmtR_Major ..)]
  simp only [decodeAlu, fmtR_Rd, fmtR_Ra, fmtR_Rb, fmtR_Fn]; rfl
theorem srl : ∀ rd ra rb, Statement (.srl rd ra rb) := by
  intro rd ra rb h
  change decode (fmtR 0x01#6 rd ra rb 8#5) = _
  rw [decode_01 _ (fmtR_Major ..)]
  simp only [decodeAlu, fmtR_Rd, fmtR_Ra, fmtR_Rb, fmtR_Fn]; rfl
theorem sra : ∀ rd ra rb, Statement (.sra rd ra rb) := by
  intro rd ra rb h
  change decode (fmtR 0x01#6 rd ra rb 9#5) = _
  rw [decode_01 _ (fmtR_Major ..)]
  simp only [decodeAlu, fmtR_Rd, fmtR_Ra, fmtR_Rb, fmtR_Fn]; rfl
theorem rol : ∀ rd ra rb, Statement (.rol rd ra rb) := by
  intro rd ra rb h
  change decode (fmtR 0x01#6 rd ra rb 10#5) = _
  rw [decode_01 _ (fmtR_Major ..)]
  simp only [decodeAlu, fmtR_Rd, fmtR_Ra, fmtR_Rb, fmtR_Fn]; rfl
theorem ror : ∀ rd ra rb, Statement (.ror rd ra rb) := by
  intro rd ra rb h
  change decode (fmtR 0x01#6 rd ra rb 11#5) = _
  rw [decode_01 _ (fmtR_Major ..)]
  simp only [decodeAlu, fmtR_Rd, fmtR_Ra, fmtR_Rb, fmtR_Fn]; rfl
theorem slt : ∀ rd ra rb, Statement (.slt rd ra rb) := by
  intro rd ra rb h
  change decode (fmtR 0x01#6 rd ra rb 12#5) = _
  rw [decode_01 _ (fmtR_Major ..)]
  simp only [decodeAlu, fmtR_Rd, fmtR_Ra, fmtR_Rb, fmtR_Fn]; rfl
theorem sltu : ∀ rd ra rb, Statement (.sltu rd ra rb) := by
  intro rd ra rb h
  change decode (fmtR 0x01#6 rd ra rb 13#5) = _
  rw [decode_01 _ (fmtR_Major ..)]
  simp only [decodeAlu, fmtR_Rd, fmtR_Ra, fmtR_Rb, fmtR_Fn]; rfl
theorem min : ∀ rd ra rb, Statement (.min rd ra rb) := by
  intro rd ra rb h
  change decode (fmtR 0x01#6 rd ra rb 14#5) = _
  rw [decode_01 _ (fmtR_Major ..)]
  simp only [decodeAlu, fmtR_Rd, fmtR_Ra, fmtR_Rb, fmtR_Fn]; rfl
theorem max : ∀ rd ra rb, Statement (.max rd ra rb) := by
  intro rd ra rb h
  change decode (fmtR 0x01#6 rd ra rb 15#5) = _
  rw [decode_01 _ (fmtR_Major ..)]
  simp only [decodeAlu, fmtR_Rd, fmtR_Ra, fmtR_Rb, fmtR_Fn]; rfl
theorem minu : ∀ rd ra rb, Statement (.minu rd ra rb) := by
  intro rd ra rb h
  change decode (fmtR 0x01#6 rd ra rb 16#5) = _
  rw [decode_01 _ (fmtR_Major ..)]
  simp only [decodeAlu, fmtR_Rd, fmtR_Ra, fmtR_Rb, fmtR_Fn]; rfl
theorem maxu : ∀ rd ra rb, Statement (.maxu rd ra rb) := by
  intro rd ra rb h
  change decode (fmtR 0x01#6 rd ra rb 17#5) = _
  rw [decode_01 _ (fmtR_Major ..)]
  simp only [decodeAlu, fmtR_Rd, fmtR_Ra, fmtR_Rb, fmtR_Fn]; rfl
theorem mul : ∀ rd ra rb, Statement (.mul rd ra rb) := by
  intro rd ra rb h
  change decode (fmtR 0x01#6 rd ra rb 18#5) = _
  rw [decode_01 _ (fmtR_Major ..)]
  simp only [decodeAlu, fmtR_Rd, fmtR_Ra, fmtR_Rb, fmtR_Fn]; rfl
theorem mulh : ∀ rd ra rb, Statement (.mulh rd ra rb) := by
  intro rd ra rb h
  change decode (fmtR 0x01#6 rd ra rb 19#5) = _
  rw [decode_01 _ (fmtR_Major ..)]
  simp only [decodeAlu, fmtR_Rd, fmtR_Ra, fmtR_Rb, fmtR_Fn]; rfl
theorem mulhu : ∀ rd ra rb, Statement (.mulhu rd ra rb) := by
  intro rd ra rb h
  change decode (fmtR 0x01#6 rd ra rb 20#5) = _
  rw [decode_01 _ (fmtR_Major ..)]
  simp only [decodeAlu, fmtR_Rd, fmtR_Ra, fmtR_Rb, fmtR_Fn]; rfl
theorem div : ∀ rd ra rb, Statement (.div rd ra rb) := by
  intro rd ra rb h
  change decode (fmtR 0x01#6 rd ra rb 21#5) = _
  rw [decode_01 _ (fmtR_Major ..)]
  simp only [decodeAlu, fmtR_Rd, fmtR_Ra, fmtR_Rb, fmtR_Fn]; rfl
theorem divu : ∀ rd ra rb, Statement (.divu rd ra rb) := by
  intro rd ra rb h
  change decode (fmtR 0x01#6 rd ra rb 22#5) = _
  rw [decode_01 _ (fmtR_Major ..)]
  simp only [decodeAlu, fmtR_Rd, fmtR_Ra, fmtR_Rb, fmtR_Fn]; rfl
theorem rem : ∀ rd ra rb, Statement (.rem rd ra rb) := by
  intro rd ra rb h
  change decode (fmtR 0x01#6 rd ra rb 23#5) = _
  rw [decode_01 _ (fmtR_Major ..)]
  simp only [decodeAlu, fmtR_Rd, fmtR_Ra, fmtR_Rb, fmtR_Fn]; rfl
theorem remu : ∀ rd ra rb, Statement (.remu rd ra rb) := by
  intro rd ra rb h
  change decode (fmtR 0x01#6 rd ra rb 24#5) = _
  rw [decode_01 _ (fmtR_Major ..)]
  simp only [decodeAlu, fmtR_Rd, fmtR_Ra, fmtR_Rb, fmtR_Fn]; rfl
theorem clz : ∀ rd ra, Statement (.clz rd ra) := by
  intro rd ra h
  change decode (fmtR 0x01#6 rd ra 0#7 25#5) = _
  rw [decode_01 _ (fmtR_Major ..)]
  simp only [decodeAlu, fmtR_Rd, fmtR_Ra, fmtR_Rb, fmtR_Fn]; rfl
theorem ctz : ∀ rd ra, Statement (.ctz rd ra) := by
  intro rd ra h
  change decode (fmtR 0x01#6 rd ra 0#7 26#5) = _
  rw [decode_01 _ (fmtR_Major ..)]
  simp only [decodeAlu, fmtR_Rd, fmtR_Ra, fmtR_Rb, fmtR_Fn]; rfl
theorem popc : ∀ rd ra, Statement (.popc rd ra) := by
  intro rd ra h
  change decode (fmtR 0x01#6 rd ra 0#7 27#5) = _
  rw [decode_01 _ (fmtR_Major ..)]
  simp only [decodeAlu, fmtR_Rd, fmtR_Ra, fmtR_Rb, fmtR_Fn]; rfl
theorem sextb : ∀ rd ra, Statement (.sextb rd ra) := by
  intro rd ra h
  change decode (fmtR 0x01#6 rd ra 0#7 28#5) = _
  rw [decode_01 _ (fmtR_Major ..)]
  simp only [decodeAlu, fmtR_Rd, fmtR_Ra, fmtR_Rb, fmtR_Fn]; rfl
theorem sexth : ∀ rd ra, Statement (.sexth rd ra) := by
  intro rd ra h
  change decode (fmtR 0x01#6 rd ra 0#7 29#5) = _
  rw [decode_01 _ (fmtR_Major ..)]
  simp only [decodeAlu, fmtR_Rd, fmtR_Ra, fmtR_Rb, fmtR_Fn]; rfl
theorem sextw : ∀ rd ra, Statement (.sextw rd ra) := by
  intro rd ra h
  change decode (fmtR 0x01#6 rd ra 0#7 30#5) = _
  rw [decode_01 _ (fmtR_Major ..)]
  simp only [decodeAlu, fmtR_Rd, fmtR_Ra, fmtR_Rb, fmtR_Fn]; rfl
theorem zextw : ∀ rd ra, Statement (.zextw rd ra) := by
  intro rd ra h
  change decode (fmtR 0x01#6 rd ra 0#7 31#5) = _
  rw [decode_01 _ (fmtR_Major ..)]
  simp only [decodeAlu, fmtR_Rd, fmtR_Ra, fmtR_Rb, fmtR_Fn]; rfl
theorem addw : ∀ rd ra rb, Statement (.addw rd ra rb) := by
  intro rd ra rb h
  change decode (fmtR 0x02#6 rd ra rb 0#5) = _
  rw [decode_02 _ (fmtR_Major ..)]
  simp only [decodeAlu32, fmtR_Rd, fmtR_Ra, fmtR_Rb, fmtR_Fn]; rfl
theorem subw : ∀ rd ra rb, Statement (.subw rd ra rb) := by
  intro rd ra rb h
  change decode (fmtR 0x02#6 rd ra rb 1#5) = _
  rw [decode_02 _ (fmtR_Major ..)]
  simp only [decodeAlu32, fmtR_Rd, fmtR_Ra, fmtR_Rb, fmtR_Fn]; rfl
theorem sllw : ∀ rd ra rb, Statement (.sllw rd ra rb) := by
  intro rd ra rb h
  change decode (fmtR 0x02#6 rd ra rb 2#5) = _
  rw [decode_02 _ (fmtR_Major ..)]
  simp only [decodeAlu32, fmtR_Rd, fmtR_Ra, fmtR_Rb, fmtR_Fn]; rfl
theorem srlw : ∀ rd ra rb, Statement (.srlw rd ra rb) := by
  intro rd ra rb h
  change decode (fmtR 0x02#6 rd ra rb 3#5) = _
  rw [decode_02 _ (fmtR_Major ..)]
  simp only [decodeAlu32, fmtR_Rd, fmtR_Ra, fmtR_Rb, fmtR_Fn]; rfl
theorem sraw : ∀ rd ra rb, Statement (.sraw rd ra rb) := by
  intro rd ra rb h
  change decode (fmtR 0x02#6 rd ra rb 4#5) = _
  rw [decode_02 _ (fmtR_Major ..)]
  simp only [decodeAlu32, fmtR_Rd, fmtR_Ra, fmtR_Rb, fmtR_Fn]; rfl
theorem mulw : ∀ rd ra rb, Statement (.mulw rd ra rb) := by
  intro rd ra rb h
  change decode (fmtR 0x02#6 rd ra rb 5#5) = _
  rw [decode_02 _ (fmtR_Major ..)]
  simp only [decodeAlu32, fmtR_Rd, fmtR_Ra, fmtR_Rb, fmtR_Fn]; rfl
theorem divw : ∀ rd ra rb, Statement (.divw rd ra rb) := by
  intro rd ra rb h
  change decode (fmtR 0x02#6 rd ra rb 6#5) = _
  rw [decode_02 _ (fmtR_Major ..)]
  simp only [decodeAlu32, fmtR_Rd, fmtR_Ra, fmtR_Rb, fmtR_Fn]; rfl
theorem divuw : ∀ rd ra rb, Statement (.divuw rd ra rb) := by
  intro rd ra rb h
  change decode (fmtR 0x02#6 rd ra rb 7#5) = _
  rw [decode_02 _ (fmtR_Major ..)]
  simp only [decodeAlu32, fmtR_Rd, fmtR_Ra, fmtR_Rb, fmtR_Fn]; rfl
theorem remw : ∀ rd ra rb, Statement (.remw rd ra rb) := by
  intro rd ra rb h
  change decode (fmtR 0x02#6 rd ra rb 8#5) = _
  rw [decode_02 _ (fmtR_Major ..)]
  simp only [decodeAlu32, fmtR_Rd, fmtR_Ra, fmtR_Rb, fmtR_Fn]; rfl
theorem remuw : ∀ rd ra rb, Statement (.remuw rd ra rb) := by
  intro rd ra rb h
  change decode (fmtR 0x02#6 rd ra rb 9#5) = _
  rw [decode_02 _ (fmtR_Major ..)]
  simp only [decodeAlu32, fmtR_Rd, fmtR_Ra, fmtR_Rb, fmtR_Fn]; rfl
theorem addi : ∀ rd ra imm, Statement (.addi rd ra imm) := by
  intro rd ra imm h
  change decode (fmtI 0x03#6 rd ra imm) = _
  rw [decode_03 _ (fmtI_Major ..)]
  simp only [fmtI_Rd, fmtI_Ra, fmtI_Imm12]
theorem andi : ∀ rd ra imm, Statement (.andi rd ra imm) := by
  intro rd ra imm h
  change decode (fmtI 0x04#6 rd ra imm) = _
  rw [decode_04 _ (fmtI_Major ..)]
  simp only [fmtI_Rd, fmtI_Ra, fmtI_Imm12]
theorem ori : ∀ rd ra imm, Statement (.ori rd ra imm) := by
  intro rd ra imm h
  change decode (fmtI 0x05#6 rd ra imm) = _
  rw [decode_05 _ (fmtI_Major ..)]
  simp only [fmtI_Rd, fmtI_Ra, fmtI_Imm12]
theorem xori : ∀ rd ra imm, Statement (.xori rd ra imm) := by
  intro rd ra imm h
  change decode (fmtI 0x06#6 rd ra imm) = _
  rw [decode_06 _ (fmtI_Major ..)]
  simp only [fmtI_Rd, fmtI_Ra, fmtI_Imm12]
theorem slli : ∀ rd ra n, Statement (.slli rd ra n) := by
  intro rd ra n h
  change decode (fmtI 0x07#6 rd ra (0#2 ++ 0#4 ++ n)) = _
  rw [decode_07 _ (fmtI_Major ..)]
  simp (disch := omega) only [decodeShift, fmtI_Rd, fmtI_Ra, fmtI_Imm12, fmtI_imm_6_4, fmtI_imm_10_2, fmtI_imm_0_6, take_high, take_low, Nat.reduceSub, take_all]; rfl
theorem srli : ∀ rd ra n, Statement (.srli rd ra n) := by
  intro rd ra n h
  change decode (fmtI 0x07#6 rd ra (1#2 ++ 0#4 ++ n)) = _
  rw [decode_07 _ (fmtI_Major ..)]
  simp (disch := omega) only [decodeShift, fmtI_Rd, fmtI_Ra, fmtI_Imm12, fmtI_imm_6_4, fmtI_imm_10_2, fmtI_imm_0_6, take_high, take_low, Nat.reduceSub, take_all]; rfl
theorem srai : ∀ rd ra n, Statement (.srai rd ra n) := by
  intro rd ra n h
  change decode (fmtI 0x07#6 rd ra (2#2 ++ 0#4 ++ n)) = _
  rw [decode_07 _ (fmtI_Major ..)]
  simp (disch := omega) only [decodeShift, fmtI_Rd, fmtI_Ra, fmtI_Imm12, fmtI_imm_6_4, fmtI_imm_10_2, fmtI_imm_0_6, take_high, take_low, Nat.reduceSub, take_all]; rfl
theorem rori : ∀ rd ra n, Statement (.rori rd ra n) := by
  intro rd ra n h
  change decode (fmtI 0x07#6 rd ra (3#2 ++ 0#4 ++ n)) = _
  rw [decode_07 _ (fmtI_Major ..)]
  simp (disch := omega) only [decodeShift, fmtI_Rd, fmtI_Ra, fmtI_Imm12, fmtI_imm_6_4, fmtI_imm_10_2, fmtI_imm_0_6, take_high, take_low, Nat.reduceSub, take_all]; rfl
theorem slti : ∀ rd ra imm, Statement (.slti rd ra imm) := by
  intro rd ra imm h
  change decode (fmtI 0x08#6 rd ra imm) = _
  rw [decode_08 _ (fmtI_Major ..)]
  simp only [fmtI_Rd, fmtI_Ra, fmtI_Imm12]
theorem lui : ∀ rd imm, Statement (.lui rd imm) := by
  intro rd imm h
  change decode (fmtU 0x0A#6 rd imm) = _
  rw [decode_0A _ (fmtU_Major ..)]
  simp only [fmtU_Rd, fmtU_Imm19]
theorem auipc : ∀ rd imm, Statement (.auipc rd imm) := by
  intro rd imm h
  change decode (fmtU 0x0B#6 rd imm) = _
  rw [decode_0B _ (fmtU_Major ..)]
  simp only [fmtU_Rd, fmtU_Imm19]
theorem beq : ∀ ra rb off, Statement (.beq ra rb off) := by
  intro ra rb off h
  change decode (fmtI 0x0C#6 ra rb off) = _
  rw [decode_0C _ (fmtI_Major ..)]
  simp only [fmtI_Rd, fmtI_Ra, fmtI_Imm12]
theorem bne : ∀ ra rb off, Statement (.bne ra rb off) := by
  intro ra rb off h
  change decode (fmtI 0x0D#6 ra rb off) = _
  rw [decode_0D _ (fmtI_Major ..)]
  simp only [fmtI_Rd, fmtI_Ra, fmtI_Imm12]
theorem blt : ∀ ra rb off, Statement (.blt ra rb off) := by
  intro ra rb off h
  change decode (fmtI 0x0E#6 ra rb off) = _
  rw [decode_0E _ (fmtI_Major ..)]
  simp only [fmtI_Rd, fmtI_Ra, fmtI_Imm12]
theorem bge : ∀ ra rb off, Statement (.bge ra rb off) := by
  intro ra rb off h
  change decode (fmtI 0x0F#6 ra rb off) = _
  rw [decode_0F _ (fmtI_Major ..)]
  simp only [fmtI_Rd, fmtI_Ra, fmtI_Imm12]
theorem bltu : ∀ ra rb off, Statement (.bltu ra rb off) := by
  intro ra rb off h
  change decode (fmtI 0x10#6 ra rb off) = _
  rw [decode_10 _ (fmtI_Major ..)]
  simp only [fmtI_Rd, fmtI_Ra, fmtI_Imm12]
theorem bgeu : ∀ ra rb off, Statement (.bgeu ra rb off) := by
  intro ra rb off h
  change decode (fmtI 0x11#6 ra rb off) = _
  rw [decode_11 _ (fmtI_Major ..)]
  simp only [fmtI_Rd, fmtI_Ra, fmtI_Imm12]
theorem jal : ∀ rd off, Statement (.jal rd off) := by
  intro rd off h
  change decode (fmtU 0x12#6 rd off) = _
  rw [decode_12 _ (fmtU_Major ..)]
  simp only [fmtU_Rd, fmtU_Imm19]
theorem jalr : ∀ rd ra imm, Statement (.jalr rd ra imm) := by
  intro rd ra imm h
  change decode (fmtI 0x13#6 rd ra imm) = _
  rw [decode_13 _ (fmtI_Major ..)]
  simp only [fmtI_Rd, fmtI_Ra, fmtI_Imm12]
theorem lb : ∀ rd ra imm, Statement (.lb rd ra imm) := by
  intro rd ra imm h
  change decode (fmtLS 0x14#6 rd ra imm 0#3) = _
  rw [decode_14 _ (fmtLS_Major ..)]
  simp only [decodeLoad, fmtLS_Rd, fmtLS_Ra, fmtLS_Imm9, fmtLS_w]; rfl
theorem lbu : ∀ rd ra imm, Statement (.lbu rd ra imm) := by
  intro rd ra imm h
  change decode (fmtLS 0x14#6 rd ra imm 1#3) = _
  rw [decode_14 _ (fmtLS_Major ..)]
  simp only [decodeLoad, fmtLS_Rd, fmtLS_Ra, fmtLS_Imm9, fmtLS_w]; rfl
theorem lh : ∀ rd ra imm, Statement (.lh rd ra imm) := by
  intro rd ra imm h
  change decode (fmtLS 0x14#6 rd ra imm 2#3) = _
  rw [decode_14 _ (fmtLS_Major ..)]
  simp only [decodeLoad, fmtLS_Rd, fmtLS_Ra, fmtLS_Imm9, fmtLS_w]; rfl
theorem lhu : ∀ rd ra imm, Statement (.lhu rd ra imm) := by
  intro rd ra imm h
  change decode (fmtLS 0x14#6 rd ra imm 3#3) = _
  rw [decode_14 _ (fmtLS_Major ..)]
  simp only [decodeLoad, fmtLS_Rd, fmtLS_Ra, fmtLS_Imm9, fmtLS_w]; rfl
theorem lw : ∀ rd ra imm, Statement (.lw rd ra imm) := by
  intro rd ra imm h
  change decode (fmtLS 0x14#6 rd ra imm 4#3) = _
  rw [decode_14 _ (fmtLS_Major ..)]
  simp only [decodeLoad, fmtLS_Rd, fmtLS_Ra, fmtLS_Imm9, fmtLS_w]; rfl
theorem lwu : ∀ rd ra imm, Statement (.lwu rd ra imm) := by
  intro rd ra imm h
  change decode (fmtLS 0x14#6 rd ra imm 5#3) = _
  rw [decode_14 _ (fmtLS_Major ..)]
  simp only [decodeLoad, fmtLS_Rd, fmtLS_Ra, fmtLS_Imm9, fmtLS_w]; rfl
theorem ld : ∀ rd ra imm, Statement (.ld rd ra imm) := by
  intro rd ra imm h
  change decode (fmtLS 0x14#6 rd ra imm 6#3) = _
  rw [decode_14 _ (fmtLS_Major ..)]
  simp only [decodeLoad, fmtLS_Rd, fmtLS_Ra, fmtLS_Imm9, fmtLS_w]; rfl
theorem ldb : ∀ rd ra imm, Statement (.ldb rd ra imm) := by
  intro rd ra imm h
  change decode (fmtLS 0x14#6 rd ra imm 7#3) = _
  rw [decode_14 _ (fmtLS_Major ..)]
  simp only [decodeLoad, fmtLS_Rd, fmtLS_Ra, fmtLS_Imm9, fmtLS_w]; rfl
theorem sb : ∀ rd ra imm, Statement (.sb rd ra imm) := by
  intro rd ra imm h
  change decode (fmtLS 0x15#6 rd ra imm 0#3) = _
  rw [decode_15 _ (fmtLS_Major ..)]
  simp only [decodeStore, fmtLS_Rd, fmtLS_Ra, fmtLS_Imm9, fmtLS_w]; rfl
theorem sh : ∀ rd ra imm, Statement (.sh rd ra imm) := by
  intro rd ra imm h
  change decode (fmtLS 0x15#6 rd ra imm 1#3) = _
  rw [decode_15 _ (fmtLS_Major ..)]
  simp only [decodeStore, fmtLS_Rd, fmtLS_Ra, fmtLS_Imm9, fmtLS_w]; rfl
theorem sw : ∀ rd ra imm, Statement (.sw rd ra imm) := by
  intro rd ra imm h
  change decode (fmtLS 0x15#6 rd ra imm 2#3) = _
  rw [decode_15 _ (fmtLS_Major ..)]
  simp only [decodeStore, fmtLS_Rd, fmtLS_Ra, fmtLS_Imm9, fmtLS_w]; rfl
theorem sd : ∀ rd ra imm, Statement (.sd rd ra imm) := by
  intro rd ra imm h
  change decode (fmtLS 0x15#6 rd ra imm 3#3) = _
  rw [decode_15 _ (fmtLS_Major ..)]
  simp only [decodeStore, fmtLS_Rd, fmtLS_Ra, fmtLS_Imm9, fmtLS_w]; rfl
theorem ldaS : ∀ rd ra, Statement (.ldaS rd ra) := by
  intro rd ra h
  change decode (fmtR 0x16#6 rd ra 0#7 0#5) = _
  rw [decode_16 _ (fmtR_Major ..)]
  simp only [decodeSync, fmtR_Rd, fmtR_Ra, fmtR_Rb, fmtR_Fn]; rfl
theorem ldaD : ∀ rd ra, Statement (.ldaD rd ra) := by
  intro rd ra h
  change decode (fmtR 0x16#6 rd ra 0#7 1#5) = _
  rw [decode_16 _ (fmtR_Major ..)]
  simp only [decodeSync, fmtR_Rd, fmtR_Ra, fmtR_Rb, fmtR_Fn]; rfl
theorem ldaP : ∀ rd ra, Statement (.ldaP rd ra) := by
  intro rd ra h
  change decode (fmtR 0x16#6 rd ra 0#7 2#5) = _
  rw [decode_16 _ (fmtR_Major ..)]
  simp only [decodeSync, fmtR_Rd, fmtR_Ra, fmtR_Rb, fmtR_Fn]; rfl
theorem strS : ∀ ra rb, Statement (.strS ra rb) := by
  intro ra rb h
  change decode (fmtR 0x16#6 0#7 ra rb 3#5) = _
  rw [decode_16 _ (fmtR_Major ..)]
  simp only [decodeSync, fmtR_Rd, fmtR_Ra, fmtR_Rb, fmtR_Fn]; rfl
theorem strD : ∀ ra rb, Statement (.strD ra rb) := by
  intro ra rb h
  change decode (fmtR 0x16#6 0#7 ra rb 4#5) = _
  rw [decode_16 _ (fmtR_Major ..)]
  simp only [decodeSync, fmtR_Rd, fmtR_Ra, fmtR_Rb, fmtR_Fn]; rfl
theorem strP : ∀ ra rb, Statement (.strP ra rb) := by
  intro ra rb h
  change decode (fmtR 0x16#6 0#7 ra rb 5#5) = _
  rw [decode_16 _ (fmtR_Major ..)]
  simp only [decodeSync, fmtR_Rd, fmtR_Ra, fmtR_Rb, fmtR_Fn]; rfl
theorem aadd : ∀ ra rb, Statement (.aadd ra rb) := by
  intro ra rb h
  change decode (fmtR 0x16#6 0#7 ra rb 6#5) = _
  rw [decode_16 _ (fmtR_Major ..)]
  simp only [decodeSync, fmtR_Rd, fmtR_Ra, fmtR_Rb, fmtR_Fn]; rfl
theorem aand : ∀ ra rb, Statement (.aand ra rb) := by
  intro ra rb h
  change decode (fmtR 0x16#6 0#7 ra rb 7#5) = _
  rw [decode_16 _ (fmtR_Major ..)]
  simp only [decodeSync, fmtR_Rd, fmtR_Ra, fmtR_Rb, fmtR_Fn]; rfl
theorem aor : ∀ ra rb, Statement (.aor ra rb) := by
  intro ra rb h
  change decode (fmtR 0x16#6 0#7 ra rb 8#5) = _
  rw [decode_16 _ (fmtR_Major ..)]
  simp only [decodeSync, fmtR_Rd, fmtR_Ra, fmtR_Rb, fmtR_Fn]; rfl
theorem axor : ∀ ra rb, Statement (.axor ra rb) := by
  intro ra rb h
  change decode (fmtR 0x16#6 0#7 ra rb 9#5) = _
  rw [decode_16 _ (fmtR_Major ..)]
  simp only [decodeSync, fmtR_Rd, fmtR_Ra, fmtR_Rb, fmtR_Fn]; rfl
theorem amin : ∀ ra rb, Statement (.amin ra rb) := by
  intro ra rb h
  change decode (fmtR 0x16#6 0#7 ra rb 10#5) = _
  rw [decode_16 _ (fmtR_Major ..)]
  simp only [decodeSync, fmtR_Rd, fmtR_Ra, fmtR_Rb, fmtR_Fn]; rfl
theorem amax : ∀ ra rb, Statement (.amax ra rb) := by
  intro ra rb h
  change decode (fmtR 0x16#6 0#7 ra rb 11#5) = _
  rw [decode_16 _ (fmtR_Major ..)]
  simp only [decodeSync, fmtR_Rd, fmtR_Ra, fmtR_Rb, fmtR_Fn]; rfl
theorem aminu : ∀ ra rb, Statement (.aminu ra rb) := by
  intro ra rb h
  change decode (fmtR 0x16#6 0#7 ra rb 12#5) = _
  rw [decode_16 _ (fmtR_Major ..)]
  simp only [decodeSync, fmtR_Rd, fmtR_Ra, fmtR_Rb, fmtR_Fn]; rfl
theorem amaxu : ∀ ra rb, Statement (.amaxu ra rb) := by
  intro ra rb h
  change decode (fmtR 0x16#6 0#7 ra rb 13#5) = _
  rw [decode_16 _ (fmtR_Major ..)]
  simp only [decodeSync, fmtR_Rd, fmtR_Ra, fmtR_Rb, fmtR_Fn]; rfl
theorem afadd : ∀ ra rb, Statement (.afadd ra rb) := by
  intro ra rb h
  change decode (fmtR 0x16#6 0#7 ra rb 14#5) = _
  rw [decode_16 _ (fmtR_Major ..)]
  simp only [decodeSync, fmtR_Rd, fmtR_Ra, fmtR_Rb, fmtR_Fn]; rfl
theorem afadds : ∀ ra rb, Statement (.afadds ra rb) := by
  intro ra rb h
  change decode (fmtR 0x16#6 0#7 ra rb 15#5) = _
  rw [decode_16 _ (fmtR_Major ..)]
  simp only [decodeSync, fmtR_Rd, fmtR_Ra, fmtR_Rb, fmtR_Fn]; rfl
theorem afetch : ∀ rd ra rb, Statement (.afetch rd ra rb) := by
  intro rd ra rb h
  change decode (fmtR 0x16#6 rd ra rb 16#5) = _
  rw [decode_16 _ (fmtR_Major ..)]
  simp only [decodeSync, fmtR_Rd, fmtR_Ra, fmtR_Rb, fmtR_Fn]; rfl
theorem acas : ∀ rd ra rb, Statement (.acas rd ra rb) := by
  intro rd ra rb h
  change decode (fmtR 0x16#6 rd ra rb 17#5) = _
  rw [decode_16 _ (fmtR_Major ..)]
  simp only [decodeSync, fmtR_Rd, fmtR_Ra, fmtR_Rb, fmtR_Fn]; rfl
theorem aswap : ∀ rd ra rb, Statement (.aswap rd ra rb) := by
  intro rd ra rb h
  change decode (fmtR 0x16#6 rd ra rb 18#5) = _
  rw [decode_16 _ (fmtR_Major ..)]
  simp only [decodeSync, fmtR_Rd, fmtR_Ra, fmtR_Rb, fmtR_Fn]; rfl
theorem sumrd : ∀ rd ra, Statement (.sumrd rd ra) := by
  intro rd ra h
  change decode (fmtR 0x16#6 rd ra 0#7 19#5) = _
  rw [decode_16 _ (fmtR_Major ..)]
  simp only [decodeSync, fmtR_Rd, fmtR_Ra, fmtR_Rb, fmtR_Fn]; rfl
theorem sumrds : ∀ rd ra, Statement (.sumrds rd ra) := by
  intro rd ra h
  change decode (fmtR 0x16#6 rd ra 0#7 20#5) = _
  rw [decode_16 _ (fmtR_Major ..)]
  simp only [decodeSync, fmtR_Rd, fmtR_Ra, fmtR_Rb, fmtR_Fn]; rfl
theorem fenceSv : ∀ sc, Statement (.fenceSv sc) := by
  intro sc h
  change decode (fmtI 0x17#6 0#7 0#7 (0#6 ++ sc ++ 0#1 ++ 0#3)) = _
  rw [decode_17 _ (fmtI_Major ..)]
  simp (disch := omega) only [decodeFence, fmtI_Rd, fmtI_Ra, fmtI_Imm12, fmtI_imm_6_6, fmtI_imm_3_1, fmtI_imm_0_3, fmtI_imm_4_2, take_high, take_low, Nat.reduceSub, take_all]; rfl
theorem fenceVs : ∀ sc, Statement (.fenceVs sc) := by
  intro sc h
  change decode (fmtI 0x17#6 0#7 0#7 (0#6 ++ sc ++ 0#1 ++ 1#3)) = _
  rw [decode_17 _ (fmtI_Major ..)]
  simp (disch := omega) only [decodeFence, fmtI_Rd, fmtI_Ra, fmtI_Imm12, fmtI_imm_6_6, fmtI_imm_3_1, fmtI_imm_0_3, fmtI_imm_4_2, take_high, take_low, Nat.reduceSub, take_all]; rfl
theorem fenceVv : ∀ sc, Statement (.fenceVv sc) := by
  intro sc h
  change decode (fmtI 0x17#6 0#7 0#7 (0#6 ++ sc ++ 0#1 ++ 2#3)) = _
  rw [decode_17 _ (fmtI_Major ..)]
  simp (disch := omega) only [decodeFence, fmtI_Rd, fmtI_Ra, fmtI_Imm12, fmtI_imm_6_6, fmtI_imm_3_1, fmtI_imm_0_3, fmtI_imm_4_2, take_high, take_low, Nat.reduceSub, take_all]; rfl
theorem fenceAll : ∀ sc, Statement (.fenceAll sc) := by
  intro sc h
  change decode (fmtI 0x17#6 0#7 0#7 (0#6 ++ sc ++ 0#1 ++ 3#3)) = _
  rw [decode_17 _ (fmtI_Major ..)]
  simp (disch := omega) only [decodeFence, fmtI_Rd, fmtI_Ra, fmtI_Imm12, fmtI_imm_6_6, fmtI_imm_3_1, fmtI_imm_0_3, fmtI_imm_4_2, take_high, take_low, Nat.reduceSub, take_all]; rfl
theorem fenceAcq : ∀ sc, Statement (.fenceAcq sc) := by
  intro sc h
  change decode (fmtI 0x17#6 0#7 0#7 (0#6 ++ sc ++ 0#1 ++ 4#3)) = _
  rw [decode_17 _ (fmtI_Major ..)]
  simp (disch := omega) only [decodeFence, fmtI_Rd, fmtI_Ra, fmtI_Imm12, fmtI_imm_6_6, fmtI_imm_3_1, fmtI_imm_0_3, fmtI_imm_4_2, take_high, take_low, Nat.reduceSub, take_all]; rfl
theorem fenceRel : ∀ sc, Statement (.fenceRel sc) := by
  intro sc h
  change decode (fmtI 0x17#6 0#7 0#7 (0#6 ++ sc ++ 0#1 ++ 5#3)) = _
  rw [decode_17 _ (fmtI_Major ..)]
  simp (disch := omega) only [decodeFence, fmtI_Rd, fmtI_Ra, fmtI_Imm12, fmtI_imm_6_6, fmtI_imm_3_1, fmtI_imm_0_3, fmtI_imm_4_2, take_high, take_low, Nat.reduceSub, take_all]; rfl
theorem fenceRem : ∀ sc, Statement (.fenceRem sc) := by
  intro sc h
  change decode (fmtI 0x17#6 0#7 0#7 (0#6 ++ sc ++ 0#1 ++ 6#3)) = _
  rw [decode_17 _ (fmtI_Major ..)]
  simp (disch := omega) only [decodeFence, fmtI_Rd, fmtI_Ra, fmtI_Imm12, fmtI_imm_6_6, fmtI_imm_3_1, fmtI_imm_0_3, fmtI_imm_4_2, take_high, take_low, Nat.reduceSub, take_all]; rfl
theorem csrrw : ∀ rd ra c, Statement (.csrrw rd ra c) := by
  intro rd ra c h
  change decode (fmtI 0x18#6 rd ra c) = _
  rw [decode_18 _ (fmtI_Major ..)]
  simp only [fmtI_Rd, fmtI_Ra, fmtI_Imm12]
theorem csrrs : ∀ rd ra c, Statement (.csrrs rd ra c) := by
  intro rd ra c h
  change decode (fmtI 0x19#6 rd ra c) = _
  rw [decode_19 _ (fmtI_Major ..)]
  simp only [fmtI_Rd, fmtI_Ra, fmtI_Imm12]
theorem winadj : ∀ n, Statement (.winadj n) := by
  intro n h
  change decode (fmtI 0x1B#6 0#7 0#7 (0#5 ++ n)) = _
  rw [decode_1B _ (fmtI_Major ..)]
  simp (disch := omega) only [decodeWindow, fmtI_Rd, fmtI_Ra, fmtI_Imm12, fmtI_imm_11_1, fmtI_imm_7_4, fmtI_imm_0_7, fmtI_imm_0_11, take_high, take_low, Nat.reduceSub, take_all]; rfl
theorem winset : ∀ ra, Statement (.winset ra) := by
  intro ra h
  change decode (fmtI 0x1B#6 0#7 ra 0x800#12) = _
  rw [decode_1B _ (fmtI_Major ..)]
  simp (disch := omega) only [decodeWindow, fmtI_Rd, fmtI_Ra, fmtI_Imm12, fmtI_imm_11_1, fmtI_imm_7_4, fmtI_imm_0_7, fmtI_imm_0_11, take_high, take_low, Nat.reduceSub, take_all]; rfl
theorem trap : ∀ imm, Statement (.trap imm) := by
  intro imm h
  change decode (fmtI 0x1C#6 0#7 0#7 imm) = _
  rw [decode_1C _ (fmtI_Major ..)]
  simp only [fmtI_Rd, fmtI_Ra, fmtI_Imm12]; rfl
theorem eret : Statement .eret := by
  intro h
  change decode (fmtR 0x1D#6 0#7 0#7 0#7 0#5) = _
  rw [decode_1D _ (fmtR_Major ..)]
  simp only [decodeSystem, fmtR_Rd, fmtR_Ra, fmtR_Rb, fmtR_Fn]; rfl
theorem brk : Statement .brk := by
  intro h
  change decode (fmtR 0x1D#6 0#7 0#7 0#7 1#5) = _
  rw [decode_1D _ (fmtR_Major ..)]
  simp only [decodeSystem, fmtR_Rd, fmtR_Ra, fmtR_Rb, fmtR_Fn]; rfl
theorem l1inv : Statement .l1inv := by
  intro h
  change decode (fmtR 0x1D#6 0#7 0#7 0#7 2#5) = _
  rw [decode_1D _ (fmtR_Major ..)]
  simp only [decodeSystem, fmtR_Rd, fmtR_Ra, fmtR_Rb, fmtR_Fn]; rfl
theorem winv : Statement .winv := by
  intro h
  change decode (fmtR 0x1D#6 0#7 0#7 0#7 3#5) = _
  rw [decode_1D _ (fmtR_Major ..)]
  simp only [decodeSystem, fmtR_Rd, fmtR_Ra, fmtR_Rb, fmtR_Fn]; rfl
theorem ctxsave : ∀ ra, Statement (.ctxsave ra) := by
  intro ra h
  change decode (fmtR 0x1D#6 0#7 ra 0#7 4#5) = _
  rw [decode_1D _ (fmtR_Major ..)]
  simp only [decodeSystem, fmtR_Rd, fmtR_Ra, fmtR_Rb, fmtR_Fn]; rfl
theorem ctxrest : ∀ ra, Statement (.ctxrest ra) := by
  intro ra h
  change decode (fmtR 0x1D#6 0#7 ra 0#7 5#5) = _
  rw [decode_1D _ (fmtR_Major ..)]
  simp only [decodeSystem, fmtR_Rd, fmtR_Ra, fmtR_Rb, fmtR_Fn]; rfl
theorem halt : Statement .halt := by
  intro h
  change decode (fmtR 0x1D#6 0#7 0#7 0#7 6#5) = _
  rw [decode_1D _ (fmtR_Major ..)]
  simp only [decodeSystem, fmtR_Rd, fmtR_Ra, fmtR_Rb, fmtR_Fn]; rfl
theorem xfmq : ∀ ra, Statement (.xfmq ra) := by
  intro ra h
  change decode (fmtR 0x1D#6 0#7 ra 0#7 7#5) = _
  rw [decode_1D _ (fmtR_Major ..)]
  simp only [decodeSystem, fmtR_Rd, fmtR_Ra, fmtR_Rb, fmtR_Fn]; rfl
theorem vmodeS : Statement .vmodeS := by
  intro h
  change decode (fmtR 0x1E#6 0#7 0#7 0#7 0#5) = _
  rw [decode_1E _ (fmtR_Major ..)]
  simp only [decodeVcontrol, fmtR_Rd, fmtR_Ra, fmtR_Rb, fmtR_Fn]; rfl
theorem vmodeL : ∀ ra, Statement (.vmodeL ra) := by
  intro ra h
  change decode (fmtR 0x1E#6 0#7 ra 0#7 1#5) = _
  rw [decode_1E _ (fmtR_Major ..)]
  simp only [decodeVcontrol, fmtR_Rd, fmtR_Ra, fmtR_Rb, fmtR_Fn]; rfl
theorem setvl : ∀ rd ra, Statement (.setvl rd ra) := by
  intro rd ra h
  change decode (fmtR 0x1E#6 rd ra 0#7 2#5) = _
  rw [decode_1E _ (fmtR_Major ..)]
  simp only [decodeVcontrol, fmtR_Rd, fmtR_Ra, fmtR_Rb, fmtR_Fn]; rfl
theorem setvlD : ∀ rd ra rb, Statement (.setvlD rd ra rb) := by
  intro rd ra rb h
  change decode (fmtR 0x1E#6 rd ra rb 3#5) = _
  rw [decode_1E _ (fmtR_Major ..)]
  simp only [decodeVcontrol, fmtR_Rd, fmtR_Ra, fmtR_Rb, fmtR_Fn]; rfl
theorem setvt : ∀ ra, Statement (.setvt ra) := by
  intro ra h
  change decode (fmtR 0x1E#6 0#7 ra 0#7 4#5) = _
  rw [decode_1E _ (fmtR_Major ..)]
  simp only [decodeVcontrol, fmtR_Rd, fmtR_Ra, fmtR_Rb, fmtR_Fn]; rfl
theorem rep : ∀ c d a b st, Statement (.rep c d a b st) := by
  intro c d a b st h
  change decode (0x1F#6 ++ c ++ BitVec.ofBool d ++ BitVec.ofBool a ++ BitVec.ofBool b ++ st ++ 0#10 ++ 0#5 : BitVec 32) = _
  rw [decode_1F _ (by simp (disch := omega) only [fldMajor, take_high, Nat.reduceSub, take_all])]
  simp (disch := omega) only [decodePrefix, fldFn, take_high, take_low, Nat.reduceSub, take_all]
  have hx : (0x1F#6 ++ c ++ BitVec.ofBool d ++ BitVec.ofBool a ++ BitVec.ofBool b).extractLsb' 0 3
      = BitVec.ofBool d ++ BitVec.ofBool a ++ BitVec.ofBool b := by
    ext i hi
    rw [BitVec.getElem_extractLsb', ← BitVec.getLsbD_eq_getElem]
    have : i = 0 ∨ i = 1 ∨ i = 2 := by omega
    rcases this with rfl | rfl | rfl <;> simp only [BitVec.getLsbD_append] <;> rfl
  have hb : ∀ e f g : Bool, BitVec.ofBool e ++ BitVec.ofBool f ++ BitVec.ofBool g = 0#3 ↔ e = false ∧ f = false ∧ g = false := by
    decide
  rw [hx]
  simp only [BitVec.getLsbD_append, Nat.reduceLT, Nat.reduceSub, ite_true, ite_false, decide_true, decide_false, cond_true,
    cond_false, BitVec.getLsbD_ofBool, mustZero]
  cases d <;> cases a <;> cases b <;> simp_all [Statement, Instr.wellFormed]
theorem loop : ∀ t len nm, Statement (.loop t len nm) := by
  intro t len nm h
  change decode (0x1F#6 ++ t ++ len ++ nm ++ 1#5 : BitVec 32) = _
  rw [decode_1F _ (by simp (disch := omega) only [fldMajor, take_high, Nat.reduceSub, take_all])]
  simp (disch := omega) only [decodePrefix, fldFn, take_high, take_low, Nat.reduceSub, take_all]; rfl
theorem vadd : ∀ rd ra rb m, Statement (.vadd rd ra rb m) := by
  intro rd ra rb m h
  change decode (fmtV 0x20#6 rd ra rb m 0#1) = _
  rw [decode_20 _ (fmtV_Major ..)]
  have hm := of_decide_eq_true h
  simp only [decodeVarith, fmtV_Rd, fmtV_Ra, fmtV_Rb, fmtV_Msel, fmtV_Major, fmtV_x, masked, maskSel, if_pos hm]; rfl
theorem vsub : ∀ rd ra rb m, Statement (.vsub rd ra rb m) := by
  intro rd ra rb m h
  change decode (fmtV 0x20#6 rd ra rb m 1#1) = _
  rw [decode_20 _ (fmtV_Major ..)]
  have hm := of_decide_eq_true h
  simp only [decodeVarith, fmtV_Rd, fmtV_Ra, fmtV_Rb, fmtV_Msel, fmtV_Major, fmtV_x, masked, maskSel, if_pos hm]; rfl
theorem vmul : ∀ rd ra rb m, Statement (.vmul rd ra rb m) := by
  intro rd ra rb m h
  change decode (fmtV 0x21#6 rd ra rb m 0#1) = _
  rw [decode_21 _ (fmtV_Major ..)]
  have hm := of_decide_eq_true h
  simp only [decodeVarith, fmtV_Rd, fmtV_Ra, fmtV_Rb, fmtV_Msel, fmtV_Major, fmtV_x, masked, maskSel, if_pos hm]; rfl
theorem vmulh : ∀ rd ra rb m, Statement (.vmulh rd ra rb m) := by
  intro rd ra rb m h
  change decode (fmtV 0x21#6 rd ra rb m 1#1) = _
  rw [decode_21 _ (fmtV_Major ..)]
  have hm := of_decide_eq_true h
  simp only [decodeVarith, fmtV_Rd, fmtV_Ra, fmtV_Rb, fmtV_Msel, fmtV_Major, fmtV_x, masked, maskSel, if_pos hm]; rfl
theorem vmulhu : ∀ rd ra rb m, Statement (.vmulhu rd ra rb m) := by
  intro rd ra rb m h
  change decode (fmtV 0x22#6 rd ra rb m 0#1) = _
  rw [decode_22 _ (fmtV_Major ..)]
  have hm := of_decide_eq_true h
  simp only [decodeVarith, fmtV_Rd, fmtV_Ra, fmtV_Rb, fmtV_Msel, fmtV_Major, fmtV_x, masked, maskSel, if_pos hm]; rfl
theorem vdiv : ∀ rd ra rb m, Statement (.vdiv rd ra rb m) := by
  intro rd ra rb m h
  change decode (fmtV 0x22#6 rd ra rb m 1#1) = _
  rw [decode_22 _ (fmtV_Major ..)]
  have hm := of_decide_eq_true h
  simp only [decodeVarith, fmtV_Rd, fmtV_Ra, fmtV_Rb, fmtV_Msel, fmtV_Major, fmtV_x, masked, maskSel, if_pos hm]; rfl
theorem vdivu : ∀ rd ra rb m, Statement (.vdivu rd ra rb m) := by
  intro rd ra rb m h
  change decode (fmtV 0x23#6 rd ra rb m 0#1) = _
  rw [decode_23 _ (fmtV_Major ..)]
  have hm := of_decide_eq_true h
  simp only [decodeVarith, fmtV_Rd, fmtV_Ra, fmtV_Rb, fmtV_Msel, fmtV_Major, fmtV_x, masked, maskSel, if_pos hm]; rfl
theorem vrem : ∀ rd ra rb m, Statement (.vrem rd ra rb m) := by
  intro rd ra rb m h
  change decode (fmtV 0x23#6 rd ra rb m 1#1) = _
  rw [decode_23 _ (fmtV_Major ..)]
  have hm := of_decide_eq_true h
  simp only [decodeVarith, fmtV_Rd, fmtV_Ra, fmtV_Rb, fmtV_Msel, fmtV_Major, fmtV_x, masked, maskSel, if_pos hm]; rfl
theorem vremu : ∀ rd ra rb m, Statement (.vremu rd ra rb m) := by
  intro rd ra rb m h
  change decode (fmtV 0x24#6 rd ra rb m 0#1) = _
  rw [decode_24 _ (fmtV_Major ..)]
  have hm := of_decide_eq_true h
  simp only [decodeVarith, fmtV_Rd, fmtV_Ra, fmtV_Rb, fmtV_Msel, fmtV_Major, fmtV_x, masked, maskSel, if_pos hm]; rfl
theorem vand : ∀ rd ra rb m, Statement (.vand rd ra rb m) := by
  intro rd ra rb m h
  change decode (fmtV 0x24#6 rd ra rb m 1#1) = _
  rw [decode_24 _ (fmtV_Major ..)]
  have hm := of_decide_eq_true h
  simp only [decodeVarith, fmtV_Rd, fmtV_Ra, fmtV_Rb, fmtV_Msel, fmtV_Major, fmtV_x, masked, maskSel, if_pos hm]; rfl
theorem vor : ∀ rd ra rb m, Statement (.vor rd ra rb m) := by
  intro rd ra rb m h
  change decode (fmtV 0x25#6 rd ra rb m 0#1) = _
  rw [decode_25 _ (fmtV_Major ..)]
  have hm := of_decide_eq_true h
  simp only [decodeVarith, fmtV_Rd, fmtV_Ra, fmtV_Rb, fmtV_Msel, fmtV_Major, fmtV_x, masked, maskSel, if_pos hm]; rfl
theorem vxor : ∀ rd ra rb m, Statement (.vxor rd ra rb m) := by
  intro rd ra rb m h
  change decode (fmtV 0x25#6 rd ra rb m 1#1) = _
  rw [decode_25 _ (fmtV_Major ..)]
  have hm := of_decide_eq_true h
  simp only [decodeVarith, fmtV_Rd, fmtV_Ra, fmtV_Rb, fmtV_Msel, fmtV_Major, fmtV_x, masked, maskSel, if_pos hm]; rfl
theorem vsll : ∀ rd ra rb m, Statement (.vsll rd ra rb m) := by
  intro rd ra rb m h
  change decode (fmtV 0x26#6 rd ra rb m 0#1) = _
  rw [decode_26 _ (fmtV_Major ..)]
  have hm := of_decide_eq_true h
  simp only [decodeVarith, fmtV_Rd, fmtV_Ra, fmtV_Rb, fmtV_Msel, fmtV_Major, fmtV_x, masked, maskSel, if_pos hm]; rfl
theorem vsrl : ∀ rd ra rb m, Statement (.vsrl rd ra rb m) := by
  intro rd ra rb m h
  change decode (fmtV 0x26#6 rd ra rb m 1#1) = _
  rw [decode_26 _ (fmtV_Major ..)]
  have hm := of_decide_eq_true h
  simp only [decodeVarith, fmtV_Rd, fmtV_Ra, fmtV_Rb, fmtV_Msel, fmtV_Major, fmtV_x, masked, maskSel, if_pos hm]; rfl
theorem vsra : ∀ rd ra rb m, Statement (.vsra rd ra rb m) := by
  intro rd ra rb m h
  change decode (fmtV 0x27#6 rd ra rb m 0#1) = _
  rw [decode_27 _ (fmtV_Major ..)]
  have hm := of_decide_eq_true h
  simp only [decodeVarith, fmtV_Rd, fmtV_Ra, fmtV_Rb, fmtV_Msel, fmtV_Major, fmtV_x, masked, maskSel, if_pos hm]; rfl
theorem vmin : ∀ rd ra rb m, Statement (.vmin rd ra rb m) := by
  intro rd ra rb m h
  change decode (fmtV 0x27#6 rd ra rb m 1#1) = _
  rw [decode_27 _ (fmtV_Major ..)]
  have hm := of_decide_eq_true h
  simp only [decodeVarith, fmtV_Rd, fmtV_Ra, fmtV_Rb, fmtV_Msel, fmtV_Major, fmtV_x, masked, maskSel, if_pos hm]; rfl
theorem vminu : ∀ rd ra rb m, Statement (.vminu rd ra rb m) := by
  intro rd ra rb m h
  change decode (fmtV 0x28#6 rd ra rb m 0#1) = _
  rw [decode_28 _ (fmtV_Major ..)]
  have hm := of_decide_eq_true h
  simp only [decodeVarith, fmtV_Rd, fmtV_Ra, fmtV_Rb, fmtV_Msel, fmtV_Major, fmtV_x, masked, maskSel, if_pos hm]; rfl
theorem vmax : ∀ rd ra rb m, Statement (.vmax rd ra rb m) := by
  intro rd ra rb m h
  change decode (fmtV 0x28#6 rd ra rb m 1#1) = _
  rw [decode_28 _ (fmtV_Major ..)]
  have hm := of_decide_eq_true h
  simp only [decodeVarith, fmtV_Rd, fmtV_Ra, fmtV_Rb, fmtV_Msel, fmtV_Major, fmtV_x, masked, maskSel, if_pos hm]; rfl
theorem vmaxu : ∀ rd ra rb m, Statement (.vmaxu rd ra rb m) := by
  intro rd ra rb m h
  change decode (fmtV 0x29#6 rd ra rb m 0#1) = _
  rw [decode_29 _ (fmtV_Major ..)]
  have hm := of_decide_eq_true h
  simp only [decodeVarith, fmtV_Rd, fmtV_Ra, fmtV_Rb, fmtV_Msel, fmtV_Major, fmtV_x, masked, maskSel, if_pos hm]; rfl
theorem vfadd : ∀ rd ra rb m, Statement (.vfadd rd ra rb m) := by
  intro rd ra rb m h
  change decode (fmtV 0x29#6 rd ra rb m 1#1) = _
  rw [decode_29 _ (fmtV_Major ..)]
  have hm := of_decide_eq_true h
  simp only [decodeVarith, fmtV_Rd, fmtV_Ra, fmtV_Rb, fmtV_Msel, fmtV_Major, fmtV_x, masked, maskSel, if_pos hm]; rfl
theorem vfsub : ∀ rd ra rb m, Statement (.vfsub rd ra rb m) := by
  intro rd ra rb m h
  change decode (fmtV 0x2A#6 rd ra rb m 0#1) = _
  rw [decode_2A _ (fmtV_Major ..)]
  have hm := of_decide_eq_true h
  simp only [decodeVarith, fmtV_Rd, fmtV_Ra, fmtV_Rb, fmtV_Msel, fmtV_Major, fmtV_x, masked, maskSel, if_pos hm]; rfl
theorem vfmul : ∀ rd ra rb m, Statement (.vfmul rd ra rb m) := by
  intro rd ra rb m h
  change decode (fmtV 0x2A#6 rd ra rb m 1#1) = _
  rw [decode_2A _ (fmtV_Major ..)]
  have hm := of_decide_eq_true h
  simp only [decodeVarith, fmtV_Rd, fmtV_Ra, fmtV_Rb, fmtV_Msel, fmtV_Major, fmtV_x, masked, maskSel, if_pos hm]; rfl
theorem vfdiv : ∀ rd ra rb m, Statement (.vfdiv rd ra rb m) := by
  intro rd ra rb m h
  change decode (fmtV 0x2B#6 rd ra rb m 0#1) = _
  rw [decode_2B _ (fmtV_Major ..)]
  have hm := of_decide_eq_true h
  simp only [decodeVarith, fmtV_Rd, fmtV_Ra, fmtV_Rb, fmtV_Msel, fmtV_Major, fmtV_x, masked, maskSel, if_pos hm]; rfl
theorem vfma : ∀ rd ra rb m, Statement (.vfma rd ra rb m) := by
  intro rd ra rb m h
  change decode (fmtV 0x2B#6 rd ra rb m 1#1) = _
  rw [decode_2B _ (fmtV_Major ..)]
  have hm := of_decide_eq_true h
  simp only [decodeVarith, fmtV_Rd, fmtV_Ra, fmtV_Rb, fmtV_Msel, fmtV_Major, fmtV_x, masked, maskSel, if_pos hm]; rfl
theorem vfms : ∀ rd ra rb m, Statement (.vfms rd ra rb m) := by
  intro rd ra rb m h
  change decode (fmtV 0x2C#6 rd ra rb m 0#1) = _
  rw [decode_2C _ (fmtV_Major ..)]
  have hm := of_decide_eq_true h
  simp only [decodeVarith, fmtV_Rd, fmtV_Ra, fmtV_Rb, fmtV_Msel, fmtV_Major, fmtV_x, masked, maskSel, if_pos hm]; rfl
theorem vfnma : ∀ rd ra rb m, Statement (.vfnma rd ra rb m) := by
  intro rd ra rb m h
  change decode (fmtV 0x2C#6 rd ra rb m 1#1) = _
  rw [decode_2C _ (fmtV_Major ..)]
  have hm := of_decide_eq_true h
  simp only [decodeVarith, fmtV_Rd, fmtV_Ra, fmtV_Rb, fmtV_Msel, fmtV_Major, fmtV_x, masked, maskSel, if_pos hm]; rfl
theorem vfnms : ∀ rd ra rb m, Statement (.vfnms rd ra rb m) := by
  intro rd ra rb m h
  change decode (fmtV 0x2D#6 rd ra rb m 0#1) = _
  rw [decode_2D _ (fmtV_Major ..)]
  have hm := of_decide_eq_true h
  simp only [decodeVarith, fmtV_Rd, fmtV_Ra, fmtV_Rb, fmtV_Msel, fmtV_Major, fmtV_x, masked, maskSel, if_pos hm]; rfl
theorem vfmin : ∀ rd ra rb m, Statement (.vfmin rd ra rb m) := by
  intro rd ra rb m h
  change decode (fmtV 0x2D#6 rd ra rb m 1#1) = _
  rw [decode_2D _ (fmtV_Major ..)]
  have hm := of_decide_eq_true h
  simp only [decodeVarith, fmtV_Rd, fmtV_Ra, fmtV_Rb, fmtV_Msel, fmtV_Major, fmtV_x, masked, maskSel, if_pos hm]; rfl
theorem vfmax : ∀ rd ra rb m, Statement (.vfmax rd ra rb m) := by
  intro rd ra rb m h
  change decode (fmtV 0x2E#6 rd ra rb m 0#1) = _
  rw [decode_2E _ (fmtV_Major ..)]
  have hm := of_decide_eq_true h
  simp only [decodeVarith, fmtV_Rd, fmtV_Ra, fmtV_Rb, fmtV_Msel, fmtV_Major, fmtV_x, masked, maskSel, if_pos hm]; rfl
theorem vfsign : ∀ rd ra rb m, Statement (.vfsign rd ra rb m) := by
  intro rd ra rb m h
  change decode (fmtV 0x2E#6 rd ra rb m 1#1) = _
  rw [decode_2E _ (fmtV_Major ..)]
  have hm := of_decide_eq_true h
  simp only [decodeVarith, fmtV_Rd, fmtV_Ra, fmtV_Rb, fmtV_Msel, fmtV_Major, fmtV_x, masked, maskSel, if_pos hm]; rfl
theorem vfsignn : ∀ rd ra rb m, Statement (.vfsignn rd ra rb m) := by
  intro rd ra rb m h
  change decode (fmtV 0x2F#6 rd ra rb m 0#1) = _
  rw [decode_2F _ (fmtV_Major ..)]
  have hm := of_decide_eq_true h
  simp only [decodeVarith, fmtV_Rd, fmtV_Ra, fmtV_Rb, fmtV_Msel, fmtV_Major, fmtV_x, masked, maskSel, if_pos hm]; rfl
theorem vfsignx : ∀ rd ra rb m, Statement (.vfsignx rd ra rb m) := by
  intro rd ra rb m h
  change decode (fmtV 0x2F#6 rd ra rb m 1#1) = _
  rw [decode_2F _ (fmtV_Major ..)]
  have hm := of_decide_eq_true h
  simp only [decodeVarith, fmtV_Rd, fmtV_Ra, fmtV_Rb, fmtV_Msel, fmtV_Major, fmtV_x, masked, maskSel, if_pos hm]; rfl
theorem vcmpEq : ∀ md ra rb m, Statement (.vcmpEq md ra rb m) := by
  intro md ra rb m h
  change decode (fmtV 0x30#6 (0#3 ++ md) ra rb m 0#1) = _
  rw [decode_30 _ (fmtV_Major ..)]
  have hm := of_decide_eq_true h
  simp (disch := omega) only [decodeVcmp, fmtV_Rd, fmtV_Ra, fmtV_Rb, fmtV_Msel, fmtV_vdLow, fmtV_vdHigh, fmtV_x, masked, maskSel, if_pos hm, take_high, take_low, Nat.reduceSub, take_all]; rfl
theorem vcmpNe : ∀ md ra rb m, Statement (.vcmpNe md ra rb m) := by
  intro md ra rb m h
  change decode (fmtV 0x30#6 (1#3 ++ md) ra rb m 0#1) = _
  rw [decode_30 _ (fmtV_Major ..)]
  have hm := of_decide_eq_true h
  simp (disch := omega) only [decodeVcmp, fmtV_Rd, fmtV_Ra, fmtV_Rb, fmtV_Msel, fmtV_vdLow, fmtV_vdHigh, fmtV_x, masked, maskSel, if_pos hm, take_high, take_low, Nat.reduceSub, take_all]; rfl
theorem vcmpLt : ∀ md ra rb m, Statement (.vcmpLt md ra rb m) := by
  intro md ra rb m h
  change decode (fmtV 0x30#6 (2#3 ++ md) ra rb m 0#1) = _
  rw [decode_30 _ (fmtV_Major ..)]
  have hm := of_decide_eq_true h
  simp (disch := omega) only [decodeVcmp, fmtV_Rd, fmtV_Ra, fmtV_Rb, fmtV_Msel, fmtV_vdLow, fmtV_vdHigh, fmtV_x, masked, maskSel, if_pos hm, take_high, take_low, Nat.reduceSub, take_all]; rfl
theorem vcmpLtu : ∀ md ra rb m, Statement (.vcmpLtu md ra rb m) := by
  intro md ra rb m h
  change decode (fmtV 0x30#6 (3#3 ++ md) ra rb m 0#1) = _
  rw [decode_30 _ (fmtV_Major ..)]
  have hm := of_decide_eq_true h
  simp (disch := omega) only [decodeVcmp, fmtV_Rd, fmtV_Ra, fmtV_Rb, fmtV_Msel, fmtV_vdLow, fmtV_vdHigh, fmtV_x, masked, maskSel, if_pos hm, take_high, take_low, Nat.reduceSub, take_all]; rfl
theorem vcmpLe : ∀ md ra rb m, Statement (.vcmpLe md ra rb m) := by
  intro md ra rb m h
  change decode (fmtV 0x30#6 (4#3 ++ md) ra rb m 0#1) = _
  rw [decode_30 _ (fmtV_Major ..)]
  have hm := of_decide_eq_true h
  simp (disch := omega) only [decodeVcmp, fmtV_Rd, fmtV_Ra, fmtV_Rb, fmtV_Msel, fmtV_vdLow, fmtV_vdHigh, fmtV_x, masked, maskSel, if_pos hm, take_high, take_low, Nat.reduceSub, take_all]; rfl
theorem vcmpLeu : ∀ md ra rb m, Statement (.vcmpLeu md ra rb m) := by
  intro md ra rb m h
  change decode (fmtV 0x30#6 (5#3 ++ md) ra rb m 0#1) = _
  rw [decode_30 _ (fmtV_Major ..)]
  have hm := of_decide_eq_true h
  simp (disch := omega) only [decodeVcmp, fmtV_Rd, fmtV_Ra, fmtV_Rb, fmtV_Msel, fmtV_vdLow, fmtV_vdHigh, fmtV_x, masked, maskSel, if_pos hm, take_high, take_low, Nat.reduceSub, take_all]; rfl
theorem vcmpGt : ∀ md ra rb m, Statement (.vcmpGt md ra rb m) := by
  intro md ra rb m h
  change decode (fmtV 0x30#6 (6#3 ++ md) ra rb m 0#1) = _
  rw [decode_30 _ (fmtV_Major ..)]
  have hm := of_decide_eq_true h
  simp (disch := omega) only [decodeVcmp, fmtV_Rd, fmtV_Ra, fmtV_Rb, fmtV_Msel, fmtV_vdLow, fmtV_vdHigh, fmtV_x, masked, maskSel, if_pos hm, take_high, take_low, Nat.reduceSub, take_all]; rfl
theorem vcmpGtu : ∀ md ra rb m, Statement (.vcmpGtu md ra rb m) := by
  intro md ra rb m h
  change decode (fmtV 0x30#6 (7#3 ++ md) ra rb m 0#1) = _
  rw [decode_30 _ (fmtV_Major ..)]
  have hm := of_decide_eq_true h
  simp (disch := omega) only [decodeVcmp, fmtV_Rd, fmtV_Ra, fmtV_Rb, fmtV_Msel, fmtV_vdLow, fmtV_vdHigh, fmtV_x, masked, maskSel, if_pos hm, take_high, take_low, Nat.reduceSub, take_all]; rfl
theorem vcmpFeq : ∀ md ra rb m, Statement (.vcmpFeq md ra rb m) := by
  intro md ra rb m h
  change decode (fmtV 0x30#6 (0#3 ++ md) ra rb m 1#1) = _
  rw [decode_30 _ (fmtV_Major ..)]
  have hm := of_decide_eq_true h
  simp (disch := omega) only [decodeVcmp, fmtV_Rd, fmtV_Ra, fmtV_Rb, fmtV_Msel, fmtV_vdLow, fmtV_vdHigh, fmtV_x, masked, maskSel, if_pos hm, take_high, take_low, Nat.reduceSub, take_all]; rfl
theorem vcmpFne : ∀ md ra rb m, Statement (.vcmpFne md ra rb m) := by
  intro md ra rb m h
  change decode (fmtV 0x30#6 (1#3 ++ md) ra rb m 1#1) = _
  rw [decode_30 _ (fmtV_Major ..)]
  have hm := of_decide_eq_true h
  simp (disch := omega) only [decodeVcmp, fmtV_Rd, fmtV_Ra, fmtV_Rb, fmtV_Msel, fmtV_vdLow, fmtV_vdHigh, fmtV_x, masked, maskSel, if_pos hm, take_high, take_low, Nat.reduceSub, take_all]; rfl
theorem vcmpFlt : ∀ md ra rb m, Statement (.vcmpFlt md ra rb m) := by
  intro md ra rb m h
  change decode (fmtV 0x30#6 (2#3 ++ md) ra rb m 1#1) = _
  rw [decode_30 _ (fmtV_Major ..)]
  have hm := of_decide_eq_true h
  simp (disch := omega) only [decodeVcmp, fmtV_Rd, fmtV_Ra, fmtV_Rb, fmtV_Msel, fmtV_vdLow, fmtV_vdHigh, fmtV_x, masked, maskSel, if_pos hm, take_high, take_low, Nat.reduceSub, take_all]; rfl
theorem vcmpFle : ∀ md ra rb m, Statement (.vcmpFle md ra rb m) := by
  intro md ra rb m h
  change decode (fmtV 0x30#6 (3#3 ++ md) ra rb m 1#1) = _
  rw [decode_30 _ (fmtV_Major ..)]
  have hm := of_decide_eq_true h
  simp (disch := omega) only [decodeVcmp, fmtV_Rd, fmtV_Ra, fmtV_Rb, fmtV_Msel, fmtV_vdLow, fmtV_vdHigh, fmtV_x, masked, maskSel, if_pos hm, take_high, take_low, Nat.reduceSub, take_all]; rfl
theorem vcmpFgt : ∀ md ra rb m, Statement (.vcmpFgt md ra rb m) := by
  intro md ra rb m h
  change decode (fmtV 0x30#6 (4#3 ++ md) ra rb m 1#1) = _
  rw [decode_30 _ (fmtV_Major ..)]
  have hm := of_decide_eq_true h
  simp (disch := omega) only [decodeVcmp, fmtV_Rd, fmtV_Ra, fmtV_Rb, fmtV_Msel, fmtV_vdLow, fmtV_vdHigh, fmtV_x, masked, maskSel, if_pos hm, take_high, take_low, Nat.reduceSub, take_all]; rfl
theorem vcmpFge : ∀ md ra rb m, Statement (.vcmpFge md ra rb m) := by
  intro md ra rb m h
  change decode (fmtV 0x30#6 (5#3 ++ md) ra rb m 1#1) = _
  rw [decode_30 _ (fmtV_Major ..)]
  have hm := of_decide_eq_true h
  simp (disch := omega) only [decodeVcmp, fmtV_Rd, fmtV_Ra, fmtV_Rb, fmtV_Msel, fmtV_vdLow, fmtV_vdHigh, fmtV_x, masked, maskSel, if_pos hm, take_high, take_low, Nat.reduceSub, take_all]; rfl
theorem vcmpFunord : ∀ md ra rb m, Statement (.vcmpFunord md ra rb m) := by
  intro md ra rb m h
  change decode (fmtV 0x30#6 (6#3 ++ md) ra rb m 1#1) = _
  rw [decode_30 _ (fmtV_Major ..)]
  have hm := of_decide_eq_true h
  simp (disch := omega) only [decodeVcmp, fmtV_Rd, fmtV_Ra, fmtV_Rb, fmtV_Msel, fmtV_vdLow, fmtV_vdHigh, fmtV_x, masked, maskSel, if_pos hm, take_high, take_low, Nat.reduceSub, take_all]; rfl
theorem vcmpFord : ∀ md ra rb m, Statement (.vcmpFord md ra rb m) := by
  intro md ra rb m h
  change decode (fmtV 0x30#6 (7#3 ++ md) ra rb m 1#1) = _
  rw [decode_30 _ (fmtV_Major ..)]
  have hm := of_decide_eq_true h
  simp (disch := omega) only [decodeVcmp, fmtV_Rd, fmtV_Ra, fmtV_Rb, fmtV_Msel, fmtV_vdLow, fmtV_vdHigh, fmtV_x, masked, maskSel, if_pos hm, take_high, take_low, Nat.reduceSub, take_all]; rfl
theorem mand : ∀ rd ra rb, Statement (.mand rd ra rb) := by
  intro rd ra rb h
  change decode (fmtR 0x31#6 rd ra rb 0#5) = _
  rw [decode_31 _ (fmtR_Major ..)]
  simp only [decodeMask, fmtR_Rd, fmtR_Ra, fmtR_Rb, fmtR_Fn]; rfl
theorem mor : ∀ rd ra rb, Statement (.mor rd ra rb) := by
  intro rd ra rb h
  change decode (fmtR 0x31#6 rd ra rb 1#5) = _
  rw [decode_31 _ (fmtR_Major ..)]
  simp only [decodeMask, fmtR_Rd, fmtR_Ra, fmtR_Rb, fmtR_Fn]; rfl
theorem mxor : ∀ rd ra rb, Statement (.mxor rd ra rb) := by
  intro rd ra rb h
  change decode (fmtR 0x31#6 rd ra rb 2#5) = _
  rw [decode_31 _ (fmtR_Major ..)]
  simp only [decodeMask, fmtR_Rd, fmtR_Ra, fmtR_Rb, fmtR_Fn]; rfl
theorem mandn : ∀ rd ra rb, Statement (.mandn rd ra rb) := by
  intro rd ra rb h
  change decode (fmtR 0x31#6 rd ra rb 3#5) = _
  rw [decode_31 _ (fmtR_Major ..)]
  simp only [decodeMask, fmtR_Rd, fmtR_Ra, fmtR_Rb, fmtR_Fn]; rfl
theorem mnot : ∀ rd ra, Statement (.mnot rd ra) := by
  intro rd ra h
  change decode (fmtR 0x31#6 rd ra 0#7 4#5) = _
  rw [decode_31 _ (fmtR_Major ..)]
  simp only [decodeMask, fmtR_Rd, fmtR_Ra, fmtR_Rb, fmtR_Fn]; rfl
theorem mset : ∀ rd, Statement (.mset rd) := by
  intro rd h
  change decode (fmtR 0x31#6 rd 0#7 0#7 5#5) = _
  rw [decode_31 _ (fmtR_Major ..)]
  simp only [decodeMask, fmtR_Rd, fmtR_Ra, fmtR_Rb, fmtR_Fn]; rfl
theorem mclr : ∀ rd, Statement (.mclr rd) := by
  intro rd h
  change decode (fmtR 0x31#6 rd 0#7 0#7 6#5) = _
  rw [decode_31 _ (fmtR_Major ..)]
  simp only [decodeMask, fmtR_Rd, fmtR_Ra, fmtR_Rb, fmtR_Fn]; rfl
theorem mpopc : ∀ rd ra, Statement (.mpopc rd ra) := by
  intro rd ra h
  change decode (fmtR 0x31#6 rd ra 0#7 7#5) = _
  rw [decode_31 _ (fmtR_Major ..)]
  simp only [decodeMask, fmtR_Rd, fmtR_Ra, fmtR_Rb, fmtR_Fn]; rfl
theorem mfirst : ∀ rd ra, Statement (.mfirst rd ra) := by
  intro rd ra h
  change decode (fmtR 0x31#6 rd ra 0#7 8#5) = _
  rw [decode_31 _ (fmtR_Major ..)]
  simp only [decodeMask, fmtR_Rd, fmtR_Ra, fmtR_Rb, fmtR_Fn]; rfl
theorem mfromv : ∀ rd ra, Statement (.mfromv rd ra) := by
  intro rd ra h
  change decode (fmtR 0x31#6 rd ra 0#7 9#5) = _
  rw [decode_31 _ (fmtR_Major ..)]
  simp only [decodeMask, fmtR_Rd, fmtR_Ra, fmtR_Rb, fmtR_Fn]; rfl
theorem mtov : ∀ rd ra, Statement (.mtov rd ra) := by
  intro rd ra h
  change decode (fmtR 0x31#6 rd ra 0#7 10#5) = _
  rw [decode_31 _ (fmtR_Major ..)]
  simp only [decodeMask, fmtR_Rd, fmtR_Ra, fmtR_Rb, fmtR_Fn]; rfl
theorem msbf : ∀ rd ra, Statement (.msbf rd ra) := by
  intro rd ra h
  change decode (fmtR 0x31#6 rd ra 0#7 11#5) = _
  rw [decode_31 _ (fmtR_Major ..)]
  simp only [decodeMask, fmtR_Rd, fmtR_Ra, fmtR_Rb, fmtR_Fn]; rfl
theorem miota : ∀ rd ra, Statement (.miota rd ra) := by
  intro rd ra h
  change decode (fmtR 0x31#6 rd ra 0#7 12#5) = _
  rw [decode_31 _ (fmtR_Major ..)]
  simp only [decodeMask, fmtR_Rd, fmtR_Ra, fmtR_Rb, fmtR_Fn]; rfl
theorem vslideup : ∀ rd ra rb, Statement (.vslideup rd ra rb) := by
  intro rd ra rb h
  change decode (fmtR 0x32#6 rd ra rb 0#5) = _
  rw [decode_32 _ (fmtR_Major ..)]
  simp only [decodeCross, fmtR_Rd, fmtR_Ra, fmtR_Rb, fmtR_Fn]; rfl
theorem vslidedn : ∀ rd ra rb, Statement (.vslidedn rd ra rb) := by
  intro rd ra rb h
  change decode (fmtR 0x32#6 rd ra rb 1#5) = _
  rw [decode_32 _ (fmtR_Major ..)]
  simp only [decodeCross, fmtR_Rd, fmtR_Ra, fmtR_Rb, fmtR_Fn]; rfl
theorem vbfly : ∀ rd ra rb, Statement (.vbfly rd ra rb) := by
  intro rd ra rb h
  change decode (fmtR 0x32#6 rd ra rb 2#5) = _
  rw [decode_32 _ (fmtR_Major ..)]
  simp only [decodeCross, fmtR_Rd, fmtR_Ra, fmtR_Rb, fmtR_Fn]; rfl
theorem vperm : ∀ rd ra rb, Statement (.vperm rd ra rb) := by
  intro rd ra rb h
  change decode (fmtR 0x32#6 rd ra rb 4#5) = _
  rw [decode_32 _ (fmtR_Major ..)]
  simp only [decodeCross, fmtR_Rd, fmtR_Ra, fmtR_Rb, fmtR_Fn]; rfl
theorem vcompress : ∀ rd ra rb, Statement (.vcompress rd ra rb) := by
  intro rd ra rb h
  change decode (fmtR 0x32#6 rd ra rb 5#5) = _
  rw [decode_32 _ (fmtR_Major ..)]
  simp only [decodeCross, fmtR_Rd, fmtR_Ra, fmtR_Rb, fmtR_Fn]; rfl
theorem vexpand : ∀ rd ra rb, Statement (.vexpand rd ra rb) := by
  intro rd ra rb h
  change decode (fmtR 0x32#6 rd ra rb 6#5) = _
  rw [decode_32 _ (fmtR_Major ..)]
  simp only [decodeCross, fmtR_Rd, fmtR_Ra, fmtR_Rb, fmtR_Fn]; rfl
theorem vid : ∀ rd, Statement (.vid rd) := by
  intro rd h
  change decode (fmtR 0x32#6 rd 0#7 0#7 7#5) = _
  rw [decode_32 _ (fmtR_Major ..)]
  simp only [decodeCross, fmtR_Rd, fmtR_Ra, fmtR_Rb, fmtR_Fn]; rfl
theorem vbcast : ∀ rd ra rb, Statement (.vbcast rd ra rb) := by
  intro rd ra rb h
  change decode (fmtR 0x32#6 rd ra rb 8#5) = _
  rw [decode_32 _ (fmtR_Major ..)]
  simp only [decodeCross, fmtR_Rd, fmtR_Ra, fmtR_Rb, fmtR_Fn]; rfl
theorem vextr : ∀ rd ra rb, Statement (.vextr rd ra rb) := by
  intro rd ra rb h
  change decode (fmtR 0x32#6 rd ra rb 9#5) = _
  rw [decode_32 _ (fmtR_Major ..)]
  simp only [decodeCross, fmtR_Rd, fmtR_Ra, fmtR_Rb, fmtR_Fn]; rfl
theorem vinsr : ∀ rd ra rb, Statement (.vinsr rd ra rb) := by
  intro rd ra rb h
  change decode (fmtR 0x32#6 rd ra rb 10#5) = _
  rw [decode_32 _ (fmtR_Major ..)]
  simp only [decodeCross, fmtR_Rd, fmtR_Ra, fmtR_Rb, fmtR_Fn]; rfl
theorem vmerge : ∀ rd ra rb k, Statement (.vmerge rd ra rb k) := by
  intro rd ra rb k h
  change decode (fmtR 0x32#6 rd ra rb (1#1 ++ k)) = _
  have hk : k.toNat ≤ 11 := of_decide_eq_true h
  have hn : (1#1 ++ k : BitVec 5).toNat = 16 + k.toNat := by
    rw [BitVec.toNat_append, ← Nat.shiftLeft_add_eq_or_of_lt k.isLt]; rfl
  rw [decode_32 _ (fmtR_Major ..)]
  simp only [decodeCross, fmtR_Rd, fmtR_Ra, fmtR_Rb, fmtR_Fn, fmtR_fnLow, hn]
  rw [if_pos (by omega), take_low _ _ _ _ (by omega), take_all]
theorem vfsqrt : ∀ rd ra m, Statement (.vfsqrt rd ra m) := by
  intro rd ra m h
  change decode (fmtV 0x33#6 rd ra 0#7 m 0#1) = _
  rw [decode_33 _ (fmtV_Major ..)]
  have hm := of_decide_eq_true h
  simp only [decodeVunary, fmtV_Rd, fmtV_Ra, fmtV_Rb, fmtV_Msel, fmtV_x, masked, maskSel, if_pos hm]; rfl
theorem vneg : ∀ rd ra m, Statement (.vneg rd ra m) := by
  intro rd ra m h
  change decode (fmtV 0x33#6 rd ra 1#7 m 0#1) = _
  rw [decode_33 _ (fmtV_Major ..)]
  have hm := of_decide_eq_true h
  simp only [decodeVunary, fmtV_Rd, fmtV_Ra, fmtV_Rb, fmtV_Msel, fmtV_x, masked, maskSel, if_pos hm]; rfl
theorem vnot : ∀ rd ra m, Statement (.vnot rd ra m) := by
  intro rd ra m h
  change decode (fmtV 0x33#6 rd ra 2#7 m 0#1) = _
  rw [decode_33 _ (fmtV_Major ..)]
  have hm := of_decide_eq_true h
  simp only [decodeVunary, fmtV_Rd, fmtV_Ra, fmtV_Rb, fmtV_Msel, fmtV_x, masked, maskSel, if_pos hm]; rfl
theorem vclz : ∀ rd ra m, Statement (.vclz rd ra m) := by
  intro rd ra m h
  change decode (fmtV 0x33#6 rd ra 3#7 m 0#1) = _
  rw [decode_33 _ (fmtV_Major ..)]
  have hm := of_decide_eq_true h
  simp only [decodeVunary, fmtV_Rd, fmtV_Ra, fmtV_Rb, fmtV_Msel, fmtV_x, masked, maskSel, if_pos hm]; rfl
theorem vctz : ∀ rd ra m, Statement (.vctz rd ra m) := by
  intro rd ra m h
  change decode (fmtV 0x33#6 rd ra 4#7 m 0#1) = _
  rw [decode_33 _ (fmtV_Major ..)]
  have hm := of_decide_eq_true h
  simp only [decodeVunary, fmtV_Rd, fmtV_Ra, fmtV_Rb, fmtV_Msel, fmtV_x, masked, maskSel, if_pos hm]; rfl
theorem vpopc : ∀ rd ra m, Statement (.vpopc rd ra m) := by
  intro rd ra m h
  change decode (fmtV 0x33#6 rd ra 5#7 m 0#1) = _
  rw [decode_33 _ (fmtV_Major ..)]
  have hm := of_decide_eq_true h
  simp only [decodeVunary, fmtV_Rd, fmtV_Ra, fmtV_Rb, fmtV_Msel, fmtV_x, masked, maskSel, if_pos hm]; rfl
theorem vfclass : ∀ rd ra m, Statement (.vfclass rd ra m) := by
  intro rd ra m h
  change decode (fmtV 0x33#6 rd ra 6#7 m 0#1) = _
  rw [decode_33 _ (fmtV_Major ..)]
  have hm := of_decide_eq_true h
  simp only [decodeVunary, fmtV_Rd, fmtV_Ra, fmtV_Rb, fmtV_Msel, fmtV_x, masked, maskSel, if_pos hm]; rfl
theorem vfrint : ∀ rd ra m, Statement (.vfrint rd ra m) := by
  intro rd ra m h
  change decode (fmtV 0x33#6 rd ra 7#7 m 0#1) = _
  rw [decode_33 _ (fmtV_Major ..)]
  have hm := of_decide_eq_true h
  simp only [decodeVunary, fmtV_Rd, fmtV_Ra, fmtV_Rb, fmtV_Msel, fmtV_x, masked, maskSel, if_pos hm]; rfl
theorem vcvtFI : ∀ rd ra m, Statement (.vcvtFI rd ra m) := by
  intro rd ra m h
  change decode (fmtV 0x33#6 rd ra 8#7 m 0#1) = _
  rw [decode_33 _ (fmtV_Major ..)]
  have hm := of_decide_eq_true h
  simp only [decodeVunary, fmtV_Rd, fmtV_Ra, fmtV_Rb, fmtV_Msel, fmtV_x, masked, maskSel, if_pos hm]; rfl
theorem vcvtFIu : ∀ rd ra m, Statement (.vcvtFIu rd ra m) := by
  intro rd ra m h
  change decode (fmtV 0x33#6 rd ra 9#7 m 0#1) = _
  rw [decode_33 _ (fmtV_Major ..)]
  have hm := of_decide_eq_true h
  simp only [decodeVunary, fmtV_Rd, fmtV_Ra, fmtV_Rb, fmtV_Msel, fmtV_x, masked, maskSel, if_pos hm]; rfl
theorem vcvtIF : ∀ rd ra m, Statement (.vcvtIF rd ra m) := by
  intro rd ra m h
  change decode (fmtV 0x33#6 rd ra 10#7 m 0#1) = _
  rw [decode_33 _ (fmtV_Major ..)]
  have hm := of_decide_eq_true h
  simp only [decodeVunary, fmtV_Rd, fmtV_Ra, fmtV_Rb, fmtV_Msel, fmtV_x, masked, maskSel, if_pos hm]; rfl
theorem vcvtIuF : ∀ rd ra m, Statement (.vcvtIuF rd ra m) := by
  intro rd ra m h
  change decode (fmtV 0x33#6 rd ra 11#7 m 0#1) = _
  rw [decode_33 _ (fmtV_Major ..)]
  have hm := of_decide_eq_true h
  simp only [decodeVunary, fmtV_Rd, fmtV_Ra, fmtV_Rb, fmtV_Msel, fmtV_x, masked, maskSel, if_pos hm]; rfl
theorem vwidenI : ∀ rd ra m, Statement (.vwidenI rd ra m) := by
  intro rd ra m h
  change decode (fmtV 0x33#6 rd ra 12#7 m 0#1) = _
  rw [decode_33 _ (fmtV_Major ..)]
  have hm := of_decide_eq_true h
  simp only [decodeVunary, fmtV_Rd, fmtV_Ra, fmtV_Rb, fmtV_Msel, fmtV_x, masked, maskSel, if_pos hm]; rfl
theorem vwidenIu : ∀ rd ra m, Statement (.vwidenIu rd ra m) := by
  intro rd ra m h
  change decode (fmtV 0x33#6 rd ra 13#7 m 0#1) = _
  rw [decode_33 _ (fmtV_Major ..)]
  have hm := of_decide_eq_true h
  simp only [decodeVunary, fmtV_Rd, fmtV_Ra, fmtV_Rb, fmtV_Msel, fmtV_x, masked, maskSel, if_pos hm]; rfl
theorem vnarrowI : ∀ rd ra m, Statement (.vnarrowI rd ra m) := by
  intro rd ra m h
  change decode (fmtV 0x33#6 rd ra 14#7 m 0#1) = _
  rw [decode_33 _ (fmtV_Major ..)]
  have hm := of_decide_eq_true h
  simp only [decodeVunary, fmtV_Rd, fmtV_Ra, fmtV_Rb, fmtV_Msel, fmtV_x, masked, maskSel, if_pos hm]; rfl
theorem vnarrowIs : ∀ rd ra m, Statement (.vnarrowIs rd ra m) := by
  intro rd ra m h
  change decode (fmtV 0x33#6 rd ra 15#7 m 0#1) = _
  rw [decode_33 _ (fmtV_Major ..)]
  have hm := of_decide_eq_true h
  simp only [decodeVunary, fmtV_Rd, fmtV_Ra, fmtV_Rb, fmtV_Msel, fmtV_x, masked, maskSel, if_pos hm]; rfl
theorem vfwiden : ∀ rd ra m, Statement (.vfwiden rd ra m) := by
  intro rd ra m h
  change decode (fmtV 0x33#6 rd ra 16#7 m 0#1) = _
  rw [decode_33 _ (fmtV_Major ..)]
  have hm := of_decide_eq_true h
  simp only [decodeVunary, fmtV_Rd, fmtV_Ra, fmtV_Rb, fmtV_Msel, fmtV_x, masked, maskSel, if_pos hm]; rfl
theorem vfnarrow : ∀ rd ra m, Statement (.vfnarrow rd ra m) := by
  intro rd ra m h
  change decode (fmtV 0x33#6 rd ra 17#7 m 0#1) = _
  rw [decode_33 _ (fmtV_Major ..)]
  have hm := of_decide_eq_true h
  simp only [decodeVunary, fmtV_Rd, fmtV_Ra, fmtV_Rb, fmtV_Msel, fmtV_x, masked, maskSel, if_pos hm]; rfl
theorem vrsum : ∀ rd ra m, Statement (.vrsum rd ra m) := by
  intro rd ra m h
  change decode (fmtV 0x34#6 rd ra 0#7 m 0#1) = _
  rw [decode_34 _ (fmtV_Major ..)]
  have hm := of_decide_eq_true h
  simp only [decodeVreduce, fmtV_Rd, fmtV_Ra, fmtV_Rb, fmtV_Msel, fmtV_x, masked, maskSel, if_pos hm]; rfl
theorem vrmax : ∀ rd ra m, Statement (.vrmax rd ra m) := by
  intro rd ra m h
  change decode (fmtV 0x34#6 rd ra 1#7 m 0#1) = _
  rw [decode_34 _ (fmtV_Major ..)]
  have hm := of_decide_eq_true h
  simp only [decodeVreduce, fmtV_Rd, fmtV_Ra, fmtV_Rb, fmtV_Msel, fmtV_x, masked, maskSel, if_pos hm]; rfl
theorem vrmin : ∀ rd ra m, Statement (.vrmin rd ra m) := by
  intro rd ra m h
  change decode (fmtV 0x34#6 rd ra 2#7 m 0#1) = _
  rw [decode_34 _ (fmtV_Major ..)]
  have hm := of_decide_eq_true h
  simp only [decodeVreduce, fmtV_Rd, fmtV_Ra, fmtV_Rb, fmtV_Msel, fmtV_x, masked, maskSel, if_pos hm]; rfl
theorem vrmaxu : ∀ rd ra m, Statement (.vrmaxu rd ra m) := by
  intro rd ra m h
  change decode (fmtV 0x34#6 rd ra 3#7 m 0#1) = _
  rw [decode_34 _ (fmtV_Major ..)]
  have hm := of_decide_eq_true h
  simp only [decodeVreduce, fmtV_Rd, fmtV_Ra, fmtV_Rb, fmtV_Msel, fmtV_x, masked, maskSel, if_pos hm]; rfl
theorem vrminu : ∀ rd ra m, Statement (.vrminu rd ra m) := by
  intro rd ra m h
  change decode (fmtV 0x34#6 rd ra 4#7 m 0#1) = _
  rw [decode_34 _ (fmtV_Major ..)]
  have hm := of_decide_eq_true h
  simp only [decodeVreduce, fmtV_Rd, fmtV_Ra, fmtV_Rb, fmtV_Msel, fmtV_x, masked, maskSel, if_pos hm]; rfl
theorem vredand : ∀ rd ra m, Statement (.vredand rd ra m) := by
  intro rd ra m h
  change decode (fmtV 0x34#6 rd ra 5#7 m 0#1) = _
  rw [decode_34 _ (fmtV_Major ..)]
  have hm := of_decide_eq_true h
  simp only [decodeVreduce, fmtV_Rd, fmtV_Ra, fmtV_Rb, fmtV_Msel, fmtV_x, masked, maskSel, if_pos hm]; rfl
theorem vredor : ∀ rd ra m, Statement (.vredor rd ra m) := by
  intro rd ra m h
  change decode (fmtV 0x34#6 rd ra 6#7 m 0#1) = _
  rw [decode_34 _ (fmtV_Major ..)]
  have hm := of_decide_eq_true h
  simp only [decodeVreduce, fmtV_Rd, fmtV_Ra, fmtV_Rb, fmtV_Msel, fmtV_x, masked, maskSel, if_pos hm]; rfl
theorem vredxor : ∀ rd ra m, Statement (.vredxor rd ra m) := by
  intro rd ra m h
  change decode (fmtV 0x34#6 rd ra 7#7 m 0#1) = _
  rw [decode_34 _ (fmtV_Major ..)]
  have hm := of_decide_eq_true h
  simp only [decodeVreduce, fmtV_Rd, fmtV_Ra, fmtV_Rb, fmtV_Msel, fmtV_x, masked, maskSel, if_pos hm]; rfl
theorem vfrsum : ∀ rd ra m, Statement (.vfrsum rd ra m) := by
  intro rd ra m h
  change decode (fmtV 0x34#6 rd ra 8#7 m 0#1) = _
  rw [decode_34 _ (fmtV_Major ..)]
  have hm := of_decide_eq_true h
  simp only [decodeVreduce, fmtV_Rd, fmtV_Ra, fmtV_Rb, fmtV_Msel, fmtV_x, masked, maskSel, if_pos hm]; rfl
theorem vfrmax : ∀ rd ra m, Statement (.vfrmax rd ra m) := by
  intro rd ra m h
  change decode (fmtV 0x34#6 rd ra 9#7 m 0#1) = _
  rw [decode_34 _ (fmtV_Major ..)]
  have hm := of_decide_eq_true h
  simp only [decodeVreduce, fmtV_Rd, fmtV_Ra, fmtV_Rb, fmtV_Msel, fmtV_x, masked, maskSel, if_pos hm]; rfl
theorem vfrmin : ∀ rd ra m, Statement (.vfrmin rd ra m) := by
  intro rd ra m h
  change decode (fmtV 0x34#6 rd ra 10#7 m 0#1) = _
  rw [decode_34 _ (fmtV_Major ..)]
  have hm := of_decide_eq_true h
  simp only [decodeVreduce, fmtV_Rd, fmtV_Ra, fmtV_Rb, fmtV_Msel, fmtV_x, masked, maskSel, if_pos hm]; rfl
theorem vscan : ∀ rd ra m, Statement (.vscan rd ra m) := by
  intro rd ra m h
  change decode (fmtV 0x34#6 rd ra 16#7 m 0#1) = _
  rw [decode_34 _ (fmtV_Major ..)]
  have hm := of_decide_eq_true h
  simp only [decodeVreduce, fmtV_Rd, fmtV_Ra, fmtV_Rb, fmtV_Msel, fmtV_x, masked, maskSel, if_pos hm]; rfl
theorem vfscan : ∀ rd ra m, Statement (.vfscan rd ra m) := by
  intro rd ra m h
  change decode (fmtV 0x34#6 rd ra 17#7 m 0#1) = _
  rw [decode_34 _ (fmtV_Major ..)]
  have hm := of_decide_eq_true h
  simp only [decodeVreduce, fmtV_Rd, fmtV_Ra, fmtV_Rb, fmtV_Msel, fmtV_x, masked, maskSel, if_pos hm]; rfl
theorem vscanx : ∀ rd ra m, Statement (.vscanx rd ra m) := by
  intro rd ra m h
  change decode (fmtV 0x34#6 rd ra 18#7 m 0#1) = _
  rw [decode_34 _ (fmtV_Major ..)]
  have hm := of_decide_eq_true h
  simp only [decodeVreduce, fmtV_Rd, fmtV_Ra, fmtV_Rb, fmtV_Msel, fmtV_x, masked, maskSel, if_pos hm]; rfl
theorem vrand : ∀ rd ra rb, Statement (.vrand rd ra rb) := by
  intro rd ra rb h
  change decode (fmtR 0x35#6 rd ra rb 0#5) = _
  rw [decode_35 _ (fmtR_Major ..)]
  simp only [decodeRandom, fmtR_Rd, fmtR_Ra, fmtR_Rb, fmtR_Fn]; rfl
theorem vrandf : ∀ rd ra rb, Statement (.vrandf rd ra rb) := by
  intro rd ra rb h
  change decode (fmtR 0x35#6 rd ra rb 1#5) = _
  rw [decode_35 _ (fmtR_Major ..)]
  simp only [decodeRandom, fmtR_Rd, fmtR_Ra, fmtR_Rb, fmtR_Fn]; rfl
theorem vrandm : ∀ rd ra rb, Statement (.vrandm rd ra rb) := by
  intro rd ra rb h
  change decode (fmtR 0x35#6 rd ra rb 2#5) = _
  rw [decode_35 _ (fmtR_Major ..)]
  simp only [decodeRandom, fmtR_Rd, fmtR_Ra, fmtR_Rb, fmtR_Fn]; rfl
theorem vld : ∀ rd ra rb m, Statement (.vld rd ra rb m) := by
  intro rd ra rb m h
  change decode (fmtV 0x36#6 rd ra rb m 0#1) = _
  rw [decode_36 _ (fmtV_Major ..)]
  have hm := of_decide_eq_true h
  simp only [decodeVmem, fmtV_Rd, fmtV_Ra, fmtV_Rb, fmtV_Msel, fmtV_Major, fmtV_x, masked, maskSel, if_pos hm]; rfl
theorem vldNb : ∀ rd ra rb m, Statement (.vldNb rd ra rb m) := by
  intro rd ra rb m h
  change decode (fmtV 0x36#6 rd ra rb m 1#1) = _
  rw [decode_36 _ (fmtV_Major ..)]
  have hm := of_decide_eq_true h
  simp only [decodeVmem, fmtV_Rd, fmtV_Ra, fmtV_Rb, fmtV_Msel, fmtV_Major, fmtV_x, masked, maskSel, if_pos hm]; rfl
theorem vst : ∀ rd ra rb m, Statement (.vst rd ra rb m) := by
  intro rd ra rb m h
  change decode (fmtV 0x37#6 rd ra rb m 0#1) = _
  rw [decode_37 _ (fmtV_Major ..)]
  have hm := of_decide_eq_true h
  simp only [decodeVmem, fmtV_Rd, fmtV_Ra, fmtV_Rb, fmtV_Msel, fmtV_Major, fmtV_x, masked, maskSel, if_pos hm]; rfl
theorem vstNb : ∀ rd ra rb m, Statement (.vstNb rd ra rb m) := by
  intro rd ra rb m h
  change decode (fmtV 0x37#6 rd ra rb m 1#1) = _
  rw [decode_37 _ (fmtV_Major ..)]
  have hm := of_decide_eq_true h
  simp only [decodeVmem, fmtV_Rd, fmtV_Ra, fmtV_Rb, fmtV_Msel, fmtV_Major, fmtV_x, masked, maskSel, if_pos hm]; rfl
theorem vldx : ∀ rd ra rb m, Statement (.vldx rd ra rb m) := by
  intro rd ra rb m h
  change decode (fmtV 0x38#6 rd ra rb m 0#1) = _
  rw [decode_38 _ (fmtV_Major ..)]
  have hm := of_decide_eq_true h
  simp only [decodeVmem, fmtV_Rd, fmtV_Ra, fmtV_Rb, fmtV_Msel, fmtV_Major, fmtV_x, masked, maskSel, if_pos hm]; rfl
theorem vldxNb : ∀ rd ra rb m, Statement (.vldxNb rd ra rb m) := by
  intro rd ra rb m h
  change decode (fmtV 0x38#6 rd ra rb m 1#1) = _
  rw [decode_38 _ (fmtV_Major ..)]
  have hm := of_decide_eq_true h
  simp only [decodeVmem, fmtV_Rd, fmtV_Ra, fmtV_Rb, fmtV_Msel, fmtV_Major, fmtV_x, masked, maskSel, if_pos hm]; rfl
theorem vstx : ∀ rd ra rb m, Statement (.vstx rd ra rb m) := by
  intro rd ra rb m h
  change decode (fmtV 0x39#6 rd ra rb m 0#1) = _
  rw [decode_39 _ (fmtV_Major ..)]
  have hm := of_decide_eq_true h
  simp only [decodeVmem, fmtV_Rd, fmtV_Ra, fmtV_Rb, fmtV_Msel, fmtV_Major, fmtV_x, masked, maskSel, if_pos hm]; rfl
theorem vstxNb : ∀ rd ra rb m, Statement (.vstxNb rd ra rb m) := by
  intro rd ra rb m h
  change decode (fmtV 0x39#6 rd ra rb m 1#1) = _
  rw [decode_39 _ (fmtV_Major ..)]
  have hm := of_decide_eq_true h
  simp only [decodeVmem, fmtV_Rd, fmtV_Ra, fmtV_Rb, fmtV_Msel, fmtV_Major, fmtV_x, masked, maskSel, if_pos hm]; rfl
theorem vaadd : ∀ rd ra rb m, Statement (.vaadd rd ra rb m) := by
  intro rd ra rb m h
  change decode (fmtV 0x3A#6 rd ra rb m 0#1) = _
  rw [decode_3A _ (fmtV_Major ..)]
  have hm := of_decide_eq_true h
  simp only [decodeVmem, fmtV_Rd, fmtV_Ra, fmtV_Rb, fmtV_Msel, fmtV_Major, fmtV_x, masked, maskSel, if_pos hm]; rfl
theorem vafadd : ∀ rd ra rb m, Statement (.vafadd rd ra rb m) := by
  intro rd ra rb m h
  change decode (fmtV 0x3A#6 rd ra rb m 1#1) = _
  rw [decode_3A _ (fmtV_Major ..)]
  have hm := of_decide_eq_true h
  simp only [decodeVmem, fmtV_Rd, fmtV_Ra, fmtV_Rb, fmtV_Msel, fmtV_Major, fmtV_x, masked, maskSel, if_pos hm]; rfl
theorem tld : ∀ rd t rs m, Statement (.tld rd t rs m) := by
  intro rd t rs m h
  change decode (fmtT 0x3B#6 rd t rs m 0#4) = _
  rw [decode_3B _ (fmtT_Major ..)]
  have hm := of_decide_eq_true h
  simp only [decodeTensor, fmtT_Rd, fmtT_fn, fmtT_m, fmtT_s, fmtT_t, maskSel, if_pos hm]; rfl
theorem tst : ∀ rd t rs m, Statement (.tst rd t rs m) := by
  intro rd t rs m h
  change decode (fmtT 0x3B#6 rd t rs m 1#4) = _
  rw [decode_3B _ (fmtT_Major ..)]
  have hm := of_decide_eq_true h
  simp only [decodeTensor, fmtT_Rd, fmtT_fn, fmtT_m, fmtT_s, fmtT_t, maskSel, if_pos hm]; rfl
theorem tldNb : ∀ rd t rs m, Statement (.tldNb rd t rs m) := by
  intro rd t rs m h
  change decode (fmtT 0x3B#6 rd t rs m 2#4) = _
  rw [decode_3B _ (fmtT_Major ..)]
  have hm := of_decide_eq_true h
  simp only [decodeTensor, fmtT_Rd, fmtT_fn, fmtT_m, fmtT_s, fmtT_t, maskSel, if_pos hm]; rfl
theorem tstNb : ∀ rd t rs m, Statement (.tstNb rd t rs m) := by
  intro rd t rs m h
  change decode (fmtT 0x3B#6 rd t rs m 3#4) = _
  rw [decode_3B _ (fmtT_Major ..)]
  have hm := of_decide_eq_true h
  simp only [decodeTensor, fmtT_Rd, fmtT_fn, fmtT_m, fmtT_s, fmtT_t, maskSel, if_pos hm]; rfl
theorem mmav : ∀ az tB va sn m, Statement (.mmav az tB va sn m) := by
  intro az tB va sn m h
  have hm := of_decide_eq_true h
  change decode (0x3C#6 ++ az ++ tB ++ va ++ sn ++ m : BitVec 32) = _
  rw [decode_3C _ (by simp (disch := omega) only [fldMajor, take_high, Nat.reduceSub, take_all])]
  simp (disch := omega) only [decodeMatrix, maskSel, fldMajor, take_high, take_low, Nat.reduceSub, take_all, if_pos hm]; rfl
theorem mmat : ∀ az tB tA sn m, Statement (.mmat az tB tA sn m) := by
  intro az tB tA sn m h
  have hm := of_decide_eq_true h
  change decode (0x3D#6 ++ az ++ tB ++ tA ++ 0#3 ++ sn ++ m : BitVec 32) = _
  rw [decode_3D _ (by simp (disch := omega) only [fldMajor, take_high, Nat.reduceSub, take_all])]
  simp (disch := omega) only [decodeMatrix, maskSel, fldMajor, take_high, take_low, Nat.reduceSub, take_all, if_pos hm]; simp only [BitVec.getLsbD_append]; rfl
theorem mmatG : ∀ az tB tA sn m, Statement (.mmatG az tB tA sn m) := by
  intro az tB tA sn m h
  have hm := of_decide_eq_true h
  change decode (0x3D#6 ++ az ++ tB ++ tA ++ 4#3 ++ sn ++ m : BitVec 32) = _
  rw [decode_3D _ (by simp (disch := omega) only [fldMajor, take_high, Nat.reduceSub, take_all])]
  simp (disch := omega) only [decodeMatrix, maskSel, fldMajor, take_high, take_low, Nat.reduceSub, take_all, if_pos hm]; simp only [BitVec.getLsbD_append]; rfl
theorem mz : ∀ rd, Statement (.mz rd) := by
  intro rd h
  change decode (fmtR 0x3E#6 rd 0#7 0#7 0#5) = _
  rw [decode_3E _ (fmtR_Major ..)]
  simp only [decodeMatrixControl, fmtR_Rd, fmtR_Ra, fmtR_Rb, fmtR_Fn]; rfl
theorem mst : ∀ rd ra rb, Statement (.mst rd ra rb) := by
  intro rd ra rb h
  change decode (fmtR 0x3E#6 rd ra rb 1#5) = _
  rw [decode_3E _ (fmtR_Major ..)]
  simp only [decodeMatrixControl, fmtR_Rd, fmtR_Ra, fmtR_Rb, fmtR_Fn]; rfl
theorem mrd : ∀ rd ra rb, Statement (.mrd rd ra rb) := by
  intro rd ra rb h
  change decode (fmtR 0x3E#6 rd ra rb 2#5) = _
  rw [decode_3E _ (fmtR_Major ..)]
  simp only [decodeMatrixControl, fmtR_Rd, fmtR_Ra, fmtR_Rb, fmtR_Fn]; rfl
theorem msync : Statement .msync := by
  intro h
  change decode (fmtR 0x3E#6 0#7 0#7 0#7 3#5) = _
  rw [decode_3E _ (fmtR_Major ..)]
  simp only [decodeMatrixControl, fmtR_Rd, fmtR_Ra, fmtR_Rb, fmtR_Fn]; rfl
theorem mwr : ∀ rd ra rb, Statement (.mwr rd ra rb) := by
  intro rd ra rb h
  change decode (fmtR 0x3E#6 rd ra rb 4#5) = _
  rw [decode_3E _ (fmtR_Major ..)]
  simp only [decodeMatrixControl, fmtR_Rd, fmtR_Ra, fmtR_Rb, fmtR_Fn]; rfl
theorem ceresume : ∀ ra, Statement (.ceresume ra) := by
  intro ra h
  change decode (fmtR 0x3F#6 0#7 ra 0#7 0#5) = _
  rw [decode_3F _ (fmtR_Major ..)]
  simp only [decodeEngine, fmtR_Rd, fmtR_Ra, fmtR_Rb, fmtR_Fn]; rfl
theorem cecancel : ∀ ra, Statement (.cecancel ra) := by
  intro ra h
  change decode (fmtR 0x3F#6 0#7 ra 0#7 1#5) = _
  rw [decode_3F _ (fmtR_Major ..)]
  simp only [decodeEngine, fmtR_Rd, fmtR_Ra, fmtR_Rb, fmtR_Fn]; rfl
theorem cestat : ∀ rd ra, Statement (.cestat rd ra) := by
  intro rd ra h
  change decode (fmtR 0x3F#6 rd ra 0#7 2#5) = _
  rw [decode_3F _ (fmtR_Major ..)]
  simp only [decodeEngine, fmtR_Rd, fmtR_Ra, fmtR_Rb, fmtR_Fn]; rfl
theorem waitge : ∀ ra rb, Statement (.waitge ra rb) := by
  intro ra rb h
  change decode (fmtR 0x3F#6 0#7 ra rb 3#5) = _
  rw [decode_3F _ (fmtR_Major ..)]
  simp only [decodeEngine, fmtR_Rd, fmtR_Ra, fmtR_Rb, fmtR_Fn]; rfl
theorem waitt : ∀ ra, Statement (.waitt ra) := by
  intro ra h
  change decode (fmtR 0x3F#6 0#7 ra 0#7 4#5) = _
  rw [decode_3F _ (fmtR_Major ..)]
  simp only [decodeEngine, fmtR_Rd, fmtR_Ra, fmtR_Rb, fmtR_Fn]; rfl
theorem waitp : ∀ ra, Statement (.waitp ra) := by
  intro ra h
  change decode (fmtR 0x3F#6 0#7 ra 0#7 5#5) = _
  rw [decode_3F _ (fmtR_Major ..)]
  simp only [decodeEngine, fmtR_Rd, fmtR_Ra, fmtR_Rb, fmtR_Fn]; rfl
theorem claim : ∀ rd ra rb, Statement (.claim rd ra rb) := by
  intro rd ra rb h
  change decode (fmtR 0x3F#6 rd ra rb 6#5) = _
  rw [decode_3F _ (fmtR_Major ..)]
  simp only [decodeEngine, fmtR_Rd, fmtR_Ra, fmtR_Rb, fmtR_Fn]; rfl
theorem claimt : ∀ rd ra rb, Statement (.claimt rd ra rb) := by
  intro rd ra rb h
  change decode (fmtR 0x3F#6 rd ra rb 7#5) = _
  rw [decode_3F _ (fmtR_Major ..)]
  simp only [decodeEngine, fmtR_Rd, fmtR_Ra, fmtR_Rb, fmtR_Fn]; rfl
theorem launch : ∀ rd ra, Statement (.launch rd ra) := by
  intro rd ra h
  change decode (fmtR 0x3F#6 rd ra 0#7 8#5) = _
  rw [decode_3F _ (fmtR_Major ..)]
  simp only [decodeEngine, fmtR_Rd, fmtR_Ra, fmtR_Rb, fmtR_Fn]; rfl
theorem cancel : ∀ ra, Statement (.cancel ra) := by
  intro ra h
  change decode (fmtR 0x3F#6 0#7 ra 0#7 9#5) = _
  rw [decode_3F _ (fmtR_Major ..)]
  simp only [decodeEngine, fmtR_Rd, fmtR_Ra, fmtR_Rb, fmtR_Fn]; rfl
theorem exit : Statement .exit := by
  intro h
  change decode (fmtR 0x3F#6 0#7 0#7 0#7 10#5) = _
  rw [decode_3F _ (fmtR_Major ..)]
  simp only [decodeEngine, fmtR_Rd, fmtR_Ra, fmtR_Rb, fmtR_Fn]; rfl
theorem yield : Statement .yield := by
  intro h
  change decode (fmtR 0x3F#6 0#7 0#7 0#7 11#5) = _
  rw [decode_3F _ (fmtR_Major ..)]
  simp only [decodeEngine, fmtR_Rd, fmtR_Ra, fmtR_Rb, fmtR_Fn]; rfl
theorem gjoin : ∀ ra, Statement (.gjoin ra) := by
  intro ra h
  change decode (fmtR 0x3F#6 0#7 ra 0#7 12#5) = _
  rw [decode_3F _ (fmtR_Major ..)]
  simp only [decodeEngine, fmtR_Rd, fmtR_Ra, fmtR_Rb, fmtR_Fn]; rfl
theorem gleave : ∀ ra, Statement (.gleave ra) := by
  intro ra h
  change decode (fmtR 0x3F#6 0#7 ra 0#7 13#5) = _
  rw [decode_3F _ (fmtR_Major ..)]
  simp only [decodeEngine, fmtR_Rd, fmtR_Ra, fmtR_Rb, fmtR_Fn]; rfl
theorem gbar : ∀ ra, Statement (.gbar ra) := by
  intro ra h
  change decode (fmtR 0x3F#6 0#7 ra 0#7 14#5) = _
  rw [decode_3F _ (fmtR_Major ..)]
  simp only [decodeEngine, fmtR_Rd, fmtR_Ra, fmtR_Rb, fmtR_Fn]; rfl
theorem crs : ∀ rd ra rb, Statement (.crs rd ra rb) := by
  intro rd ra rb h
  change decode (fmtR 0x3F#6 rd ra rb 15#5) = _
  rw [decode_3F _ (fmtR_Major ..)]
  simp only [decodeEngine, fmtR_Rd, fmtR_Ra, fmtR_Rb, fmtR_Fn]; rfl
theorem car : ∀ rd ra rb, Statement (.car rd ra rb) := by
  intro rd ra rb h
  change decode (fmtR 0x3F#6 rd ra rb 16#5) = _
  rw [decode_3F _ (fmtR_Major ..)]
  simp only [decodeEngine, fmtR_Rd, fmtR_Ra, fmtR_Rb, fmtR_Fn]; rfl
theorem cbc : ∀ rd ra rb, Statement (.cbc rd ra rb) := by
  intro rd ra rb h
  change decode (fmtR 0x3F#6 rd ra rb 17#5) = _
  rw [decode_3F _ (fmtR_Major ..)]
  simp only [decodeEngine, fmtR_Rd, fmtR_Ra, fmtR_Rb, fmtR_Fn]; rfl
theorem cag : ∀ rd ra rb, Statement (.cag rd ra rb) := by
  intro rd ra rb h
  change decode (fmtR 0x3F#6 rd ra rb 18#5) = _
  rw [decode_3F _ (fmtR_Major ..)]
  simp only [decodeEngine, fmtR_Rd, fmtR_Ra, fmtR_Rb, fmtR_Fn]; rfl
theorem cbar : ∀ ra rb, Statement (.cbar ra rb) := by
  intro ra rb h
  change decode (fmtR 0x3F#6 0#7 ra rb 19#5) = _
  rw [decode_3F _ (fmtR_Major ..)]
  simp only [decodeEngine, fmtR_Rd, fmtR_Ra, fmtR_Rb, fmtR_Fn]; rfl
theorem cbarRt : ∀ ra rb, Statement (.cbarRt ra rb) := by
  intro ra rb h
  change decode (fmtR 0x3F#6 0#7 ra rb 20#5) = _
  rw [decode_3F _ (fmtR_Major ..)]
  simp only [decodeEngine, fmtR_Rd, fmtR_Ra, fmtR_Rb, fmtR_Fn]; rfl
theorem tldr : ∀ rd ra, Statement (.tldr rd ra) := by
  intro rd ra h
  change decode (fmtR 0x3F#6 rd ra 0#7 21#5) = _
  rw [decode_3F _ (fmtR_Major ..)]
  simp only [decodeEngine, fmtR_Rd, fmtR_Ra, fmtR_Rb, fmtR_Fn]; rfl
theorem tstr : ∀ rd ra, Statement (.tstr rd ra) := by
  intro rd ra h
  change decode (fmtR 0x3F#6 rd ra 0#7 22#5) = _
  rw [decode_3F _ (fmtR_Major ..)]
  simp only [decodeEngine, fmtR_Rd, fmtR_Ra, fmtR_Rb, fmtR_Fn]; rfl
theorem tset : ∀ rd ra rb, Statement (.tset rd ra rb) := by
  intro rd ra rb h
  change decode (fmtR 0x3F#6 rd ra rb 23#5) = _
  rw [decode_3F _ (fmtR_Major ..)]
  simp only [decodeEngine, fmtR_Rd, fmtR_Ra, fmtR_Rb, fmtR_Fn]; rfl
theorem tget : ∀ rd ra rb, Statement (.tget rd ra rb) := by
  intro rd ra rb h
  change decode (fmtR 0x3F#6 rd ra rb 24#5) = _
  rw [decode_3F _ (fmtR_Major ..)]
  simp only [decodeEngine, fmtR_Rd, fmtR_Ra, fmtR_Rb, fmtR_Fn]; rfl
theorem vshp : ∀ rd ra, Statement (.vshp rd ra) := by
  intro rd ra h
  change decode (fmtR 0x3F#6 rd ra 0#7 25#5) = _
  rw [decode_3F _ (fmtR_Major ..)]
  simp only [decodeEngine, fmtR_Rd, fmtR_Ra, fmtR_Rb, fmtR_Fn]; rfl
theorem ceprom : ∀ rd ra, Statement (.ceprom rd ra) := by
  intro rd ra h
  change decode (fmtR 0x3F#6 rd ra 0#7 26#5) = _
  rw [decode_3F _ (fmtR_Major ..)]
  simp only [decodeEngine, fmtR_Rd, fmtR_Ra, fmtR_Rb, fmtR_Fn]; rfl
theorem ceLaunch : Statement (.ceLaunch) := by exact fun h => absurd h Bool.false_ne_true
theorem vtypeWrite : ∀ x0, Statement (.vtypeWrite x0) := by intros; exact fun h => absurd h Bool.false_ne_true
theorem vlWrite : ∀ x0, Statement (.vlWrite x0) := by intros; exact fun h => absurd h Bool.false_ne_true
theorem vstartWrite : ∀ x0, Statement (.vstartWrite x0) := by intros; exact fun h => absurd h Bool.false_ne_true
theorem wbWrite : ∀ x0, Statement (.wbWrite x0) := by intros; exact fun h => absurd h Bool.false_ne_true
theorem nbctrWrite : ∀ x0, Statement (.nbctrWrite x0) := by intros; exact fun h => absurd h Bool.false_ne_true
theorem mstatWrite : ∀ x0, Statement (.mstatWrite x0) := by intros; exact fun h => absurd h Bool.false_ne_true
theorem kstatusWrite : ∀ x0, Statement (.kstatusWrite x0) := by intros; exact fun h => absurd h Bool.false_ne_true
theorem ptbrWrite : ∀ x0 x1, Statement (.ptbrWrite x0 x1) := by intros; exact fun h => absurd h Bool.false_ne_true
theorem kbgrantWrite : ∀ x0, Statement (.kbgrantWrite x0) := by intros; exact fun h => absurd h Bool.false_ne_true
theorem registerWrite : ∀ x0 x1, Statement (.registerWrite x0 x1) := by intros; exact fun h => absurd h Bool.false_ne_true
theorem tlbinv : ∀ x0 x1, Statement (.tlbinv x0 x1) := by intros; exact fun h => absurd h Bool.false_ne_true
theorem invalidationComplete : ∀ x0, Statement (.invalidationComplete x0) := by intros; exact fun h => absurd h Bool.false_ne_true
theorem hmsgWrite : ∀ x0 x1 x2 x3, Statement (.hmsgWrite x0 x1 x2 x3) := by intros; exact fun h => absurd h Bool.false_ne_true
theorem hmsgRead : ∀ x0 x1 x2, Statement (.hmsgRead x0 x1 x2) := by intros; exact fun h => absurd h Bool.false_ne_true
theorem devmsg : ∀ x0, Statement (.devmsg x0) := by intros; exact fun h => absurd h Bool.false_ne_true
theorem hevqd : ∀ x0, Statement (.hevqd x0) := by intros; exact fun h => absurd h Bool.false_ne_true
theorem detectWrite : ∀ x0 x1, Statement (.detectWrite x0 x1) := by intros; exact fun h => absurd h Bool.false_ne_true
theorem timeoutWrite : ∀ x0 x1, Statement (.timeoutWrite x0 x1) := by intros; exact fun h => absurd h Bool.false_ne_true
theorem communicatorWord0Write : ∀ x0 x1 x2, Statement (.communicatorWord0Write x0 x1 x2) := by intros; exact fun h => absurd h Bool.false_ne_true
theorem drain : ∀ x0, Statement (.drain x0) := by intros; exact fun h => absurd h Bool.false_ne_true
theorem retrain : ∀ x0, Statement (.retrain x0) := by intros; exact fun h => absurd h Bool.false_ne_true
theorem loadrt : ∀ x0, Statement (.loadrt x0) := by intros; exact fun h => absurd h Bool.false_ne_true
theorem query : ∀ x0, Statement (.query x0) := by intros; exact fun h => absurd h Bool.false_ne_true
theorem portDrained : ∀ x0 x1, Statement (.portDrained x0 x1) := by intros; exact fun h => absurd h Bool.false_ne_true
theorem drainTimeout : ∀ x0 x1, Statement (.drainTimeout x0 x1) := by intros; exact fun h => absurd h Bool.false_ne_true
theorem trainingSuccess : ∀ x0 x1, Statement (.trainingSuccess x0 x1) := by intros; exact fun h => absurd h Bool.false_ne_true
theorem trainingTimeout : ∀ x0 x1, Statement (.trainingTimeout x0 x1) := by intros; exact fun h => absurd h Bool.false_ne_true
theorem verifyResult : ∀ x0 x1 x2, Statement (.verifyResult x0 x1 x2) := by intros; exact fun h => absurd h Bool.false_ne_true
theorem preEmpt : Statement (.preEmpt) := by exact fun h => absurd h Bool.false_ne_true
theorem timer : Statement (.timer) := by exact fun h => absurd h Bool.false_ne_true
theorem transferMemoryError : Statement (.transferMemoryError) := by exact fun h => absurd h Bool.false_ne_true
theorem hostMessage : Statement (.hostMessage) := by exact fun h => absurd h Bool.false_ne_true
theorem queueDeadlock : Statement (.queueDeadlock) := by exact fun h => absurd h Bool.false_ne_true
theorem elementGroupStart : Statement (.elementGroupStart) := by exact fun h => absurd h Bool.false_ne_true
theorem elementGroupWrite : Statement (.elementGroupWrite) := by exact fun h => absurd h Bool.false_ne_true
theorem loadDataArrival : Statement (.loadDataArrival) := by exact fun h => absurd h Bool.false_ne_true
theorem nbCounterIncrement : Statement (.nbCounterIncrement) := by exact fun h => absurd h Bool.false_ne_true
theorem linkEntryStaging : Statement (.linkEntryStaging) := by exact fun h => absurd h Bool.false_ne_true
theorem trussEntryStart : Statement (.trussEntryStart) := by exact fun h => absurd h Bool.false_ne_true
theorem trussEntryComplete : Statement (.trussEntryComplete) := by exact fun h => absurd h Bool.false_ne_true
theorem deferredQueuePush : ∀ x0, Statement (.deferredQueuePush x0) := by intros; exact fun h => absurd h Bool.false_ne_true
theorem copyUnit : ∀ x0, Statement (.copyUnit x0) := by intros; exact fun h => absurd h Bool.false_ne_true
theorem transferCompletion : ∀ x0, Statement (.transferCompletion x0) := by intros; exact fun h => absurd h Bool.false_ne_true
theorem waitgeWake : Statement (.waitgeWake) := by exact fun h => absurd h Bool.false_ne_true
theorem waittWake : Statement (.waittWake) := by exact fun h => absurd h Bool.false_ne_true
theorem waitpWake : Statement (.waitpWake) := by exact fun h => absurd h Bool.false_ne_true
theorem missedPromise : Statement (.missedPromise) := by exact fun h => absurd h Bool.false_ne_true
theorem generationComplete : ∀ x0 x1, Statement (.generationComplete x0 x1) := by intros; exact fun h => absurd h Bool.false_ne_true
theorem longModeGrant : ∀ x0 x1, Statement (.longModeGrant x0 x1) := by intros; exact fun h => absurd h Bool.false_ne_true
theorem dependenceMet : ∀ x0 x1, Statement (.dependenceMet x0 x1) := by intros; exact fun h => absurd h Bool.false_ne_true
theorem placement : ∀ x0, Statement (.placement x0) := by intros; exact fun h => absurd h Bool.false_ne_true
theorem spanStart : ∀ x0 x1, Statement (.spanStart x0 x1) := by intros; exact fun h => absurd h Bool.false_ne_true
theorem dispatch : ∀ x0 x1, Statement (.dispatch x0 x1) := by intros; exact fun h => absurd h Bool.false_ne_true
theorem threadRestore : ∀ x0 x1, Statement (.threadRestore x0 x1) := by intros; exact fun h => absurd h Bool.false_ne_true
theorem victimTermination : ∀ x0 x1, Statement (.victimTermination x0 x1) := by intros; exact fun h => absurd h Bool.false_ne_true
theorem launchCompletion : ∀ x0 x1, Statement (.launchCompletion x0 x1) := by intros; exact fun h => absurd h Bool.false_ne_true
theorem packetHop : ∀ x0 x1, Statement (.packetHop x0 x1) := by intros; exact fun h => absurd h Bool.false_ne_true
theorem requestAtHome : ∀ x0, Statement (.requestAtHome x0) := by intros; exact fun h => absurd h Bool.false_ne_true
theorem acknowledgement : ∀ x0, Statement (.acknowledgement x0) := by intros; exact fun h => absurd h Bool.false_ne_true
theorem faultResponse : ∀ x0, Statement (.faultResponse x0) := by intros; exact fun h => absurd h Bool.false_ne_true
theorem lostResponse : ∀ x0, Statement (.lostResponse x0) := by intros; exact fun h => absurd h Bool.false_ne_true
theorem detectTimeout : ∀ x0, Statement (.detectTimeout x0) := by intros; exact fun h => absurd h Bool.false_ne_true
theorem packageTokenVisit : ∀ x0, Statement (.packageTokenVisit x0) := by intros; exact fun h => absurd h Bool.false_ne_true
theorem podTokenVisit : Statement (.podTokenVisit) := by exact fun h => absurd h Bool.false_ne_true
theorem packageTokenReissue : ∀ x0, Statement (.packageTokenReissue x0) := by intros; exact fun h => absurd h Bool.false_ne_true
theorem podTokenReissue : Statement (.podTokenReissue) := by exact fun h => absurd h Bool.false_ne_true
theorem suspectSunk : ∀ x0, Statement (.suspectSunk x0) := by intros; exact fun h => absurd h Bool.false_ne_true
theorem l1FillArrival : ∀ x0 x1, Statement (.l1FillArrival x0 x1) := by intros; exact fun h => absurd h Bool.false_ne_true
theorem windowFillArrival : ∀ x0, Statement (.windowFillArrival x0) := by intros; exact fun h => absurd h Bool.false_ne_true
theorem chunkSend : ∀ x0, Statement (.chunkSend x0) := by intros; exact fun h => absurd h Bool.false_ne_true
theorem contributionArrival : ∀ x0, Statement (.contributionArrival x0) := by intros; exact fun h => absurd h Bool.false_ne_true
theorem barrierMessage : ∀ x0, Statement (.barrierMessage x0) := by intros; exact fun h => absurd h Bool.false_ne_true
theorem collectiveCompletion : ∀ x0 x1, Statement (.collectiveCompletion x0 x1) := by intros; exact fun h => absurd h Bool.false_ne_true
theorem frameResend : ∀ x0, Statement (.frameResend x0) := by intros; exact fun h => absurd h Bool.false_ne_true
theorem frameAck : ∀ x0, Statement (.frameAck x0) := by intros; exact fun h => absurd h Bool.false_ne_true
theorem budgetPeriod : Statement (.budgetPeriod) := by exact fun h => absurd h Bool.false_ne_true
theorem packageReset : ∀ x0, Statement (.packageReset x0) := by intros; exact fun h => absurd h Bool.false_ne_true
theorem wavelengthLockTimeout : ∀ x0, Statement (.wavelengthLockTimeout x0) := by intros; exact fun h => absurd h Bool.false_ne_true
theorem sensorSample : ∀ x0 x1 x2, Statement (.sensorSample x0 x1 x2) := by intros; exact fun h => absurd h Bool.false_ne_true
theorem keySlotLoad : ∀ x0 x1, Statement (.keySlotLoad x0 x1) := by intros; exact fun h => absurd h Bool.false_ne_true
theorem keySlotErase : ∀ x0 x1, Statement (.keySlotErase x0 x1) := by intros; exact fun h => absurd h Bool.false_ne_true
theorem fuseBlow : ∀ x0, Statement (.fuseBlow x0) := by intros; exact fun h => absurd h Bool.false_ne_true
theorem firmwareUpdate : ∀ x0 x1, Statement (.firmwareUpdate x0 x1) := by intros; exact fun h => absurd h Bool.false_ne_true
theorem attestationRequest : ∀ x0 x1, Statement (.attestationRequest x0 x1) := by intros; exact fun h => absurd h Bool.false_ne_true
theorem illegalInstruction : ∀ x0, Statement (.illegalInstruction x0) := by intros; exact fun h => absurd h Bool.false_ne_true
theorem wavelengthLock : ∀ x0, Statement (.wavelengthLock x0) := by intros; exact fun h => absurd h Bool.false_ne_true
theorem planeStopsDelivering : ∀ x0 x1 x2, Statement (.planeStopsDelivering x0 x1 x2) := by intros; exact fun h => absurd h Bool.false_ne_true
theorem stationBroughtBack : ∀ x0 x1, Statement (.stationBroughtBack x0 x1) := by intros; exact fun h => absurd h Bool.false_ne_true
theorem cancelArrival : ∀ x0 x1, Statement (.cancelArrival x0 x1) := by intros; exact fun h => absurd h Bool.false_ne_true
theorem resultDataArrival : ∀ x0, Statement (.resultDataArrival x0) := by intros; exact fun h => absurd h Bool.false_ne_true
theorem creditGrant : ∀ x0, Statement (.creditGrant x0) := by intros; exact fun h => absurd h Bool.false_ne_true
theorem collectiveFailureMessage : ∀ x0, Statement (.collectiveFailureMessage x0) := by intros; exact fun h => absurd h Bool.false_ne_true

end Sys2Proof.Laws.RoundTrip
end

