-- ==== Sys2Proof/Laws/Sum.lean ====
section
/-! SUPPORT. The residues of adders (R96, R97): r(w) is the pattern mod 4,095, and an adder that adds exactly passes its check. -/

set_option Elab.async false

namespace Sys2Proof.Machine

/-- The 12-bit chunks of a number have its value mod 4,095. -/
theorem chunks_mod (k x : Nat) :
    ((List.range k).map fun i => x / 2 ^ (12 * i) % 2 ^ 12).sum % 4095 = x % 2 ^ (12 * k) % 4095 := by
  induction k with
  | zero => simp [Nat.mod_one]
  | succ k ih =>
    rw [List.range_succ, List.map_append, List.sum_append, Nat.add_mod, ih]
    simp only [List.map_cons, List.map_nil, List.sum_cons, List.sum_nil, Nat.add_zero]
    rw [show 12 * (k + 1) = 12 * k + 12 by omega, Nat.pow_add, Nat.mod_mul, Nat.add_mod (x % _), Nat.mul_mod (2 ^ (12 * k))]
    have : 2 ^ (12 * k) % 4095 = 1 := by
      rw [Nat.pow_mul, Nat.pow_mod]; simp
    rw [this]
    simp

/-- r(w) is the pattern mod 4,095 (R96). -/
theorem residueOf_mod {n : Nat} (w : BitVec n) : residueOf w = w.toNat % 4095 := by
  unfold residueOf
  have h := chunks_mod ((n + 11) / 12) w.toNat
  rw [Nat.mod_eq_of_lt (a := w.toNat) (Nat.lt_of_lt_of_le w.isLt (Nat.pow_le_pow_right (by decide) (by omega)))] at h
  rw [← h]
  congr 2
  apply List.map_congr_left
  intro i _
  simp [BitVec.extractLsb'_toNat, Nat.shiftRight_eq_div_pow]

/-- What an adder expects of w + c is the residue of its sum, where 2^n is 256 mod 4,095 (R96). -/
theorem expectedResidue_add {n : Nat} (hn : 2 ^ n % 4095 = 256) (w c : BitVec n) : residueOf (w + c) = expectedResidue w c := by
  unfold expectedResidue
  simp only [residueOf_mod, BitVec.toNat_add]
  have h1 := w.isLt
  have h2 := c.isLt
  generalize 2 ^ n = N at *
  split
  · rename_i h
    rw [Nat.mod_eq_sub_mod h, Nat.mod_eq_of_lt (a := w.toNat + c.toNat - N) (by omega)]
    omega
  · rename_i h
    rw [Nat.mod_eq_of_lt (a := w.toNat + c.toNat) (Nat.lt_of_not_le h)]
    omega

/-- An adder that adds exactly passes its check (R96). -/
theorem sumChecks_true (w : BitVec 128) (x : FpVal) : sumChecks w x = true := by
  unfold sumChecks
  split
  · rename_i neg m e
    simp only [Bool.or_eq_true, bne_iff_ne, ne_eq, beq_iff_eq]
    by_cases h : (sumAdd w (.num neg m e)).2 = 0
    · right
      rw [← expectedResidue_add (by decide)]
      congr 1
      unfold sumAdd at h ⊢
      simp only at h ⊢
      split
      · rename_i h'; rw [if_pos h'] at h; exact absurd h (by decide)
      · split
        · rename_i h1 h'; rw [if_neg h1, if_pos h'] at h; exact absurd h (by decide)
        · simp [BitVec.ofInt_add, contributionWord]
    · exact .inl h
  · rfl

/-- The mismatches that an atomic's adder meets are those of the turn. -/
theorem adderMisses_eq (op : AtomicOp) (v : Word) (old : Nat) (s : State) :
    adderMisses op v old s = if isAdder op then s.turn.residue else 0 := by
  unfold adderMisses
  cases op <;> simp [isAdder, sumChecks_true]

@[simp] theorem checkAdd_zero (a : Nat) (s : State) : checkAdd 0 a s = (true, s) := rfl

end Sys2Proof.Machine
end

