-- ==== Sys2Proof/Laws/VecRun.lean ====
section
/-! SUPPORT. The vector stream at work on one entry: a word that enters an idle stream runs to its end within the step, element
group by element group, and what it leaves is its writes in order, its flags, its queues popped. -/

set_option Elab.async false

namespace Sys2Proof.Machine

open Host (Outcome)
open Claims (withVq issue performed Idle)

/-! ## What does not look at the vector queue -/

@[simp] theorem withVq_withVq (p q : List VEntry) (t : Thread) : withVq p (withVq q t) = withVq p t := rfl

theorem withVq_eq {t : Thread} {q : List VEntry} (h : t.v.vq = q) : withVq q t = t := by subst h; rfl

@[simp] theorem retire_withVq (q : List VEntry) (t : Thread) : retire (withVq q t) = withVq q (retire t) := by
  obtain ⟨place, host, status, pc, sc, shp, u, ce, k, v, tq, tr, issued, wait, loop, yielded, replies, acting⟩ := t
  cases loop with
  | none => rfl
  | some l =>
    simp only [retire, retireBody, withVq]
    by_cases h1 : lctlPos u.lctl < lctlLen u.lctl
    · simp [h1]
    · by_cases h2 : (advanceNest l.nest u.li).2 = true
      · simp [h1, h2]
      · simp [h1, h2]

theorem setQueue_withVq (q : Nat) (l : List Word) (es : List VEntry) (t : Thread) :
    setQueue q l (withVq es t) = withVq es (setQueue q l t) := rfl

theorem addFlags_withVq (fl : BitVec 5) (q : List VEntry) (t : Thread) : addFlags fl (withVq q t) = withVq q (addFlags fl t) := rfl

theorem setLanded_withVq (b : Bool) (rs : List Nat) (q : List VEntry) (t : Thread) :
    setLanded b rs (withVq q t) = withVq q (setLanded b rs t) := rfl

theorem withHead_withVq (f : VEntry → VEntry) (e : VEntry) (es : List VEntry) (t : Thread) :
    withHead f (withVq (e :: es) t) = withVq (f e :: es) t := rfl

/-- An entry leaves the queue of a thread that waits for nothing. -/
theorem dropHead_withVq (e : VEntry) (es : List VEntry) (t : Thread) (h : t.wait = none) :
    dropHead (withVq (e :: es) t) = withVq es t := by
  obtain ⟨place, host, status, pc, sc, shp, u, ce, k, v, tq, tr, issued, wait, loop, yielded, replies, acting⟩ := t
  subst h; rfl

theorem applyWrite_withVq (long : Bool) (q : List VEntry) (t : Thread) (w : VWrite) :
    applyWrite long (withVq q t) w = withVq q (applyWrite long t w) := by
  cases w with
  | elem r i w v =>
    cases long with
    | false => rfl
    | true =>
      simp only [applyWrite, writeElem, if_true]
      show (match t.v.long with | some c => _ | none => _) = _
      cases t.v.long <;> rfl
  | bit k i b =>
    cases long with
    | false => rfl
    | true =>
      simp only [applyWrite, writeMaskBit, if_true]
      show (match t.v.long with | some c => _ | none => _) = _
      cases t.v.long <;> rfl
  | push q v => rfl

theorem applyWrites_withVq (long : Bool) (q : List VEntry) (ws : List VWrite) (t : Thread) :
    ws.foldl (applyWrite long) (withVq q t) = withVq q (ws.foldl (applyWrite long) t) := by
  induction ws generalizing t with
  | nil => rfl
  | cons w ws ih => rw [List.foldl_cons, List.foldl_cons, applyWrite_withVq, ih]

theorem applyWrite_addFlags (long : Bool) (fl : BitVec 5) (t : Thread) (w : VWrite) :
    applyWrite long (addFlags fl t) w = addFlags fl (applyWrite long t w) := by
  cases w with
  | elem r i w v =>
    cases long with
    | false => rfl
    | true =>
      simp only [applyWrite, writeElem, if_true]
      show (match t.v.long with | some c => _ | none => _) = _
      cases t.v.long <;> rfl
  | bit k i b =>
    cases long with
    | false => rfl
    | true =>
      simp only [applyWrite, writeMaskBit, if_true]
      show (match t.v.long with | some c => _ | none => _) = _
      cases t.v.long <;> rfl
  | push q v => rfl

theorem applyWrites_addFlags (long : Bool) (fl : BitVec 5) (ws : List VWrite) (t : Thread) :
    ws.foldl (applyWrite long) (addFlags fl t) = addFlags fl (ws.foldl (applyWrite long) t) := by
  induction ws generalizing t with
  | nil => rfl
  | cons w ws ih => rw [List.foldl_cons, List.foldl_cons, applyWrite_addFlags, ih]

theorem addFlags_addFlags (a b : BitVec 5) (t : Thread) : addFlags a (addFlags b t) = addFlags (b ||| a) t := by
  simp [addFlags, BitVec.or_assoc]

theorem addFlags_zero (t : Thread) : addFlags 0 t = t := by
  simp [addFlags]

/-! ## What writes leave alone -/

/-- The fields of a thread that no write of the vector stream changes. -/
def SameSide (t u : Thread) : Prop :=
  u.place = t.place ∧ u.host = t.host ∧ u.k = t.k ∧ u.tq = t.tq ∧ u.tr = t.tr ∧ u.v.nbq = t.v.nbq ∧ u.v.held = t.v.held
    ∧ u.v.long.isSome = t.v.long.isSome ∧ u.wait = t.wait ∧ threadId u = threadId t

theorem sameSide_applyWrite (long : Bool) (t : Thread) (w : VWrite) : SameSide t (applyWrite long t w) := by
  cases w with
  | elem r i w v =>
    cases long with
    | false => exact ⟨rfl, rfl, rfl, rfl, rfl, rfl, rfl, rfl, rfl, rfl⟩
    | true =>
      cases h : t.v.long <;> simp [SameSide, applyWrite, writeElem, h, threadId]
  | bit k i b =>
    cases long with
    | false => exact ⟨rfl, rfl, rfl, rfl, rfl, rfl, rfl, rfl, rfl, rfl⟩
    | true =>
      cases h : t.v.long <;> simp [SameSide, applyWrite, writeMaskBit, h, threadId]
  | push q v => exact ⟨rfl, rfl, rfl, rfl, rfl, rfl, rfl, rfl, rfl, rfl⟩

theorem SameSide.trans {t u w : Thread} (h : SameSide t u) (h' : SameSide u w) : SameSide t w := by
  unfold SameSide at *
  obtain ⟨a1, a2, a3, a4, a5, a6, a7, a8, a9, a10⟩ := h
  obtain ⟨b1, b2, b3, b4, b5, b6, b7, b8, b9, b10⟩ := h'
  exact ⟨b1.trans a1, b2.trans a2, b3.trans a3, b4.trans a4, b5.trans a5, b6.trans a6, b7.trans a7, b8.trans a8, b9.trans a9,
    b10.trans a10⟩

theorem SameSide.refl (t : Thread) : SameSide t t := ⟨rfl, rfl, rfl, rfl, rfl, rfl, rfl, rfl, rfl, rfl⟩

theorem sameSide_applyWrites (long : Bool) (ws : List VWrite) (t : Thread) : SameSide t (ws.foldl (applyWrite long) t) := by
  induction ws generalizing t with
  | nil => exact .refl t
  | cons w ws ih => exact (sameSide_applyWrite long t w).trans (ih _)

theorem sameSide_addFlags (fl : BitVec 5) (t : Thread) : SameSide t (addFlags fl t) := ⟨rfl, rfl, rfl, rfl, rfl, rfl, rfl, rfl, rfl, rfl⟩

/-- What the stream has out on other dies is known by its thread's ids and place. -/
theorem streamPackets_thr {s : State} {t : Thread} (hi : threadId t = threadId s.thr) (hp : t.place = s.thr.place) :
    streamPackets { s with thr := t } = streamPackets s := by
  unfold streamPackets ownPacket; simp only [hi, hp]

theorem SameSide.packets {s : State} {t u : Thread} (h : SameSide t u) (ho : streamPackets { s with thr := t } = []) (q : List VEntry) :
    streamPackets { s with thr := withVq q u } = [] := by
  obtain ⟨h1, -, -, -, -, -, -, -, -, h10⟩ := h
  rw [← ho]
  exact streamPackets_thr (s := { s with thr := t }) h10 h1

/-- The queues that no push of a list of writes names stay. -/
theorem queueAt_applyWrites (long : Bool) (ws : List VWrite) (t : Thread) (h : ∀ q v, VWrite.push q v ∉ ws) :
    (ws.foldl (applyWrite long) t).sc = t.sc := by
  induction ws generalizing t with
  | nil => rfl
  | cons w ws ih =>
    rw [List.foldl_cons, ih _ fun q v hm => h q v (List.mem_cons_of_mem _ hm)]
    cases w with
    | elem r i w v =>
      cases long with
      | false => rfl
      | true => cases hl : t.v.long <;> simp [applyWrite, writeElem, hl]
    | bit k i b =>
      cases long with
      | false => rfl
      | true => cases hl : t.v.long <;> simp [applyWrite, writeMaskBit, hl]
    | push q v => exact absurd (List.mem_cons_self ..) (h q v)

/-! ## One entry on an idle stream -/

theorem interlock_nil (age : Nat) (s : State) : interlock age [] s = .ok () s := by
  simp [interlock, conflict, faultStopped, heldByColl, require]

/-- A word of the vector stream that is no memory word, no marker and no link entry. -/
structure Quiet (i : Instr) : Prop where
  ranges : ∀ e : VEntry, e.ins = i → entryRanges e = []
  counter : ∀ e : VEntry, e.ins = i → noteCounter e = pure ()
  marker : ∀ e : VEntry, e.ins = i → isMarker e = false
  blocking : ∀ e : VEntry, e.ins = i → nonBlocking e = false

/-- Entries that differ in their progress only. -/
structure SameWork (e e' : VEntry) : Prop where
  ins : e'.ins = e.ins
  age : e'.age = e.age
  rep : e'.rep = e.rep
  vl : e'.vl = e.vl
  vtype : e'.vtype = e.vtype
  long : e'.long = e.long
  vstart : e'.vstart = e.vstart
  caps : e'.caps = e.caps
  nest : e'.nest = e.nest
  shape : e'.shape = e.shape
  nbctr : e'.nbctr = e.nbctr
  rthr : e'.rthr = e.rthr
  kernel : e'.kernel = e.kernel
  link : e'.link = e.link
  j : e'.j = e.j
  ctr : e'.ctr = e.ctr

/-- An entry of one word with no prefix that stands at a position with an empty result buffer. -/
structure Fresh (e : VEntry) : Prop where
  rep : e.rep = none
  link : e.link = none
  j : e.j = 0
  buf : e.buf = []
  ctr : e.ctr = none
  opened : e.opened = false

theorem streamTurn_ok {s t : State} {u : Unit} (h : streamStep s = .ok u t) : streamTurn s = some t := by
  unfold streamTurn; rw [h]; rfl

theorem settle_some {s t : State} {n : Nat} (h : streamTurn s = some t) : settle (n + 1) s = settle n t := by
  simp [settle, h]

theorem counterReady_nil {s : State} (hn : s.thr.v.nbq = []) : counterReady s = false := by unfold counterReady; rw [hn]

/-- An idle stream has nothing to do. -/
theorem settle_idle {s : State} (hq : s.thr.v.vq = []) (hn : s.thr.v.nbq = []) (n : Nat) : settle n s = s := by
  cases n with
  | zero => rfl
  | succ n =>
    have : streamTurn s = none := by
      unfold streamTurn streamStep
      simp only [run_bind, run_read, counterReady_nil hn, Bool.false_eq_true, if_false]
      unfold liveHead enabled require headOf
      simp only [run_bind, run_read, hq]
      by_cases hh : s.thr.v.held = none <;> simp [hh, streamEnd]
    simp [settle, this]

theorem liveHead_ok {s : State} {e : VEntry} {es : List VEntry} (hq : s.thr.v.vq = e :: es) (hh : s.thr.v.held = none) :
    liveHead s = .ok e s := by
  simp [liveHead, enabled, require, headOf, hq, hh]

/-- The stream's next step where its head computes. -/
theorem streamStep_start {s : State} {e : VEntry} {es : List VEntry} (hq : s.thr.v.vq = e :: es) (hh : s.thr.v.held = none)
    (hn : s.thr.v.nbq = []) (hl : e.link = none) (hm : isMarker e = false) (hb : e.buf = []) :
    streamStep s = startGroup s := by
  unfold streamStep
  simp only [run_bind, run_read, counterReady_nil hn, liveHead_ok hq hh, hl, hm, hb, Bool.false_eq_true, true_or, if_false, if_true]

theorem streamStep_write {s : State} {e : VEntry} {es : List VEntry} (hq : s.thr.v.vq = e :: es) (hh : s.thr.v.held = none)
    (hn : s.thr.v.nbq = []) (hl : e.link = none) (hm : isMarker e = false) (hb : e.buf ≠ []) (ho : e.opened = false) :
    streamStep s = writeElems s := by
  unfold streamStep
  simp only [run_bind, run_read, counterReady_nil hn, liveHead_ok hq hh, hl, hm, hb, ho, Bool.false_eq_true, or_self, if_false]

/-- What the checks before a push ask. -/
def pushesFit (t : Thread) (ws : List VWrite) : Prop := ∀ q v, VWrite.push q v ∈ ws → (queueAt t q).length < 16

theorem forEach_all {α : Type} {g : α → Op Unit} {l : List α} {s : State} (h : ∀ x ∈ l, g x s = .ok () s) :
    forEach l g s = .ok () s := by
  induction l with
  | nil => rfl
  | cons x l ih =>
    rw [run_forEach_cons, h x (List.mem_cons_self ..)]
    exact ih fun y hy => h y (List.mem_cons_of_mem _ hy)

theorem pendingDests_nil {s : State} (h : streamPackets s = []) : pendingDests s = [] := by simp [pendingDests, h]

theorem outFor_nil {s : State} (h : streamPackets s = []) (age : Nat) : outFor s age = false := by simp [outFor, h]

@[simp] theorem popFold_v (l : List Nat) (t : Thread) :
    (l.foldl (fun u q => setQueue q (queueAt u q).tail u) t).v = t.v := by
  induction l generalizing t with
  | nil => rfl
  | cons q l ih => rw [List.foldl_cons, ih]; rfl

@[simp] theorem popFold_u (l : List Nat) (t : Thread) :
    (l.foldl (fun u q => setQueue q (queueAt u q).tail u) t).u = t.u := by
  induction l generalizing t with
  | nil => rfl
  | cons q l ih => rw [List.foldl_cons, ih]; rfl

@[simp] theorem popFold_place (l : List Nat) (t : Thread) :
    (l.foldl (fun u q => setQueue q (queueAt u q).tail u) t).place = t.place := by
  induction l generalizing t with
  | nil => rfl
  | cons q l ih => rw [List.foldl_cons, ih]; rfl

@[simp] theorem popFold_wait (l : List Nat) (t : Thread) :
    (l.foldl (fun u q => setQueue q (queueAt u q).tail u) t).wait = t.wait := by
  induction l generalizing t with
  | nil => rfl
  | cons q l ih => rw [List.foldl_cons, ih]; rfl

/-- A commit leaves the thread its ids and its place. -/
theorem commitRepeat_id (e : VEntry) (t : Thread) : threadId (commitRepeat e t) = threadId t ∧ (commitRepeat e t).place = t.place := by
  unfold commitRepeat
  split
  · exact ⟨rfl, rfl⟩
  · simp only
    split <;> simp [threadId, dropHead, withHead, setLanded]

/-- A blocking entry that commits holds no range. -/
theorem holdRange_blocking {e : VEntry} (h : nonBlocking e = false) (s : State) : holdRange e s = s := by simp [holdRange, h]

/-- The head writes its only buffered group; where that was the last, it commits. -/
theorem writeElems_ok {s : State} {e : VEntry} {ws : List VWrite} {fl : BitVec 5} (hq : s.thr.v.vq = [e])
    (hh : s.thr.v.held = none) (hb : e.buf = [(ws, fl)]) (hop : e.opened = false) (ho : streamPackets s = [])
    (hp : pushesFit s.thr ws) (hnb : nonBlocking e = false) :
    writeElems s = .ok () { s with thr :=
      let e' : VEntry := { e with buf := [], wpos := groupEnd (vtSew e.vtype) e.wpos e.vl }
      let t := withVq [e'] (addFlags fl (ws.foldl (applyWrite e.long) s.thr))
      if e.vl ≤ e.pos then commitRepeat e' t else t } := by
  have hs : ∀ (x : VEntry) (l : List VWrite), withHead (fun _ => x) (addFlags fl (l.foldl (applyWrite e.long) s.thr))
      = withVq [x] (addFlags fl (l.foldl (applyWrite e.long) s.thr)) := by
    intro x l
    have h1 : s.thr = withVq [e] s.thr := (withVq_eq hq).symm
    rw [h1, applyWrites_withVq, addFlags_withVq, withHead_withVq, withVq_withVq]
  have hside : SameSide s.thr (addFlags fl (ws.foldl (applyWrite e.long) s.thr)) :=
    (sameSide_applyWrites e.long ws s.thr).trans (sameSide_addFlags fl _)
  unfold writeElems
  simp only [run_bind, liveHead_ok hq hh, hb, run_read, enabled]
  rw [run_require (.inl hop)]
  simp only
  rw [run_require (.inr (.inr (.inr (outFor_nil ho _))))]
  simp only
  rw [forEach_all fun w hw => ?_]
  · simp only [run_modThr, hs, true_and]
    by_cases hv : e.vl ≤ e.pos
    · obtain ⟨h1, h2⟩ := commitRepeat_id { e with buf := [], wpos := groupEnd (vtSew e.vtype) e.wpos e.vl }
        (withVq [{ e with buf := [], wpos := groupEnd (vtSew e.vtype) e.wpos e.vl }]
          (addFlags fl (ws.foldl (applyWrite e.long) s.thr)))
      have hrange := holdRange_blocking (e := { e with buf := [], wpos := groupEnd (vtSew e.vtype) e.wpos e.vl }) hnb
      simp only [hv, if_true, run_bind, run_modThr, run_update, run_read, hrange]
      rw [pendingDests_nil]
      · rfl
      · exact (streamPackets_thr (s := s) (h1.trans hside.2.2.2.2.2.2.2.2.2) (h2.trans hside.1)).trans ho
    · simp only [hv, if_false, run_bind, run_modThr, run_read]
      rw [pendingDests_nil]
      · rfl
      · exact hside.packets ho _
  · cases w with
    | elem r i w v => rfl
    | bit k i b => rfl
    | push q v => exact run_require (hp q v hw) _ _

/-- Committing the only repeat of an entry. -/
theorem commitRepeat_ok {e : VEntry} {t : Thread} {v : VSpec} {f : VFields} (hw : vword e.ins = some (v, f)) (hr : e.rep = none)
    (hj : e.j = 0) (hc : e.ctr = none) (hwt : t.wait = none) :
    commitRepeat e (withVq [e] t) = withVq [] (setLanded true (destRegs e.ins v f e.long)
      ((popsOf v f).foldl (fun u q => setQueue q (queueAt u q).tail u) t)) := by
  have hp : ∀ (l : List Nat) (u : Thread), l.foldl (fun u q => setQueue q (queueAt u q).tail u) (withVq [e] u)
      = withVq [e] (l.foldl (fun u q => setQueue q (queueAt u q).tail u) u) := by
    intro l
    induction l with
    | nil => intro u; rfl
    | cons q l ih => intro u; rw [List.foldl_cons, List.foldl_cons]; exact ih (setQueue q (queueAt u q).tail u)
  unfold commitRepeat
  simp only [hw, hr, VFields.atRepeat, hp, setLanded_withVq, hc, entryCount, hj, Nat.zero_add, Nat.lt_irrefl, if_false,
    Option.toList_none, List.append_nil]
  exact dropHead_withVq e [] _ ((popFold_wait _ _).trans hwt)

/-- What the head of the stream sees. -/
theorem headCtx_ok {s : State} {e : VEntry} {v : VSpec} {f : VFields} {x : Word × Word} (hw : vword e.ins = some (v, f))
    (hr : e.rep = none) (hs : scalarsOf s.thr e v f = .ok x) :
    headCtx e s = .ok (v, ⟨s.thr, e, f, x.1, x.2⟩) s := by
  unfold headCtx
  simp only [run_bind, hw, run_orStop_some, run_read, hr, VFields.atRepeat, hs, run_pure]

/-- The results of a group: the writes of its active positions in order, and their flags. -/
def groupResult (c : LaneCtx) (g : LaneCtx → Nat → List VWrite × BitVec 5) (is : List Nat) : List VWrite × BitVec 5 :=
  let rs := (is.filter c.active).map (g c)
  ((rs.map Prod.fst).flatten, rs.foldl (fun fl r => fl ||| r.2) 0)

theorem bufferRoom_pos (t : Thread) (e : VEntry) : 0 < bufferRoom t e := by
  unfold bufferRoom; split <;> omega

theorem waitLanded_ok {s : State} (h : streamPackets s = []) (long : Bool) (rs : List Nat) : waitLanded long rs s = .ok () s := by
  simp [waitLanded, pendingDests_nil h, require]

/-- The checks before a group of a word that makes no access pass where nothing is out. -/
theorem startGroup_head {s : State} {e : VEntry} {v : VSpec} {f : VFields} {x : Word × Word} (hq : s.thr.v.vq = [e])
    (hh : s.thr.v.held = none) (hw : vword e.ins = some (v, f)) (hi : Quiet e.ins) (hr : e.rep = none) (hb : e.buf = [])
    (ho : streamPackets s = []) (hc : e.checked = false ∨ e.pos < e.vl) (hs : scalarsOf s.thr e v f = .ok x) :
    startGroup s = startSem ⟨s.thr, e, f, x.1, x.2⟩ v.sem s := by
  have hl : (if e.checked = true then pure () else waitLanded e.long (namedRegs v f) : Op Unit) s = .ok () s := by
    split
    · rfl
    · exact waitLanded_ok ho _ _
  unfold startGroup
  simp only [run_bind, liveHead_ok hq hh, enabled, run_read]
  rw [run_require (.inr ⟨hc, by rw [hb]; exact bufferRoom_pos _ _⟩)]
  simp only [headCtx_ok hw hr hs]
  rw [show (if e.checked = true then (do interlock e.age (entryRanges e); noteCounter e; startSem ⟨s.thr, e, f, x.1, x.2⟩ v.sem)
    else do
      waitLanded e.long (namedRegs v f)
      interlock e.age (entryRanges e)
      noteCounter e
      startSem ⟨s.thr, e, f, x.1, x.2⟩ v.sem) = ((if e.checked = true then pure () else waitLanded e.long (namedRegs v f) : Op Unit)
        >>= fun _ => do interlock e.age (entryRanges e); noteCounter e; startSem ⟨s.thr, e, f, x.1, x.2⟩ v.sem) from ?_]
  · simp only [run_bind, hl, hi.ranges e rfl, interlock_nil, hi.counter e rfl, run_pure]
  · split <;> rfl

/-- A word that computes element by element starts a group. -/
theorem startGroup_lanes {s : State} {e : VEntry} {v : VSpec} {f : VFields} {x : Word × Word}
    {g : LaneCtx → Nat → List VWrite × BitVec 5} (hq : s.thr.v.vq = [e]) (hh : s.thr.v.held = none)
    (hw : vword e.ins = some (v, f)) (hi : Quiet e.ins) (hr : e.rep = none) (hb : e.buf = [])
    (ho : streamPackets s = []) (hc : e.checked = false ∨ e.pos < e.vl) (hs : scalarsOf s.thr e v f = .ok x) (hg : v.sem = .lanes g) :
    startGroup s = .ok () { s with thr := withVq (
      [{ e with buf := [groupResult ⟨s.thr, e, f, x.1, x.2⟩ g (groupPositions (vtSew e.vtype) e.pos e.vl)], checked := true,
                pos := groupEnd (vtSew e.vtype) e.pos e.vl }]) s.thr } := by
  rw [startGroup_head hq hh hw hi hr hb ho hc hs, hg]
  simp only [startSem, modHead, run_modThr]
  congr 2
  conv => lhs; rw [← withVq_eq hq, withHead_withVq]
  simp only [pushBuf, hb, groupResult, LaneCtx.w, List.nil_append, withVq_eq hq]

/-- A word that computes as a whole starts. -/
theorem startGroup_whole {s : State} {e : VEntry} {v : VSpec} {f : VFields} {x : Word × Word}
    {g : LaneCtx → List VWrite × BitVec 5} (hq : s.thr.v.vq = [e]) (hh : s.thr.v.held = none)
    (hw : vword e.ins = some (v, f)) (hi : Quiet e.ins) (hr : e.rep = none) (hb : e.buf = [])
    (ho : streamPackets s = []) (hc : e.checked = false ∨ e.pos < e.vl) (hs : scalarsOf s.thr e v f = .ok x) (hg : v.sem = .whole g) :
    startGroup s = .ok () { s with thr := withVq (
      [{ e with buf := [g ⟨s.thr, e, f, x.1, x.2⟩], checked := true, pos := max e.pos e.vl }]) s.thr } := by
  rw [startGroup_head hq hh hw hi hr hb ho hc hs, hg]
  simp only [startSem, modHead, run_modThr]
  congr 2
  conv => lhs; rw [← withVq_eq hq, withHead_withVq]
  simp only [pushBuf, hb, List.nil_append, withVq_eq hq]

theorem foldl_or (l : List (List VWrite × BitVec 5)) (a : BitVec 5) :
    l.foldl (fun fl r => fl ||| r.2) a = a ||| l.foldl (fun fl r => fl ||| r.2) 0 := by
  induction l generalizing a with
  | nil => simp
  | cons x l ih => rw [List.foldl_cons, List.foldl_cons, ih (a ||| x.2), ih (0 ||| x.2), BitVec.or_assoc, show (0 : BitVec 5) ||| x.2 = x.2 from by simp]

theorem groupResult_append (c : LaneCtx) (g : LaneCtx → Nat → List VWrite × BitVec 5) (is js : List Nat) :
    groupResult c g (is ++ js) = ((groupResult c g is).1 ++ (groupResult c g js).1, (groupResult c g is).2 ||| (groupResult c g js).2) := by
  simp only [groupResult, List.filter_append, List.map_append, List.flatten_append, List.foldl_append]
  congr 1
  exact foldl_or _ _

theorem groupResult_congr {c c' : LaneCtx} {g : LaneCtx → Nat → List VWrite × BitVec 5} {is : List Nat}
    (h : ∀ i ∈ is, g c i = g c' i ∧ c.active i = c'.active i) : groupResult c g is = groupResult c' g is := by
  have hf : is.filter c.active = is.filter c'.active := List.filter_congr fun i hi => (h i hi).2
  have hm : (is.filter c.active).map (g c) = (is.filter c'.active).map (g c') := by
    rw [hf]
    exact List.map_congr_left fun i hi => (h i (List.mem_of_mem_filter hi)).1
  simp only [groupResult, hm]

/-- Positions a to b − 1. -/
def span (a b : Nat) : List Nat := (List.range (b - a)).map (a + ·)

theorem span_split {a b c : Nat} (h : a ≤ b) (h' : b ≤ c) : span a c = span a b ++ span b c := by
  unfold span
  rw [show c - a = (b - a) + (c - b) by omega, List.range_add, List.map_append, List.map_map]
  congr 1
  apply List.map_congr_left
  intro x _
  simp only [Function.comp_apply]
  omega

theorem groupPositions_span (w p vl : Nat) : groupPositions w p vl = span p (groupEnd w p vl) := rfl

theorem groupEnd_bounds {w p vl : Nat} (hw : 0 < 256 / w) :
    p ≤ groupEnd w p vl ∧ groupEnd w p vl ≤ max p vl ∧ (p < vl → p < groupEnd w p vl) := by
  unfold groupEnd
  have h := Nat.lt_div_mul_add (a := p) hw
  refine ⟨Nat.le_max_left .., ?_, ?_⟩
  · have := Nat.min_le_left vl ((p / (256 / w) + 1) * (256 / w)); omega
  · intro hp
    have : p < (p / (256 / w) + 1) * (256 / w) := by rw [Nat.add_mul, Nat.one_mul]; exact h
    omega

theorem sew_pos (v : BitVec 9) : 0 < 256 / vtSew v := by
  have h : (v.extractLsb' 0 2).toNat < 4 := (v.extractLsb' 0 2).isLt
  unfold vtSew
  generalize (v.extractLsb' 0 2).toNat = n at h
  interval_cases n <;> decide

theorem scalarsOf_congr {t t' : Thread} {e e' : VEntry} (hs : t'.sc = t.sc) (hc : e'.caps = e.caps) (hj : e'.j = e.j)
    (v : VSpec) (f : VFields) : scalarsOf t' e' v f = scalarsOf t e v f := by
  unfold scalarsOf queueAt
  rw [hs, hc, hj]

/-- More steps than it needs change nothing of a stream that has become idle. -/
theorem settle_extra {s : State} (hq : s.thr.v.vq = []) (hn : s.thr.v.nbq = []) (n m : Nat) : settle n s = settle m s := by
  rw [settle_idle hq hn, settle_idle hq hn]

/-- A word that computes element by element runs through all its groups and commits. -/
theorem settle_lanes {s : State} {e0 : VEntry} {T0 : Thread} {v : VSpec} {f : VFields} {x : Word × Word} {c0 : LaneCtx}
    {g : LaneCtx → Nat → List VWrite × BitVec 5} (hw : vword e0.ins = some (v, f)) (hi : Quiet e0.ins) (hr : e0.rep = none)
    (hl : e0.link = none) (hj : e0.j = 0) (hct : e0.ctr = none) (hg : v.sem = .lanes g) (hh : T0.v.held = none)
    (hn : T0.v.nbq = []) (ho : streamPackets { s with thr := T0 } = []) (hwt : T0.wait = none)
    (hs : scalarsOf T0 e0 v f = .ok x) (hnp : ∀ j q y, VWrite.push q y ∉ (g c0 j).1)
    (hloc : ∀ (ws : List VWrite) (fl : BitVec 5) (q : List VEntry) (e' : VEntry) (i : Nat), SameWork e0 e' →
      (∀ w ∈ ws, ∃ j < i, w ∈ (g c0 j).1) →
      g ⟨withVq q (addFlags fl (ws.foldl (applyWrite e0.long) T0)), e', f, x.1, x.2⟩ i = g c0 i ∧
      (⟨withVq q (addFlags fl (ws.foldl (applyWrite e0.long) T0)), e', f, x.1, x.2⟩ : LaneCtx).active i = c0.active i)
    (m : Nat) : ∀ (e : VEntry) (ws : List VWrite) (fl : BitVec 5) (r : Nat), SameWork e0 e → e.buf = [] → e.opened = false → e.wpos = e.pos →
      (e.checked = false ∨ e.pos < e.vl) → 1 ≤ m → e.vl - e.pos ≤ m → (∀ w ∈ ws, ∃ j < e.pos, w ∈ (g c0 j).1) →
      settle (2 * m + r) { s with thr := withVq [e] (addFlags fl (ws.foldl (applyWrite e0.long) T0)) } =
        settle r { s with thr := withVq [] (setLanded true (destRegs e0.ins v f e0.long)
          ((popsOf v f).foldl (fun u q => setQueue q (queueAt u q).tail u)
            (addFlags (fl ||| (groupResult c0 g (span e.pos e.vl)).2)
              ((ws ++ (groupResult c0 g (span e.pos e.vl)).1).foldl (applyWrite e0.long) T0)))) } := by
  induction m with
  | zero => intro e ws fl r _ _ _ _ _ h1; omega
  | succ m ih =>
    intro e ws fl r hsw hb hop hwp hc _ hm hws
    have hside := (sameSide_applyWrites e0.long ws T0).trans (sameSide_addFlags fl _)
    have hout := hside.packets ho [e]
    have hwait := hside.2.2.2.2.2.2.2.2.1.trans hwt
    have hside' := hside
    obtain ⟨-, -, -, -, -, hnb, hhd, -⟩ := hside
    have hsc : (addFlags fl (ws.foldl (applyWrite e0.long) T0)).sc = T0.sc := by
      show (ws.foldl (applyWrite e0.long) T0).sc = T0.sc
      apply queueAt_applyWrites
      intro q y hq
      obtain ⟨j, -, hj⟩ := hws _ hq
      exact hnp j q y hj
    have hw' : vword e.ins = some (v, f) := by rw [hsw.ins]; exact hw
    have hi' : Quiet e.ins := by rw [hsw.ins]; exact hi
    -- the start
    have hstart := startGroup_lanes (s := { s with thr := withVq [e] (addFlags fl (ws.foldl (applyWrite e0.long) T0)) })
      (e := e) (v := v) (f := f) (x := x) (g := g) rfl (hhd.trans hh) hw' hi' (hsw.rep.trans hr) hb hout hc
      ((scalarsOf_congr hsc hsw.caps hsw.j v f).trans hs) hg
    have hres : groupResult ⟨withVq [e] (addFlags fl (ws.foldl (applyWrite e0.long) T0)), e, f, x.1, x.2⟩ g
        (groupPositions (vtSew e.vtype) e.pos e.vl) = groupResult c0 g (span e.pos (groupEnd (vtSew e.vtype) e.pos e.vl)) := by
      rw [groupPositions_span]
      apply groupResult_congr
      intro i hmem
      have hpi : e.pos ≤ i := by
        simp only [span, List.mem_map] at hmem
        obtain ⟨k, -, rfl⟩ := hmem
        omega
      apply hloc ws fl [e] e i hsw
      intro w hwm
      obtain ⟨j, hjl, hjm⟩ := hws w hwm
      exact ⟨j, by omega, hjm⟩
    rw [hres] at hstart
    have hturn1 : streamTurn { s with thr := withVq [e] (addFlags fl (ws.foldl (applyWrite e0.long) T0)) } = some _ :=
      streamTurn_ok ((streamStep_start (es := []) rfl (hhd.trans hh) (hnb.trans hn) (hsw.link.trans hl) (hi'.marker e rfl) hb).trans hstart)
    rw [show 2 * (m + 1) + r = (2 * m + r + 1) + 1 by omega, settle_some hturn1]
    simp only [withVq_withVq]
    -- the write
    obtain ⟨hb1, hb2, hb3⟩ := groupEnd_bounds (p := e.pos) (vl := e.vl) (sew_pos e.vtype)
    set ge := groupEnd (vtSew e.vtype) e.pos e.vl with hge
    set R := groupResult c0 g (span e.pos ge) with hR
    have hpf : pushesFit (withVq [{ e with buf := [R], checked := true, pos := ge }]
        (addFlags fl (ws.foldl (applyWrite e0.long) T0))) R.1 := by
      intro q y hq
      exfalso
      rw [hR] at hq
      simp only [groupResult, List.mem_flatten, List.mem_map] at hq
      obtain ⟨l, ⟨a, ⟨j, -, rfl⟩, rfl⟩, hl⟩ := hq
      exact hnp j q y hl
    have hwrite := writeElems_ok (s := { s with thr := (withVq [{ e with buf := [R], checked := true, pos := ge }]
        (addFlags fl (ws.foldl (applyWrite e0.long) T0))) }) (e := { e with buf := [R], checked := true, pos := ge })
      (ws := R.1) (fl := R.2) rfl (hhd.trans hh) rfl hop (hside'.packets ho _) hpf (hi'.blocking _ rfl)
    have hturn2 := streamTurn_ok ((streamStep_write
      (s := { s with thr := (withVq [{ e with buf := [R], checked := true, pos := ge }]
          (addFlags fl (ws.foldl (applyWrite e0.long) T0))) }) (e := { e with buf := [R], checked := true, pos := ge }) (es := [])
      rfl (hhd.trans hh) (hnb.trans hn) (hsw.link.trans hl) (hi'.marker _ rfl) (by simp) hop).trans hwrite)
    rw [settle_some hturn2]
    simp only [applyWrites_withVq, addFlags_withVq, withVq_withVq, hsw.long, applyWrites_addFlags, addFlags_addFlags,
      ← List.foldl_append]
    by_cases hv : e.vl ≤ ge
    · simp only [hv, if_true]
      have hspan : span e.pos ge = span e.pos e.vl := by
        by_cases hp : e.pos < e.vl
        · have : ge = e.vl := by omega
          rw [this]
        · have : ge = e.pos := by omega
          rw [this]; unfold span; rw [show e.vl - e.pos = 0 by omega, Nat.sub_self]
      rw [hR, hspan]
      rw [commitRepeat_ok (v := v) (f := f) (by exact hw') (by exact hsw.rep.trans hr) (by exact hsw.j.trans hj)
        (by exact hsw.ctr.trans hct) (by exact (sameSide_applyWrites e0.long _ T0).2.2.2.2.2.2.2.2.1.trans hwt)]
      simp only [hsw.ins]
      apply settle_extra
      · rfl
      · show (List.foldl (fun u q => setQueue q (queueAt u q).tail u) _ _ : Thread).v.nbq = _
        rw [popFold_v]
        exact (sameSide_applyWrites e0.long _ T0).2.2.2.2.2.1.trans hn
    · simp only [hv, if_false]
      have hp : e.pos < e.vl := by omega
      have hlt := hb3 hp
      have hsplit : span e.pos e.vl = span e.pos ge ++ span ge e.vl := span_split (by omega) (by omega)
      rw [hsplit, groupResult_append, ← hR]
      have := ih { e with buf := [], checked := true, pos := ge, wpos := groupEnd (vtSew e.vtype) e.wpos e.vl } (ws ++ R.1) (fl ||| R.2) r
        ⟨hsw.ins, hsw.age, hsw.rep, hsw.vl, hsw.vtype, hsw.long, hsw.vstart, hsw.caps, hsw.nest, hsw.shape, hsw.nbctr, hsw.rthr,
          hsw.kernel, hsw.link, hsw.j, hsw.ctr⟩ rfl hop (by show groupEnd _ e.wpos _ = ge; rw [hwp]) (.inr (by show ge < e.vl; omega)) (by omega)
        (by show e.vl - ge ≤ m; omega) ?_
      · simp only [hsw.long] at this
        rw [this]
        simp only [List.append_assoc, BitVec.or_assoc]
      · intro w hmem
        rcases List.mem_append.1 hmem with h | h
        · obtain ⟨j, h1, h2⟩ := hws w h
          exact ⟨j, by show j < ge; omega, h2⟩
        · rw [hR] at h
          simp only [groupResult, List.mem_flatten, List.mem_map] at h
          obtain ⟨l, ⟨a, ⟨j, hj1, rfl⟩, rfl⟩, hl2⟩ := h
          refine ⟨j, ?_, hl2⟩
          have := List.mem_of_mem_filter hj1
          simp only [span, List.mem_map, List.mem_range] at this
          obtain ⟨k, hk, rfl⟩ := this
          show e.pos + k < ge
          omega

/-- A word that computes as a whole starts, writes and commits. -/
theorem settle_whole {s : State} {e : VEntry} {T0 : Thread} {v : VSpec} {f : VFields} {x : Word × Word}
    {g : LaneCtx → List VWrite × BitVec 5} (hw : vword e.ins = some (v, f)) (hi : Quiet e.ins) (hf : Fresh e)
    (hc : e.checked = false) (hg : v.sem = .whole g) (hh : T0.v.held = none) (hn : T0.v.nbq = [])
    (ho : streamPackets { s with thr := T0 } = []) (hwt : T0.wait = none)
    (hs : scalarsOf T0 e v f = .ok x) (hp : pushesFit T0 (g ⟨withVq [e] T0, e, f, x.1, x.2⟩).1) (r : Nat) :
    settle (2 + r) { s with thr := withVq [e] T0 } =
      settle r { s with thr := withVq [] (setLanded true (destRegs e.ins v f e.long)
        ((popsOf v f).foldl (fun u q => setQueue q (queueAt u q).tail u)
          (addFlags (g ⟨withVq [e] T0, e, f, x.1, x.2⟩).2
            ((g ⟨withVq [e] T0, e, f, x.1, x.2⟩).1.foldl (applyWrite e.long) T0)))) } := by
  have hstart := startGroup_whole (s := { s with thr := withVq [e] T0 }) (e := e) (x := x) (g := g) rfl hh hw hi hf.rep hf.buf
    ho (.inl hc) hs hg
  have hturn1 := streamTurn_ok ((streamStep_start (s := { s with thr := withVq [e] T0 }) (es := []) rfl hh hn hf.link
    (hi.marker e rfl) hf.buf).trans hstart)
  rw [show 2 + r = (r + 1) + 1 by omega, settle_some hturn1]
  simp only [withVq_withVq]
  set R := g ⟨withVq [e] T0, e, f, x.1, x.2⟩ with hR
  have hwrite := writeElems_ok (s := { s with thr := (withVq [{ e with buf := [R], checked := true, pos := max e.pos e.vl }] T0) })
    (e := { e with buf := [R], checked := true, pos := max e.pos e.vl }) (ws := R.1) (fl := R.2) rfl hh rfl hf.opened ho hp (hi.blocking _ rfl)
  have hturn2 := streamTurn_ok ((streamStep_write
    (s := { s with thr := (withVq [{ e with buf := [R], checked := true, pos := max e.pos e.vl }] T0) })
    (e := { e with buf := [R], checked := true, pos := max e.pos e.vl }) (es := []) rfl hh hn hf.link (hi.marker _ rfl)
    (by simp) hf.opened).trans hwrite)
  rw [settle_some hturn2]
  simp only [applyWrites_withVq, addFlags_withVq, withVq_withVq, Nat.le_max_right, if_true]
  rw [commitRepeat_ok (v := v) (f := f) (by exact hw) (by exact hf.rep) (by exact hf.j) (by exact hf.ctr)
    (by exact (sameSide_applyWrites e.long _ T0).2.2.2.2.2.2.2.2.1.trans hwt)]

/-! ## A word enters an idle stream and runs to its end -/

/-- The entry that a word with no prefix becomes. -/
def plainEntry (t : Thread) (i : Instr) (v : VSpec) (f : VFields) : VEntry :=
  newEntry t i none (captures t v f none 1).1 (captures t v f none 1).2

theorem captures_few (t : Thread) (v : VSpec) (f : VFields) : (captures t v f none 1).2 ≤ 256 := by
  unfold captures
  simp only [List.range_one, List.map_cons, List.map_nil, List.sum_cons, List.sum_nil]
  have h : ∀ o : Option Word, o.toList.length ≤ 1 := by intro o; cases o <;> simp
  have h1 := h (captured t v.ka (f.atRepeat none 0).a)
  have h2 := h (captured t v.kb (f.atRepeat none 0).b)
  omega

/-- A word that makes no access enters an empty vector queue. -/
theorem enqueueWord_ok {i : Instr} {s : State} {v : VSpec} {f : VFields} (hh : s.thr.host = false) (hw : vword i = some (v, f))
    (hf : v.fieldsOk s.thr f = true) (hq : s.thr.v.vq = []) (hr : ∀ e : VEntry, e.ins = i → entryRanges e = []) :
    enqueueWord i none s = .ok () { s with thr := withVq [plainEntry s.thr i v f] (setLanded false (destRegs i v f (isLong s.thr))
      { s.thr with issued := s.thr.issued + 1, u := { s.thr.u with vstart := 0 } }) } := by
  unfold enqueueWord
  simp only [run_bind, run_read, hw, run_orStop_some]
  rw [checkWord_ok (.inl hh) (.inl rfl) (.inl rfl)
    (by simp [List.range_one, VFields.atRepeat, hf])]
  simp only [enqueue, run_bind, run_read, hq]
  rw [run_require (by
    simp only [fitsBlock, List.nil_append, List.length_cons, List.length_nil, List.map_cons, List.map_nil, List.sum_cons,
      List.sum_nil, decide_eq_true_eq]
    exact ⟨by decide, captures_few _ _ _⟩)]
  have hr' := hr (plainEntry s.thr i v f) rfl
  unfold plainEntry at hr'
  have hfirst : (newEntry s.thr i none (captures s.thr v f none 1).1 (captures s.thr v f none 1).2).first = 0 := rfl
  simp only [hr', hfirst, ne_eq, not_true_eq_false, if_false, run_modThr, List.range_one, List.drop_zero, List.flatMap_cons,
    List.flatMap_nil, List.append_nil, VFields.atRepeat]
  simp only [hq, List.nil_append]
  rfl

/-- A vector word on an idle stream that the turn does not defer: the stream goes on from the entry alone in its queue. -/
theorem vectorOp_settle {i : Instr} {s : State} {v : VSpec} {f : VFields} (hh : s.thr.host = false) (hw : vword i = some (v, f))
    (hf : v.fieldsOk s.thr f = true) (hq : s.thr.v.vq = []) (hr : ∀ e : VEntry, e.ins = i → entryRanges e = [])
    (hd : s.turn.defer = false) :
    vectorOp i s = .next (settle 4096 { s with thr := (
      withVq [plainEntry s.thr i v f] (issue (destRegs i v f (isLong s.thr)) s.thr)) }) := by
  unfold vectorOp
  apply finish_ok
  simp only [run_bind, enqueueWord_ok hh hw hf hq hr, run_modThr, runStream, run_update, hd, Bool.false_eq_true, if_false,
    retire_withVq]
  rfl

/-- A vector word that the turn defers: its entry stands in the vector queue and the thread has gone on (R101). -/
theorem vectorOp_defer {i : Instr} {s : State} {v : VSpec} {f : VFields} (hh : s.thr.host = false) (hw : vword i = some (v, f))
    (hf : v.fieldsOk s.thr f = true) (hq : s.thr.v.vq = []) (hr : ∀ e : VEntry, e.ins = i → entryRanges e = [])
    (hd : s.turn.defer = true) :
    vectorOp i s = .next { s with thr := (
      withVq [plainEntry s.thr i v f] (issue (destRegs i v f (isLong s.thr)) s.thr)) } := by
  unfold vectorOp
  apply finish_ok
  simp only [run_bind, enqueueWord_ok hh hw hf hq hr, run_modThr, runStream, run_update, hd, if_true, retire_withVq]
  rfl

@[simp] theorem issue_v_nbq (l : List Nat) (t : Thread) : (issue l t).v.nbq = t.v.nbq := by simp [issue, setLanded]
@[simp] theorem issue_v_held (l : List Nat) (t : Thread) : (issue l t).v.held = t.v.held := by simp [issue, setLanded]
@[simp] theorem issue_v_vq (l : List Nat) (t : Thread) : (issue l t).v.vq = t.v.vq := by simp [issue, setLanded]
@[simp] theorem issue_sc (l : List Nat) (t : Thread) : (issue l t).sc = t.sc := by simp [issue]

theorem fresh_plainEntry (t : Thread) (i : Instr) (v : VSpec) (f : VFields) : Fresh (plainEntry t i v f) :=
  ⟨rfl, rfl, rfl, rfl, rfl, rfl⟩

@[simp] theorem issue_wait (l : List Nat) (t : Thread) : (issue l t).wait = none := by simp [issue]

theorem issue_packets {s : State} (h : streamPackets s = []) (l : List Nat) : streamPackets { s with thr := issue l s.thr } = [] := by
  rw [← h]
  apply streamPackets_thr
  · unfold issue threadId
    simp only [retire_ids]
    rfl
  · simp [issue, setLanded]

/-- Removing the last entry of the queue gives back a thread whose queue was empty. -/
theorem withVq_nil {t : Thread} (h : t.v.vq = []) : withVq [] t = t := withVq_eq h

theorem applyWrites_vq (long : Bool) (ws : List VWrite) (t : Thread) : (ws.foldl (applyWrite long) t).v.vq = t.v.vq := by
  have h : ws.foldl (applyWrite long) t = withVq t.v.vq (ws.foldl (applyWrite long) t) := by
    conv => lhs; rw [← withVq_eq (t := t) rfl]
    rw [applyWrites_withVq]
  rw [h]; rfl

/-- What a word leaves that computes element by element: the results of all active positions, in order. -/
theorem vectorOp_lanes {i : Instr} {s : State} {v : VSpec} {f : VFields} {x : Word × Word}
    {g : LaneCtx → Nat → List VWrite × BitVec 5} (hh : s.thr.host = false) (hidle : Idle s) (hd : s.turn.defer = false)
    (hw : vword i = some (v, f)) (hi : Quiet i) (hf : v.fieldsOk s.thr f = true) (hg : v.sem = .lanes g)
    (hs : scalarsOf s.thr (plainEntry s.thr i v f) v f = .ok x)
    (hnp : ∀ j q y, VWrite.push q y ∉ (g ⟨s.thr, plainEntry s.thr i v f, f, x.1, x.2⟩ j).1)
    (hloc : ∀ (ws : List VWrite) (fl : BitVec 5) (q : List VEntry) (e' : VEntry) (k : Nat),
      SameWork (plainEntry s.thr i v f) e' →
      (∀ w ∈ ws, ∃ j < k, w ∈ (g ⟨s.thr, plainEntry s.thr i v f, f, x.1, x.2⟩ j).1) →
      let T := withVq q (addFlags fl (ws.foldl (applyWrite (isLong s.thr)) (issue (destRegs i v f (isLong s.thr)) s.thr)))
      g ⟨T, e', f, x.1, x.2⟩ k = g ⟨s.thr, plainEntry s.thr i v f, f, x.1, x.2⟩ k ∧
      (⟨T, e', f, x.1, x.2⟩ : LaneCtx).active k = (⟨s.thr, plainEntry s.thr i v f, f, x.1, x.2⟩ : LaneCtx).active k) :
    let c : LaneCtx := ⟨s.thr, plainEntry s.thr i v f, f, x.1, x.2⟩
    let R := groupResult c g (List.range (vecLen s.thr))
    vectorOp i s = .next { s with thr := (setLanded true (destRegs i v f (isLong s.thr))
      ((popsOf v f).foldl (fun u q => setQueue q (queueAt u q).tail u)
        (addFlags R.2 (R.1.foldl (applyWrite (isLong s.thr)) (issue (destRegs i v f (isLong s.thr)) s.thr))))) } := by
  intro c R
  obtain ⟨h1, h2, h3, h4⟩ := hidle
  rw [vectorOp_settle hh hw hf h1 hi.ranges hd]
  have hfr := fresh_plainEntry s.thr i v f
  have hvl : (plainEntry s.thr i v f).vl - (plainEntry s.thr i v f).pos ≤ 2048 := by
    have : vecLen s.thr < 2 ^ 11 := Nat.lt_of_le_of_lt (Nat.min_le_left _ _) s.thr.u.vl.isLt
    show vecLen s.thr - _ ≤ _
    omega
  have hrun := settle_lanes (s := s) (e0 := plainEntry s.thr i v f) (T0 := issue (destRegs i v f (isLong s.thr)) s.thr) (x := x)
    (c0 := c) (g := g) hw hi rfl rfl rfl rfl hg (by simp [h3]) (by simp [h2])
    (issue_packets h4 _) (issue_wait _ _)
    ((scalarsOf_congr (issue_sc _ _) rfl rfl v f).trans hs) hnp hloc 2048 (plainEntry s.thr i v f) [] 0 0
    ⟨rfl, rfl, rfl, rfl, rfl, rfl, rfl, rfl, rfl, rfl, rfl, rfl, rfl, rfl, rfl, rfl⟩ rfl rfl rfl (.inl rfl) (by decide) hvl
    (by intro w hw; simp at hw)
  simp only [List.foldl_nil, addFlags_zero, List.nil_append] at hrun
  rw [hrun]
  have hspan : groupResult c g (span (plainEntry s.thr i v f).pos (plainEntry s.thr i v f).vl) = R := by
    show groupResult c g (span s.thr.u.vstart.toNat (vecLen s.thr)) = groupResult c g (List.range (vecLen s.thr))
    have hr : List.range (vecLen s.thr) = span 0 (vecLen s.thr) := by simp [span]
    by_cases hle : s.thr.u.vstart.toNat ≤ vecLen s.thr
    · have hno : groupResult c g (span 0 s.thr.u.vstart.toNat) = ([], 0) := by
        unfold groupResult
        rw [show (span 0 s.thr.u.vstart.toNat).filter c.active = [] from ?_]
        · rfl
        · rw [List.filter_eq_nil_iff]
          intro k hk
          simp only [span, List.mem_map, List.mem_range] at hk
          obtain ⟨a, ha, rfl⟩ := hk
          have : ¬ s.thr.u.vstart.toNat ≤ 0 + a := by omega
          simp only [LaneCtx.active]
          show ¬ ((decide (s.thr.u.vstart.toNat ≤ 0 + a) && _ && _) = true)
          rw [decide_eq_false this]
          simp
      rw [hr, span_split (Nat.zero_le _) hle, groupResult_append, hno]
      simp
    · have hno : ∀ a b, groupResult c g (span a b) = ([], 0) := by
        intro a b
        unfold groupResult
        rw [show (span a b).filter c.active = [] from ?_]
        · rfl
        · rw [List.filter_eq_nil_iff]
          intro k _
          simp only [LaneCtx.active]
          show ¬ ((decide (s.thr.u.vstart.toNat ≤ k) && decide (k < vecLen s.thr) && _) = true)
          by_cases h : s.thr.u.vstart.toNat ≤ k
          · have : ¬ k < vecLen s.thr := by omega
            simp [this]
          · simp [h]
      rw [hr, hno, hno]
  rw [hspan]
  have hz : (0 : BitVec 5) ||| R.2 = R.2 := by simp
  rw [hz]
  rw [settle_idle rfl ?_ 0, withVq_nil]
  · rfl
  · show (List.foldl (fun u q => setQueue q (queueAt u q).tail u) _ _ : Thread).v.vq = _
    rw [popFold_v]
    show (List.foldl (applyWrite _) _ _).v.vq = _
    rw [applyWrites_vq]
    simp [h1]
  · show (List.foldl (fun u q => setQueue q (queueAt u q).tail u) _ _ : Thread).v.nbq = _
    rw [popFold_v]
    exact (sameSide_applyWrites (isLong s.thr) R.1 _).2.2.2.2.2.1.trans (by simp [h2])

/-- What a word leaves that computes as a whole. -/
theorem vectorOp_whole {i : Instr} {s : State} {v : VSpec} {f : VFields} {x : Word × Word}
    {g : LaneCtx → List VWrite × BitVec 5} (hh : s.thr.host = false) (hidle : Idle s) (hd : s.turn.defer = false)
    (hw : vword i = some (v, f)) (hi : Quiet i) (hf : v.fieldsOk s.thr f = true) (hg : v.sem = .whole g)
    (hs : scalarsOf s.thr (plainEntry s.thr i v f) v f = .ok x)
    (hp : pushesFit s.thr (g ⟨s.thr, plainEntry s.thr i v f, f, x.1, x.2⟩).1)
    (hloc : ∀ (q : List VEntry), g ⟨withVq q (issue (destRegs i v f (isLong s.thr)) s.thr), plainEntry s.thr i v f, f, x.1, x.2⟩
      = g ⟨s.thr, plainEntry s.thr i v f, f, x.1, x.2⟩) :
    let R := g ⟨s.thr, plainEntry s.thr i v f, f, x.1, x.2⟩
    vectorOp i s = .next { s with thr := (setLanded true (destRegs i v f (isLong s.thr))
      ((popsOf v f).foldl (fun u q => setQueue q (queueAt u q).tail u)
        (addFlags R.2 (R.1.foldl (applyWrite (isLong s.thr)) (issue (destRegs i v f (isLong s.thr)) s.thr))))) } := by
  intro R
  obtain ⟨h1, h2, h3, h4⟩ := hidle
  rw [vectorOp_settle hh hw hf h1 hi.ranges hd]
  have hrun := settle_whole (s := s) (e := plainEntry s.thr i v f) (T0 := issue (destRegs i v f (isLong s.thr)) s.thr) (x := x)
    (g := g) hw hi (fresh_plainEntry s.thr i v f) rfl hg (by simp [h3]) (by simp [h2])
    (issue_packets h4 _) (issue_wait _ _)
    ((scalarsOf_congr (issue_sc _ _) rfl rfl v f).trans hs)
    (by rw [hloc]; intro q y hq; simpa [queueAt] using hp q y hq) 4094
  rw [hloc] at hrun
  rw [hrun]
  rw [settle_idle rfl ?_, withVq_nil]
  · rfl
  · show (List.foldl (fun u q => setQueue q (queueAt u q).tail u) _ _ : Thread).v.vq = _
    rw [popFold_v]
    show (List.foldl (applyWrite _) _ _).v.vq = _
    rw [applyWrites_vq]
    simp [h1]
  · show (List.foldl (fun u q => setQueue q (queueAt u q).tail u) _ _ : Thread).v.nbq = _
    rw [popFold_v]
    exact (sameSide_applyWrites (isLong s.thr) R.1 _).2.2.2.2.2.1.trans (by simp [h2])

end Sys2Proof.Machine
end

