-- ==== Sys2Proof/Laws/VecRegs.lean ====
section
/-! SUPPORT. Elements of vector registers and bits of masks after the writes of the vector stream. -/

set_option Elab.async false

namespace Sys2Proof.Machine

open Claims (withVq issue)

/-! ## Fixed-size files -/

theorem vget_vset_same {α : Type} {k : Nat} (v : Vector α k) (n : Nat) (x d : α) (h : n < k) : vget (vset v n x) n d = x := by
  simp [vget, vset, h]

theorem vget_vset_other {α : Type} {k : Nat} (v : Vector α k) (n m : Nat) (x d : α) (h : m ≠ n) :
    vget (vset v n x) m d = vget v m d := by
  simp [vget, vset, Ne.symm h]

theorem vset_beyond {α : Type} {k : Nat} (v : Vector α k) (n : Nat) (x : α) (h : k ≤ n) : vset v n x = v := by
  unfold vset Vector.setIfInBounds
  apply Vector.toArray_inj.1
  simp [Array.setIfInBounds, h]

/-! ## Elements of a register -/

theorem setElem_bit {n : Nat} (x : BitVec n) (w i : Nat) (v : BitVec w) (j : Nat) (hj : j < n) :
    (setElem x w i v).getLsbD j = if i * w ≤ j ∧ j < (i + 1) * w then v.getLsbD (j - i * w) else x.getLsbD j := by
  unfold setElem
  have h1 : (i + 1) * w = i * w + w := by rw [Nat.add_mul, Nat.one_mul]
  simp only [BitVec.getLsbD_or, BitVec.getLsbD_and, BitVec.getLsbD_not, BitVec.getLsbD_shiftLeft, BitVec.getLsbD_setWidth,
    BitVec.getLsbD_allOnes, hj, decide_true, Bool.true_and]
  by_cases h : i * w ≤ j
  · have hn : ¬ j < i * w := by omega
    have hl : j - i * w < n := by omega
    by_cases h2 : j < (i + 1) * w
    · have : j - i * w < w := by omega
      simp [h, h2, hn, hl, this]
    · have : ¬ j - i * w < w := by omega
      have hz : v.getLsbD (j - i * w) = false := BitVec.getLsbD_of_ge _ _ (by omega)
      simp [h2, hn, hl, this, hz]
  · have hn : j < i * w := by omega
    simp [h, hn]

theorem elemOf_bit (x : VReg) (w i j : Nat) : (elemOf x w i).getLsbD j = (decide (j < w) && x.getLsbD (i * w + j)) := by
  simp [elemOf, BitVec.getLsbD_extractLsb']

/-- A register whose element k was written, read at another element. -/
theorem elemOf_setElem_other {n : Nat} (x : BitVec n) (w i k : Nat) (v : BitVec w) (h : k ≠ i) :
    elemOf ((setElem x w i v).setWidth 8192) w k = elemOf (x.setWidth 8192) w k := by
  apply BitVec.eq_of_getLsbD_eq
  intro j hj
  rw [elemOf_bit, elemOf_bit]
  simp only [BitVec.getLsbD_setWidth]
  by_cases hn : k * w + j < n
  · rw [setElem_bit _ _ _ _ _ hn, if_neg]
    rintro ⟨h1, h2⟩
    apply h
    have h3 : i * w < (k + 1) * w := by rw [Nat.add_mul, Nat.one_mul]; omega
    have h4 : k * w < (i + 1) * w := by omega
    have h5 := Nat.lt_of_mul_lt_mul_right h3
    have h6 := Nat.lt_of_mul_lt_mul_right h4
    omega
  · rw [BitVec.getLsbD_of_ge _ _ (by omega), BitVec.getLsbD_of_ge x _ (by omega)]

/-- A register whose element was written, read there; the element lies within the register. -/
theorem elemOf_setElem_same {n : Nat} (x : BitVec n) (w i : Nat) (v : BitVec w) (h : (i + 1) * w ≤ n) (hn : n ≤ 8192) :
    elemOf ((setElem x w i v).setWidth 8192) w i = v := by
  apply BitVec.eq_of_getLsbD_eq
  intro j hj
  rw [elemOf_bit]
  have h1 : (i + 1) * w = i * w + w := by rw [Nat.add_mul, Nat.one_mul]
  have h2 : i * w + j < n := by omega
  simp only [BitVec.getLsbD_setWidth, hj, decide_true, Bool.true_and]
  rw [setElem_bit _ _ _ _ _ h2, if_pos ⟨by omega, by omega⟩]
  have h3 : i * w + j < 8192 := by omega
  simp [h3]

/-! ## Registers after one write -/

theorem vreg_writeElem_other (long : Bool) (t : Thread) (r i w : Nat) (v : Word) (q : Nat) (h : q ≠ r) :
    vreg (writeElem long r i w v t) long q = vreg t long q := by
  cases long with
  | false => simp [vreg, writeElem, vget_vset_other _ _ _ _ _ h]
  | true =>
    cases hl : t.v.long with
    | none => simp [vreg, writeElem, hl]
    | some c => simp [vreg, writeElem, hl, vget_vset_other _ _ _ _ _ h]

/-- Element k of a register after another element of it, at the same width, was written. -/
theorem elem_writeElem_other (long : Bool) (t : Thread) (r i w : Nat) (v : Word) (q k : Nat) (h : q ≠ r ∨ k ≠ i) :
    elemOf (vreg (writeElem long r i w v t) long q) w k = elemOf (vreg t long q) w k := by
  by_cases hq : q = r
  · have hk : k ≠ i := by rcases h with h | h <;> [exact absurd hq h; exact h]
    subst hq
    cases long with
    | false =>
      simp only [vreg, writeElem, Bool.false_eq_true, if_false]
      by_cases hb : q < 48
      · rw [vget_vset_same _ _ _ _ hb, elemOf_setElem_other _ _ _ _ _ hk]
      · rw [vset_beyond _ _ _ (by omega)]
    | true =>
      cases hl : t.v.long with
      | none => simp [vreg, writeElem, hl]
      | some c =>
        simp only [vreg, writeElem, hl, if_true]
        by_cases hb : q < 48
        · rw [vget_vset_same _ _ _ _ hb]
          have := elemOf_setElem_other (vget c.regs q 0) w i k (v.setWidth w) hk
          simpa using this
        · rw [vset_beyond _ _ _ (by omega)]
  · rw [vreg_writeElem_other _ _ _ _ _ _ _ hq]

/-- Element i of a register after it was written. -/
theorem elem_writeElem_same (long : Bool) (t : Thread) (r i w : Nat) (v : Word) (hr : r < 48)
    (hi : (i + 1) * w ≤ if long then 8192 else 256) (hl : long = true → t.v.long.isSome = true) :
    elemOf (vreg (writeElem long r i w v t) long r) w i = v.setWidth w := by
  cases long with
  | false =>
    simp only [vreg, writeElem, Bool.false_eq_true, if_false] at hi ⊢
    rw [vget_vset_same _ _ _ _ hr, elemOf_setElem_same _ _ _ _ hi (by decide)]
  | true =>
    obtain ⟨c, hc⟩ := Option.isSome_iff_exists.1 (hl rfl)
    simp only [vreg, writeElem, hc, if_true] at hi ⊢
    rw [vget_vset_same _ _ _ _ hr]
    have := elemOf_setElem_same (vget c.regs r 0) w i (v.setWidth w) hi (Nat.le_refl _)
    simpa using this

theorem mreg_writeElem (long : Bool) (t : Thread) (r i w : Nat) (v : Word) (k : Nat) :
    mreg (writeElem long r i w v t) long k = mreg t long k := by
  cases long with
  | false => rfl
  | true => cases hl : t.v.long <;> simp [mreg, writeElem, hl]

theorem vreg_writeMaskBit (long : Bool) (t : Thread) (k i : Nat) (b : Bool) (r : Nat) :
    vreg (writeMaskBit long k i b t) long r = vreg t long r := by
  cases long with
  | false => rfl
  | true => cases hl : t.v.long <;> simp [vreg, writeMaskBit, hl]

theorem setBit_other {w : Nat} (x : BitVec w) (i j : Nat) (b : Bool) (h : j ≠ i) : (setBit x i b).getLsbD j = x.getLsbD j := by
  unfold setBit
  by_cases hj : j < w
  · split <;> simp [h, hj]
  · rw [BitVec.getLsbD_of_ge _ _ (by omega), BitVec.getLsbD_of_ge _ _ (by omega)]

theorem setBit_same {w : Nat} (x : BitVec w) (i : Nat) (b : Bool) (h : i < w) : (setBit x i b).getLsbD i = b := by
  unfold setBit
  cases b <;> simp [h]

/-- Bit j of a mask after another bit was written. -/
theorem bit_writeMaskBit_other (long : Bool) (t : Thread) (k i : Nat) (b : Bool) (q j : Nat) (h : q ≠ k ∨ j ≠ i) :
    (mreg (writeMaskBit long k i b t) long q).getLsbD j = (mreg t long q).getLsbD j := by
  by_cases hq : q = k
  · have hj : j ≠ i := by rcases h with h | h <;> [exact absurd hq h; exact h]
    subst hq
    cases long with
    | false =>
      simp only [mreg, writeMaskBit, Bool.false_eq_true, if_false]
      by_cases hb : q < 12
      · rw [vget_vset_same _ _ _ _ hb]
        simp only [BitVec.getLsbD_setWidth, setBit_other _ _ _ _ hj]
      · rw [vset_beyond _ _ _ (by omega)]
    | true =>
      cases hl : t.v.long with
      | none => simp [mreg, writeMaskBit, hl]
      | some c =>
        simp only [mreg, writeMaskBit, hl, if_true]
        by_cases hb : q < 12
        · rw [vget_vset_same _ _ _ _ hb, setBit_other _ _ _ _ hj]
        · rw [vset_beyond _ _ _ (by omega)]
  · cases long with
    | false => simp [mreg, writeMaskBit, vget_vset_other _ _ _ _ _ hq]
    | true =>
      cases hl : t.v.long with
      | none => simp [mreg, writeMaskBit, hl]
      | some c => simp [mreg, writeMaskBit, hl, vget_vset_other _ _ _ _ _ hq]

/-! ## Registers and masks of a thread that has issued a word -/

@[simp] theorem vreg_withVq (q : List VEntry) (t : Thread) (long : Bool) (r : Nat) : vreg (withVq q t) long r = vreg t long r := rfl
@[simp] theorem mreg_withVq (q : List VEntry) (t : Thread) (long : Bool) (r : Nat) : mreg (withVq q t) long r = mreg t long r := rfl
@[simp] theorem vreg_addFlags (fl : BitVec 5) (t : Thread) (long : Bool) (r : Nat) : vreg (addFlags fl t) long r = vreg t long r := rfl
@[simp] theorem mreg_addFlags (fl : BitVec 5) (t : Thread) (long : Bool) (r : Nat) : mreg (addFlags fl t) long r = mreg t long r := rfl
@[simp] theorem vreg_issue (l : List Nat) (t : Thread) (long : Bool) (r : Nat) : vreg (issue l t) long r = vreg t long r := by
  simp only [vreg, issue, setLanded, retire_v]
@[simp] theorem mreg_issue (l : List Nat) (t : Thread) (long : Bool) (r : Nat) : mreg (issue l t) long r = mreg t long r := by
  simp only [mreg, issue, setLanded, retire_v]

/-- Writes of elements below k of one register leave every element from k on, and every mask. -/
theorem after_elems (long : Bool) (d w k : Nat) (ws : List VWrite) (t : Thread)
    (h : ∀ x ∈ ws, ∃ j < k, ∃ v, x = .elem d j w v) :
    (∀ q i, (q ≠ d ∨ k ≤ i) → elemOf (vreg (ws.foldl (applyWrite long) t) long q) w i = elemOf (vreg t long q) w i) ∧
    (∀ q, q ≠ d → vreg (ws.foldl (applyWrite long) t) long q = vreg t long q) ∧
    ∀ q, mreg (ws.foldl (applyWrite long) t) long q = mreg t long q := by
  induction ws generalizing t with
  | nil => exact ⟨fun _ _ _ => rfl, fun _ _ => rfl, fun _ => rfl⟩
  | cons x ws ih =>
    obtain ⟨j, hj, v, rfl⟩ := h x (List.mem_cons_self ..)
    obtain ⟨h1, h2, h3⟩ := ih (applyWrite long t (.elem d j w v)) fun y hy => h y (List.mem_cons_of_mem _ hy)
    rw [List.foldl_cons]
    refine ⟨fun q i hq => ?_, fun q hq => ?_, fun q => ?_⟩
    · rw [h1 q i hq]
      exact elem_writeElem_other _ _ _ _ _ _ _ _ (by rcases hq with h | h <;> [exact .inl h; exact .inr (by omega)])
    · rw [h2 q hq]; exact vreg_writeElem_other _ _ _ _ _ _ _ hq
    · rw [h3 q]; exact mreg_writeElem _ _ _ _ _ _ _

/-- Writes of bits below k of one mask leave every bit from k on, and every register. -/
theorem after_bits (long : Bool) (d k : Nat) (ws : List VWrite) (t : Thread) (h : ∀ x ∈ ws, ∃ j < k, ∃ b, x = .bit d j b) :
    (∀ q i, (q ≠ d ∨ k ≤ i) → (mreg (ws.foldl (applyWrite long) t) long q).getLsbD i = (mreg t long q).getLsbD i) ∧
    ∀ q, vreg (ws.foldl (applyWrite long) t) long q = vreg t long q := by
  induction ws generalizing t with
  | nil => exact ⟨fun _ _ _ => rfl, fun _ => rfl⟩
  | cons x ws ih =>
    obtain ⟨j, hj, b, rfl⟩ := h x (List.mem_cons_self ..)
    obtain ⟨h1, h2⟩ := ih (applyWrite long t (.bit d j b)) fun y hy => h y (List.mem_cons_of_mem _ hy)
    rw [List.foldl_cons]
    refine ⟨fun q i hq => ?_, fun q => ?_⟩
    · rw [h1 q i hq]
      exact bit_writeMaskBit_other _ _ _ _ _ _ _ (by rcases hq with h | h <;> [exact .inl h; exact .inr (by omega)])
    · rw [h2 q]; exact vreg_writeMaskBit _ _ _ _ _ _

end Sys2Proof.Machine
end

