-- ==== Sys2Proof/Tests/Slice0.lean ====
section
/-! SUPPORT. Tests: words written out bit by bit from the encoding tables, one ill-formed term for each check of WellFormed, and
for every statement states and operands that meet its hypotheses, with what one step then does there. Expected values are the
rules' own, or computed by hand from them. Registers read and write as `reads_of` and `writes_of` say. -/

open Sys2Proof Sys2Proof.Machine Sys2Proof.Claims
open Host (Outcome)

namespace Sys2Proof.Tests

set_option maxRecDepth 100000
set_option Elab.async false

/-! ## Helpers: comparisons of states by their parts, and small states -/

def eqV {α : Type} {n : Nat} [DecidableEq α] (u v : Vector α n) : Bool := decide (u.toList = v.toList)

def eqT (a b : Thread) : Bool :=
  decide (a.place = b.place) && decide (a.host = b.host) && decide (a.status = b.status) && decide (a.pc = b.pc)
  && eqV a.sc.globals b.sc.globals && eqV a.sc.win b.sc.win && decide (a.sc.wb = b.sc.wb)
  && decide (a.sc.queues.toList = b.sc.queues.toList)
  && eqV a.shp b.shp && decide (a.u = b.u) && decide (a.ce = b.ce) && decide (a.k = b.k)
  && eqV a.v.short b.v.short && eqV a.v.smask b.v.smask && decide (a.v.long.isSome = b.v.long.isSome) && decide (a.v.lg = b.v.lg)
  && eqV a.v.landed b.v.landed && decide (a.v.vq = b.v.vq) && decide (a.v.nbq = b.v.nbq) && decide (a.v.held = b.v.held)
  && decide (a.tq = b.tq) && decide (a.tr = b.tr) && decide (a.issued = b.issued) && decide (a.wait = b.wait)
  && decide (a.loop = b.loop) && decide (a.yielded = b.yielded) && decide (a.replies = b.replies) && decide (a.acting = b.acting)
  && decide (a.pages = b.pages) && decide (a.saving = b.saving) && decide (a.v.parked = b.v.parked)

def eqS (a b : State) : Bool :=
  eqT a.thr b.thr && decide (a.others.length = b.others.length) && (a.others.zip b.others).all (fun x => eqT x.1 x.2)
  && decide (a.spans = b.spans) && decide (a.dies = b.dies) && decide (a.pkgs = b.pkgs)
  && decide (a.vault.map Prod.fst = b.vault.map Prod.fst)
  && decide (a.mem = b.mem) && decide (a.sectors = b.sectors) && decide (a.packets = b.packets) && decide (a.messages = b.messages)
  && decide (a.podTokens = b.podTokens) && decide (a.time = b.time) && decide (a.period = b.period) && decide (a.fresh = b.fresh)
  && decide (a.turn = b.turn) && decide (a.turns = b.turns)

/-- The outcome is the next state told. -/
def nx (o : Outcome State Fault Refusal) (t : State) : Bool := match o with | .next u => eqS u t | _ => false
/-- The next state of an outcome. -/
def aft (o : Outcome State Fault Refusal) : State := match o with | .next u => u | _ => State.reset
def isNx (o : Outcome State Fault Refusal) : Bool := match o with | .next _ => true | _ => false
/-- The step cannot occur. -/
def flt (o : Outcome State Fault Refusal) : Bool := match o with | .fault .notEnabled => true | _ => false
def okB {α : Type} [DecidableEq α] (r : EStateM.Result Stop State α) (a : α) (s : State) : Bool :=
  match r with | .ok x t => decide (x = a) && eqS t s | _ => false
def errB {α : Type} (r : EStateM.Result Stop State α) (a : Stop) (s : State) : Bool :=
  match r with | .error x t => decide (x = a) && eqS t s | _ => false
def isOk {α : Type} (r : EStateM.Result Stop State α) : Bool := match r with | .ok _ _ => true | _ => false
def sameMem (a b : State) : Bool := decide (a.mem = b.mem) && decide (a.sectors = b.sectors)

/-- `Reads` of a register, as a check. -/
def readsB (f : BitVec 7) (s : State) (v : Word) : Bool := decide (f.toNat < 120) && decide (scalar s.thr f = v)

theorem reads_of (f : BitVec 7) (s : State) (v : Word) (h : readsB f s v = true) : Reads f s v s := by
  simp only [readsB, Bool.and_eq_true, decide_eq_true_eq] at h
  exact .inl ⟨h.1, h.2.symm, rfl⟩

theorem writes_of (f : BitVec 7) (s : State) (v : Word) (h : f.toNat < 120) : Writes f v s (withThr s (setScalar f v s.thr)) :=
  .inl ⟨h, rfl⟩

/-- `NothingOlder`, as a check. -/
def oldB (s : State) : Bool :=
  decide (s.thr.v.vq = []) && decide (s.thr.v.parked = []) && decide (s.thr.v.nbq = []) && decide (s.thr.tq = []) && decide (s.thr.tr = []) &&
    s.packets.all (fun p => ! ownPacket s.thr p) && (myDie s).colls.all fun c => decide (c.owner ≠ threadId s.thr)

theorem nothingOlder_of (s : State) (h : oldB s = true) : NothingOlder s := by
  simpa [oldB, NothingOlder, and_assoc] using h

/-- `VectorReady`, as a check. -/
def readyB (s : State) : Bool :=
  (! s.thr.host) && decide (s.thr.v.vq = []) && decide (s.thr.v.nbq = []) && decide (s.thr.v.held = none) && decide (streamPackets s = []) && ! s.turn.defer

theorem vectorReady_of (s : State) (h : readyB s = true) : VectorReady s := by
  simpa [readyB, VectorReady, Idle, and_assoc] using h

/-- `Granted`, `Unheld` and `Reaches` at one access, as checks of what they come to. -/
def grantedB (acc : Acc) (n : Nat) (va : Word) (s : State) (r : Ref) : Bool :=
  match access acc s.thr.k.km n va s with | .ok x _ => decide (x = r) | _ => false
/-- The state once an access has been translated and checked. -/
def seen (acc : Acc) (n : Nat) (va : Word) (s : State) : State :=
  match access acc s.thr.k.km n va s with | .ok _ u => u | _ => s
def unheldB (va : Word) (n : Nat) (wr : Bool) (s : State) : Bool := isOk (interlockScalar va n wr s)
def reachesB (k : ReqKind) (r : Ref) (n : Nat) (s : State) : Bool :=
  decide (targetFault s k (myPeer s) s.thr.host s.thr.k.ctxid r.fpa n = none) && ! memoryBad s k r.fpa n

/-- A user thread in slot 2 of Span 3 of die 5: thread 1 of 4, on a partition of 4 tiles and 2 contexts. -/
def home : Place := ⟨5, 3, 2⟩
def t0 : Thread :=
  { Thread.reset home with
    status := .running, pc := 0x1000
    u := { (Thread.reset home).u with lid := handleOf 7 1 1, tid := 1, nthr := 4, part := 0x042 } }
/-- An address of the Span's own scratchpad, and its place in memory. -/
def pad (off : Nat) : Word := BitVec.ofNat 64 (0x7FF00000000000 + off)
def padA (off : Nat) : Nat := fpaOf 5 3 0 off
def regs (l : List (Nat × Word)) (t : Thread) : Thread := l.foldl (fun t x => setScalar (BitVec.ofNat 7 x.1) x.2 t) t
def user (l : List (Nat × Word)) : State := { State.reset with thr := regs l t0, time := 100 }
def w0 : State := user [(8, pad 0x40), (9, 7), (10, 0xFFFFFFFFFFFFFFF0)]
def kern (s : State) : State := { s with thr := { s.thr with k := { s.thr.k with km := true } } }
def put (key a n v : Nat) (s : State) : State := memWrite key a n v s
/-- A page in the Span's micro-TLB, at virtual page 0x77. -/
def page (fpa flags : Nat) (l : List (Nat × Word)) : State :=
  modSpan 5 3 (fun x => { x with utlb := [⟨0x77, false, 0, BitVec.ofNat 64 (flags + fpa / 65536 * 65536)⟩] }) (user l)
def mva (off : Nat) : Word := BitVec.ofNat 64 (0x770000 + off)
/-- The locations that accesses to the scratchpad and to that page reach. -/
def padR (off : Nat) : Ref := ⟨padA off, 0, false, pad off, none, false⟩
def pageR (fpa flags : Nat) (win : Bool) (off : Nat) : Ref :=
  ⟨fpa + off, 0, win, mva off, some (BitVec.ofNat 64 (flags + fpa / 65536 * 65536), false), false⟩
/-- A shape register of two dimensions. -/
def mkv (base : Word) (f : BitVec 8) (e0 e1 : Nat) (s0 s1 : Int) : ShapeReg :=
  base.setWidth 512 ||| (BitVec.ofNat 512 e0 <<< 64) ||| (BitVec.ofNat 512 e1 <<< 128) ||| (BitVec.ofNat 512 1 <<< 192)
  ||| (BitVec.ofNat 512 1 <<< 256) ||| (BitVec.ofNat 512 1 <<< 320) ||| (BitVec.ofNat 512 1 <<< 384)
  ||| ((BitVec.ofInt 48 s0).setWidth 512 <<< 80) ||| ((BitVec.ofInt 48 s1).setWidth 512 <<< 144) ||| (f.setWidth 512 <<< 448)
def sh (n : Nat) (t : ShapeReg) (s : State) : State := withThr s { s.thr with shp := vset s.thr.shp n t }
/-- Two lines of data at the start of the scratchpad. -/
def mem1 (s : State) : State :=
  put 0 (padA 0) 64 0x101112131415161718191A1B1C1D1E1F202122232425262728292A2B2C2D2E2F3031 (put 0 (padA 64) 64 0xABCDEF s)
/-- A vector thread: `vtype`, `vl`, registers v3 and v4, mask m0 with positions 0, 2, 4, 5. -/
def vecState (vt : BitVec 9) (vl : BitVec 11) (v4 : Nat) (l : List (Nat × Word)) : State :=
  let s := user l
  withThr s { s.thr with
    u := { s.thr.u with vtype := vt, vl := vl }
    v := { s.thr.v with
      short := vset (vset s.thr.v.short 3 (BitVec.ofNat 256 0x0000004000000000000000300000000800000010)) 4 (BitVec.ofNat 256 v4)
      smask := vset s.thr.v.smask 1 (BitVec.ofNat _ 0b110101) } }
def firstTransfer (t : Thread) : Option Transfer := t.tr.head?
/-- A state's message by its number. -/
def messageOf (s : State) (id : Nat) : Option CollMsg := s.messages.find? (fun x => x.id == id)

/-- A word decodes to the instruction, and the instruction's encoding is that word. -/
noncomputable def word (w : IWord) (i : Instr) : Bool := (match decode w with | .ok x => decide (x = i) | .error _ => false) && decide (encode i = w)
noncomputable def rejected (w : IWord) : Bool := match decode w with | .ok _ => false | .error _ => true

def legalB (t : Thread) : Bool := decide (t.sc.wb ≤ 336) && decide (t.sc.wb % 16 = 0)

/-- Code at virtual address 0 of the thread's die, in a user page that may be executed. -/
def code (ws : List IWord) (s : State) : State :=
  put 0 (5 * 2 ^ 45 + 0x90000) (4 * ws.length) (ws.foldr (fun w n => w.toNat + 2 ^ 32 * n) 0)
    (modSpan 5 3 (fun x => { x with utlb := [⟨0, false, 0, BitVec.ofNat 64 (0x1B + 5 * 2 ^ 45 + 0x90000)⟩] }) (withThr s { s.thr with pc := 0 }))

/-! ## Decoding, encoding, well-formedness -/

/-- Major 0x01 to 0x03: the scalar words. -/
theorem test_decode_scalar :
    (word 0x0C000000 (.addi 0 0 0) && word 0x04508120 (.add 10 8 9) && word 0x07E08120 (.add 124 8 9) && word 0x04508134 (.mulhu 10 8 9)
      && word 0x08508121 (.subw 10 8 9)) = true := by decide +kernel
/-- Immediates, branches, jumps (majors 0x07 to 0x13). -/
theorem test_decode_immediates_branches :
    (word 0x1C488003 (.slli 9 8 3) && word 0x1C48883F (.srai 9 8 63) && word 0x38409002 (.blt 8 9 2) && word 0x34400FFD (.bne 8 0 0xFFD)
      && word 0x48080010 (.jal 1 16) && word 0x4C001000 (.jalr 0 1 0)) = true := by decide +kernel
/-- Loads, stores, acquire and release, atomics, fences (majors 0x14 to 0x17). -/
theorem test_decode_memory :
    (word 0x50482FFC (.lw 9 2 0x1FF) && word 0x50603016 (.ld 12 3 2) && word 0x54602FFB (.sd 12 2 0x1FF)
      && word 0x58488001 (.ldaD 9 8) && word 0x58008145 (.strP 8 10) && word 0x58008146 (.aadd 8 10) && word 0x5800814E (.afadd 8 10)
      && word 0x58488151 (.acas 9 8 10) && word 0x58488013 (.sumrd 9 8) && word 0x5C000015 (.fenceRel 1) && word 0x5C000013 (.fenceAll 1)
      && word 0x5C000034 (.fenceAcq 3) && word 0x5C000006 (.fenceRem 0)) = true := by decide +kernel
/-- Control registers, the window, traps and system words (majors 0x18 to 0x1D). -/
theorem test_decode_system :
    (word 0x60005006 (.csrrw 0 5 0x006) && word 0x64480000 (.csrrs 9 0 0x000) && word 0x6C000002 (.winadj 2) && word 0x6C00007E (.winadj 0x7E)
      && word 0x6C005800 (.winset 5) && word 0x70000007 (.trap 7) && word 0x74000000 .eret && word 0x74000001 .brk
      && word 0x74000002 .l1inv && word 0x74000003 .winv && word 0x74005004 (.ctxsave 5) && word 0x74005005 (.ctxrest 5)
      && word 0x74000006 .halt && word 0x74008007 (.xfmq 8)) = true := by decide +kernel
/-- Vector control and the prefixes (majors 0x1E and 0x1F). -/
theorem test_decode_vector_control :
    (word 0x78000000 .vmodeS && word 0x78488002 (.setvl 9 8) && word 0x78488143 (.setvlD 9 8 10) && word 0x7800A004 (.setvt 10)
      && word 0x7C7C0000 (.rep 7 true true false 0) && word 0x7CCC0001 (.loop 3 3 0)) = true := by decide +kernel
/-- Vector lanes, comparisons, conversions, reductions (majors 0x20 to 0x34). -/
theorem test_decode_vector :
    (word 0x80082920 (.vadd 1 2 73 0) && word 0x801840A1 (.vsub 3 4 5 0) && word 0xAC208127 (.vfma 4 8 9 3) && word 0x88306980 (.vmulhu 6 6 76 0)
      && word 0xA4100023 (.vfadd 2 0 1 1) && word 0xCC305020 (.vneg 6 5 0) && word 0xCC403180 (.vwidenI 8 3 0)
      && word 0xCC28A224 (.vfnarrow 5 10 2) && word 0xD0004100 (.vfrsum 0 4 0) && word 0xD3C04000 (.vrsum 120 4 0)) = true := by decide +kernel
/-- Vector memory and tensor words (majors 0x36 to 0x3B). -/
theorem test_decode_vector_memory :
    (word 0xD808B000 (.vld 1 11 0 0) && word 0xD8188127 (.vldNb 3 8 9 3) && word 0xDC08B000 (.vst 1 11 0 0)
      && word 0xE0208040 (.vldx 4 8 2 0) && word 0xE4288044 (.vstx 5 8 2 2) && word 0xE820C040 (.vaadd 4 12 2 0)) = true := by decide +kernel
/-- The Truss (majors 0x3C to 0x3E). -/
theorem test_decode_truss :
    (word 0xF00840B0 (.mmav 0 2 8 11 0) && word 0xF448E0A0 (.mmatG 1 2 3 10 0) && word 0xF448C0A3 (.mmat 1 2 3 10 3)
      && word 0xF8180000 (.mz 3) && word 0xF8185121 (.mst 3 5 9) && word 0xF8800002 (.mrd 16 0 0) && word 0xF8188124 (.mwr 3 8 9)
      && word 0xF8000003 .msync) = true := by decide +kernel
/-- The engines, waits, claims, sets and collectives (major 0x3F). -/
theorem test_decode_engines :
    (word 0xFC008000 (.ceresume 8) && word 0xFC488002 (.cestat 9 8) && word 0xFC008123 (.waitge 8 9) && word 0xFC088015 (.tldr 1 8)
      && word 0xFC208137 (.tset 4 8 9) && word 0xFC504138 (.tget 10 4 9) && word 0xFC104019 (.vshp 2 4) && word 0xFC48801A (.ceprom 9 8)
      && word 0xFC488146 (.claim 9 8 10) && word 0xFC488147 (.claimt 9 8 10) && word 0xFC488008 (.launch 9 8) && word 0xFC008009 (.cancel 8)
      && word 0xFC00000A .exit && word 0xFC00000B .yield && word 0xFC00800C (.gjoin 8) && word 0xFC00800E (.gbar 8)
      && word 0xFC10812F (.crs 2 8 9) && word 0xFC108130 (.car 2 8 9) && word 0xFC108131 (.cbc 2 8 9) && word 0xFC108132 (.cag 2 8 9)
      && word 0xFC008133 (.cbar 8 9) && word 0xFC008134 (.cbarRt 8 9)) = true := by decide +kernel
/-- Unassigned sub-opcodes and fields that must be zero are refused. -/
theorem test_decode_rejects :
    (rejected 0x0850812A && rejected 0x04508139 && rejected 0x6C000082 && rejected 0x00000000 && rejected 0xFFFFFFFF) = true := by decide +kernel

/-- One ill-formed term for each check: a mask selector above 12, a mask of `vmerge` above 11, a step of `rep` that moves no
field, and a step of the machine itself, which has no word. -/
theorem test_illformed_mask : (Instr.vadd 1 2 3 13).wellFormed = false := by decide +kernel
theorem test_illformed_merge : (Instr.vmerge 1 2 3 12).wellFormed = false := by decide +kernel
theorem test_illformed_rep : (Instr.rep 3 false false false 1).wellFormed = false := by decide +kernel
theorem test_illformed_event : Instr.timer.wellFormed = false := by decide +kernel

theorem witness_DecodeOfEncodeIsTheInstruction : (Instr.vmerge 47 1 2 11).wellFormed = true ∧ (Instr.rep 63 true true true 3).wellFormed = true := by
  decide +kernel
theorem witness_NoInstructionStopsTheMachine : (Instr.vadd 1 2 3 12).wellFormed = true ∧ isNx (exec (.vadd 1 2 3 12) w0) = true := by decide +kernel

/-! ## The machine as a whole -/

theorem witness_EveryStepKeepsMemoryCanonical : Memory.wf State.reset = true ∧ isNx (step State.reset) = true := by decide +kernel
theorem witness_EveryStepKeepsWindowBasesLegal :
    ((allThreads w0).all legalB && w0.vault.isEmpty && isNx (step w0) && (allThreads (aft (step w0))).all legalB) = true := by decide +kernel

/-- The turn runs the thread: its word is fetched, decoded and executed. -/
def turnState : State := { code [0x04508120] w0 with turns := [{ Turn.default with choice := .run home }] }
theorem witness_AStepRunsTheDecodedInstruction :
    (match focus home (beginStep turnState) with
      | some u => decide ((beginStep turnState).turn.choice = .run home) && (boundary u).isNone && canTry u u.thr &&
          (match nextWord u with
            | .ok w v => decide (w = 0x04508120) && word w (.add 10 8 9) && nx (step turnState) (aft (exec (.add 10 8 9) v))
            | _ => false)
      | none => false) = true := by decide +kernel
theorem witness_AStepRunsTheDecodedInstruction_automatic :
    (let s := code [0x04508120] w0
     match nextThread (beginStep s) with
      | some u => decide ((beginStep s).turn.choice = .auto) && (dueEvent (beginStep s)).isNone &&
          (match nextWord u with | .ok w v => word w (.add 10 8 9) && nx (step s) (aft (exec (.add 10 8 9) v)) | _ => false)
      | none => false) = true := by decide +kernel

/-! ## Scalar registers, queues, control flow, the window -/

namespace Scalars

def pairs : List (Word × Word) :=
  [(7, 3), (0xFFFFFFFFFFFFFFFF, 5), (0x8000000000000000, 0xFFFFFFFFFFFFFFFF), (0x123456789ABCDEF0, 0), (0xFFFFFFFF80000001, 63)]
def two (p : Word × Word) : State := user [(8, p.1), (9, p.2)]
def got (s : State) (o : Outcome State Fault Refusal) (rd : BitVec 7) (v : Word) : Bool :=
  match o with | .next t => decide (scalar t.thr rd = v) && decide (t.thr.pc = s.thr.pc + 4) | _ => false
def holding (q : Nat) (l : List Word) (s : State) : State := withThr s (setQueue q l s.thr)

theorem witness_AluAndImmediateWordsWriteTheirResult_alu :
    (binaryWords.all fun p => pairs.all fun x => let s := two x
      (! s.thr.host) && dstS 10 && srcS 8 && srcS 9 && readsB 8 s x.1 && readsB 9 s x.2 &&
        got s (exec (p.1 10 8 9) s) 10 (p.2 x.1 x.2)) = true := by decide +kernel
theorem witness_AluAndImmediateWordsWriteTheirResult_unary :
    (unaryWords.all fun p => pairs.all fun x => readsB 8 (two x) x.1 && got (two x) (exec (p.1 10 8) (two x)) 10 (p.2 x.1)) = true := by
  decide +kernel
theorem witness_AluAndImmediateWordsWriteTheirResult_immediate :
    (immediateWords.all fun p => pairs.all fun x => [1#12, 0x7FF, 0x800].all fun k =>
      got (two x) (exec (p.1 10 8 k) (two x)) 10 (p.2 x.1 (k.signExtend 64))) = true := by decide +kernel
theorem witness_AluAndImmediateWordsWriteTheirResult_shift :
    (shiftWords.all fun p => pairs.all fun x => [0#6, 1, 63].all fun k =>
      got (two x) (exec (p.1 10 8 k) (two x)) 10 (p.2 x.1 k)) = true := by decide +kernel
theorem witness_AluAndImmediateWordsWriteTheirResult_upper :
    ([0#19, 0x3FFFF, 0x40000, 0x7FFFF].all fun k =>
      got w0 (exec (.lui 10 k) w0) 10 (BitVec.ofInt 64 (k.toInt * 2 ^ 13)) &&
      got w0 (exec (.auipc 10 k) w0) 10 (0x1000 + BitVec.ofInt 64 (k.toInt * 2 ^ 12))) = true := by decide +kernel
/-- R116's own corners: the most negative number over −1, and division by zero. -/
theorem test_division_corners :
    (got w0 (exec (.div 10 8 9) (user [(8, 0x8000000000000000), (9, 0xFFFFFFFFFFFFFFFF)])) 10 0x8000000000000000 &&
      got w0 (exec (.remu 10 8 9) (user [(8, 77), (9, 0)])) 10 77 && got w0 (exec (.divuw 10 8 9) (user [(8, 77), (9, 0)])) 10 0xFFFFFFFFFFFFFFFF)
      = true := by decide +kernel

theorem witness_AluWordsChangeOnlyTheirDestination :
    (binaryWords.all fun p => legalB w0.thr && eqS (aft (exec (p.1 10 8 9) (two (7, 3))))
      (advance (withThr (two (7, 3)) (setScalar 10 (p.2 7 3) (two (7, 3)).thr)))) = true := by decide +kernel

theorem witness_QueuesWaitAndRefuse :
    (binaryWords.all fun p =>
      decide (queueAt w0.thr 0 = []) && nx (exec (p.1 10 120 9) w0) (withThr w0 { w0.thr with wait := some (.popEmpty 0 0) }) &&
      (let s := holding 0 [3] w0
       nx (exec (p.1 10 120 120) s) (withThr s { s.thr with wait := some (.popEmpty 0 1) })) &&
      nx (exec (p.1 124 8 9) (holding 4 (List.replicate 16 3) w0)) (park (.pushFull 4) (holding 4 (List.replicate 16 3) w0)) &&
      nx (exec (p.1 120 8 9) w0) (takeTrap false 0x02 ((encode (p.1 120 8 9)).setWidth 64) w0) &&
      nx (exec (p.1 10 124 9) w0) (takeTrap false 0x02 ((encode (p.1 10 124 9)).setWidth 64) w0)) = true := by decide +kernel
/-- Two pops of one queue take its two oldest entries (R114). -/
theorem test_queue_pops :
    (nx (exec (.add 124 120 121) (holding 0 [3, 4] (holding 1 [5] w0))) (advance (holding 4 [8] (holding 0 [4] (holding 1 [] w0)))) &&
      nx (exec (.sub 124 120 120) (holding 0 [3, 4] w0)) (advance (holding 4 [0xFFFFFFFFFFFFFFFF] (holding 0 [] w0)))) = true := by
  decide +kernel

theorem witness_ControlFlowGoesWhereItSays_branch :
    (branchWords.all fun p => pairs.all fun x => match exec (p.1 8 9 0xFFE) (two x) with
      | .next t => decide (t.thr.pc = if p.2 x.1 x.2 then 0xFF8 else 0x1004) | _ => false) = true := by decide +kernel
theorem witness_ControlFlowGoesWhereItSays_jal :
    nx (exec (.jal 10 0x7FFFE) w0) (let s := withThr w0 (setScalar 10 0x1004 w0.thr)
      withThr s { s.thr with pc := 0xFF8 }) = true := by decide +kernel
theorem witness_ControlFlowGoesWhereItSays_jalr :
    (nx (exec (.jalr 8 8 4) w0) (let s := withThr w0 (setScalar 8 0x1004 w0.thr)
      withThr s { s.thr with pc := pad 0x44 }) && nx (exec (.jalr 8 8 3) w0) (takeTrap false 0x05 (pad 0x43) w0)) = true := by
  decide +kernel

theorem witness_WindowRenamesRegisters_registers :
    (legalB w0.thr && [0, 7, 8, 119].all fun f => [0, 7, 8, 119].all fun g => decide (
      scalar (setScalar (BitVec.ofNat 7 f) 77 w0.thr) (BitVec.ofNat 7 g) =
        if g = f ∧ f ≠ 0 then 77 else scalar w0.thr (BitVec.ofNat 7 g))) = true := by decide +kernel
theorem witness_WindowRenamesRegisters_adjust :
    (nx (exec (.winadj 1) w0) (advance (withThr w0 { w0.thr with sc := { w0.thr.sc with wb := 16 } })) &&
      nx (exec (.winadj 0x7F) w0) (takeTrap false 0x09 0xFFFFFFFFFFFFFFF0 w0) &&
      nx (exec (.winadj 22) w0) (takeTrap false 0x09 352 w0)) = true := by decide +kernel
theorem witness_WindowRenamesRegisters_set :
    (nx (exec (.winset 9) w0) (takeTrap false 0x09 7 w0) && (let s := user [(9, 336)]
      nx (exec (.winset 9) s) (advance (withThr s { s.thr with sc := { s.thr.sc with wb := 336 } })))) = true := by decide +kernel
/-- What was s24 is s8 after the window has moved by 16 (R109). -/
theorem test_window_moves_names :
    decide (scalar (aft (exec (.winadj 1) (user [(24, 99)]))).thr 8 = 99) = true := by decide +kernel

end Scalars

/-! ## Checks before a word, traps, returns -/

namespace Traps

theorem witness_DecodingChecksInOrder_illegal :
    (rejected 0 && nx (exec (.illegalInstruction 0) w0) (takeTrap false 0x01 0 w0)) = true := by decide +kernel
theorem witness_DecodingChecksInOrder_privilege :
    ([Instr.eret, .halt, .ctxsave 8, .ctxrest 8, .xfmq 8, .csrrw 10 8 0x801, .csrrs 10 8 0x814].all fun i =>
      nx (exec i w0) (takeTrap false 0x04 (failing i) w0)) = true := by decide +kernel
theorem witness_DecodingChecksInOrder_mode :
    ([Instr.mmav 1 1 3 9 0, .mrd 3 1 9, .mwr 1 3 9, .vshp 1 2, .vshp 50 127, .mmav 15 15 127 127 15].all fun i =>
      nx (exec i w0) (takeTrap false 0x03 (failing i) w0)) = true := by decide +kernel
theorem witness_DecodingChecksInOrder_operand :
    (decide (partNtile w0.thr.u.part = 4) &&
      [Instr.vadd 48 1 1 0, .vfadd 127 1 1 0, .tldr 16 8, .tstr 127 8, .acas 1 2 0, .acas 120 124 7, .acas 1 2 119, .mz 4, .mz 127].all fun i =>
      nx (exec i w0) (takeTrap false 0x02 (failing i) w0)) = true := by decide +kernel

/-- A user thread with interrupts on, a handler and a `vtype`. -/
def ready : State :=
  withThr w0 { w0.thr with k := { w0.thr.k with ktvec := 0x8000, ie := true, vkm := true }, u := { w0.thr.u with vtype := 0x141 } }

theorem witness_TrapsEnterTheHandler_entry :
    (eqT (takeTrap false 0x10 5 ready).thr (trapped 0x10 5 0 true ready.thr) &&
      eqT (takeTrap false 0x83 5 ready).thr (trapped 0x83 5 0 true ready.thr)) = true := by decide +kernel
theorem witness_TrapsEnterTheHandler_words :
    (nx (exec (.trap 0xFFF) ready) (takeTrap false 0x10 0xFFF ready) && nx (exec .brk ready) (takeTrap false 0x0F 0 ready)) = true := by
  decide +kernel
theorem witness_KernelTrapsAndReturns_return :
    nx (exec .eret (takeTrap false 0x10 5 ready)) (let s := takeTrap false 0x10 5 ready
      withThr s { s.thr with
        pc := 0x1000, wait := none, u := ready.thr.u, k := { s.thr.k with km := false, ie := true, vqn := 0 } }) = true := by
  decide +kernel
theorem witness_KernelTrapsAndReturns_fatal :
    (let t := takeTrap false 0x02 9 (kern w0)
     decide (t.thr.status ≠ .running) && sameMem t w0 && ((pkgOf t 1).log.any fun e =>
       decide (e.code = .fatal .kernelTrap ∧ e.peer = 5 ∧ e.tick = 100 ∧ e.data.head? = some 3))) = true := by decide +kernel

/-- A user thread with a handler, whose two vector entries, one of two scalars, can be saved on a page of its die's own memory. -/
noncomputable def saving : State :=
  let s := page (5 * 2 ^ 45 + 0x90000) 0x27 [(8, pad 0x40), (9, 8)]
  let s := withThr s { s.thr with
    k := { s.thr.k with ktvec := 0x8000, kvq := mva 0, ie := true }, u := { s.thr.u with vl := 4, vtype := 0x102, vstart := 2 } }
  { withThr s { s.thr with v := { s.thr.v with vq := [newEntry s.thr (.vld 1 8 9 0) none [(8, 9)] 0, newEntry s.thr (.vadd 1 2 3 0) none [] 1] } } with
    turn := { Turn.default with defer := true } }
theorem witness_TrapsEnterTheHandler_stream :
    (match saveQueue saving with
      | some s' => eqT (takeTrap true 0x07 9 saving).thr (trapped 0x07 9 2 false s'.thr) && decide (s'.thr.v.vq = [] ∧
          vaultQueue s' saving.fresh = saving.thr.v.vq ∧ (sectorOf s' ((5 * 2 ^ 45 + 0x90800) / 64)).record = some ⟨saving.fresh, 0⟩ ∧
          (sectorOf s' ((5 * 2 ^ 45 + 0x91800) / 64)).record = some ⟨saving.fresh, 64⟩)
      | none => false) = true := by decide +kernel
theorem witness_TrapsEnterTheHandler_saveFails :
    (let s := withThr saving { saving.thr with k := { saving.thr.k with kvq := 0 } }
     (saveQueue s).isNone && decide ((takeTrap true 0x07 9 s).thr.status ≠ .running) && (match saveQueue w0 with | some u => eqS u w0 | none => false)) = true := by
  decide +kernel
noncomputable def replaying : State := let s := takeTrap true 0x07 9 saving; withThr s { s.thr with u := { s.thr.u with vstart := 3 } }
theorem witness_KernelTrapsAndReturns_replay :
    (match restoreQueue replaying, exec .eret replaying with
      | .ok es s1, .next t => decide (es = saving.thr.v.vq) && s1.turn.defer && decide (t.thr.v.vq.length = 2 ∧
          t.thr.v.vq.map (·.start) = [3, 2] ∧ t.thr.v.vq.map (·.ins) = [.vld 1 8 9 0, .vadd 1 2 3 0] ∧ t.thr.u.vstart = 0 ∧
          t.thr.u.vtype = 0x102 ∧ t.thr.k.vqn = 0 ∧ t.thr.k.km = false ∧ t.thr.k.ie = true ∧ t.thr.pc = 0x1000)
      | _, _ => false) = true := by decide +kernel
theorem witness_KernelTrapsAndReturns_replayWaits :
    (let e := newEntry w0.thr (.vadd 1 2 3 0) none [] 0
     let s := withThr replaying { replaying.thr with v := { replaying.thr.v with vq := List.replicate 63 e } }
     match exec .eret s with | .next t => eqT t.thr { s.thr with wait := some .vqFull } | _ => false) = true := by decide +kernel
theorem witness_KernelTrapsAndReturns_replayFails :
    (let s := { replaying with vault := [] }
     match restoreQueue s with
      | .error (.fatal .queueRestore x) _ => decide (x = 5 * 2 ^ 45 + 0x90800) && decide ((aft (exec .eret s)).thr.status ≠ .running)
      | _ => false) = true := by decide +kernel

/-! ## Control and status registers -/

def ks : State := kern (user [(8, 0xA5A5A5A5A5A5A5A5), (9, 0x30)])

theorem witness_CsrsReadAndWrite_csrrw :
    (storageCsrs.all fun p => readsB 8 ks 0xA5A5A5A5A5A5A5A5 && nx (exec (.csrrw 10 8 p.1) ks)
      (let s := withThr ks (setScalar 10 (p.2.1 ks.thr) ks.thr)
       advance (withThr s (p.2.2 0xA5A5A5A5A5A5A5A5 s.thr)))) = true := by decide +kernel
theorem witness_CsrsReadAndWrite_csrrs :
    (storageCsrs.all fun p => let k := withThr ks (p.2.2 0x1234567812345678 ks.thr)
      let s := withThr k (setScalar 10 (p.2.1 k.thr) k.thr)
      nx (exec (.csrrs 10 8 p.1) k) (advance (withThr s (p.2.2 (p.2.1 k.thr ||| 0xA5A5A5A5A5A5A5A5) s.thr))) &&
        nx (exec (.csrrs 10 0 p.1) k) (advance s)) = true := by decide +kernel
theorem witness_CsrsReadAndWrite_step :
    (storageCsrs.all fun p =>
      nx (exec (.registerWrite (.csr p.1) 0xA5A5A5A5A5A5A5A5) ks) (withThr ks (p.2.2 0xA5A5A5A5A5A5A5A5 ks.thr))) = true := by
  decide +kernel
theorem witness_CsrsReadAndWrite_readOnly :
    (readOnlyCsrs.all fun p => let t := advance (withThr ks (setScalar 10 (p.2 ks) ks.thr))
      nx (exec (.csrrw 10 8 p.1) ks) t && nx (exec (.csrrs 10 8 p.1) ks) t) = true := by decide +kernel

/-- A ruled CSR at a value: taken, or trapped, by `csrrw` and by the step of its own. -/
noncomputable def ruled (num : BitVec 12) (a : Word) (legal : Bool) : Bool :=
  match ruledCsrs.find? (·.num = num), ruledSteps.find? (·.1 = num) with
  | some p, some q =>
    let s := user [(8, a)]
    let s1 := withThr s (setScalar 10 (p.val s.thr) s.thr)
    if legal then nx (exec (.csrrw 10 8 num) s) (advance (withThr s1 (p.set a s1.thr))) && nx (exec (q.2 a) s) (withThr s (p.set a s.thr))
    else nx (exec (.csrrw 10 8 num) s) (takeTrap false p.cause (p.report (failing (.csrrw 10 8 num)) a) s) &&
      (match exec (q.2 a) s with | .next u => decide (u.thr.k.kcause = p.cause) | _ => false)
  | _, _ => false

theorem witness_RuledAndKernelCsrs_vl : (ruled 0 4 true && ruled 0 5 false && ruled 0 0x800 true && ruled 2 4 true && ruled 2 5 false) = true := by
  decide +kernel
theorem witness_RuledAndKernelCsrs_vtype :
    (ruled 1 0x003 true && ruled 1 0x101 true && ruled 1 0x007 false && ruled 1 0x005 true && ruled 1 0x00C false && ruled 1 0x030 false
      && ruled 1 0x140 false && ruled 1 0x120 true && ruled 1 0x203 true) = true := by decide +kernel
theorem witness_RuledAndKernelCsrs_wb :
    (ruled 6 336 true && ruled 6 352 false && ruled 6 8 false && ruled 6 0x100000000 false) = true := by decide +kernel
theorem witness_RuledAndKernelCsrs_nbctr_mstat :
    (ruled 7 0x7FFFFFFFFFFFF8 true && ruled 7 0xFFFFFFFFFFFFFFF8 true && ruled 7 4 false && ruled 0xA 0x20 true && ruled 0xA 0xFFFF true) = true := by
  decide +kernel
/-- Clearing ERR clears the cause and its sequence number; the posted number stands (R266). -/
theorem test_mstat_clears_error :
    (let s := withThr (user [(8, 0x21)]) { (user [(8, 0x21)]).thr with u := { (user [(8, 0x21)]).thr.u with mstat := 0x0000123456780F7B } }
     decide ((aft (exec (.csrrw 10 8 0x00A) s)).thr.u.mstat = 0x000012340000005A)) = true := by decide +kernel
theorem witness_RuledAndKernelCsrs_kstatus :
    ([0, 0xFFFFFFFFFFFFFFFF, 0x0000000000014162, 0x40000000].all fun v =>
      nx (exec (.kstatusWrite v) (kern w0)) (withThr (kern w0) (withKstatus v (kern w0).thr))) = true := by decide +kernel
theorem witness_RuledAndKernelCsrs_space :
    (spaceCsrs.all fun p => let v : Word := 0xFFFFFFFFFFFFFFFF
      let s := kern (user [(8, v)])
      let s1 := withThr s (setScalar 10 (p.2.1 s.thr) s.thr)
      oldB s && nx (exec (.ptbrWrite p.1 v) s) (withThr s (p.2.2 v s.thr)) &&
        nx (exec (.csrrw 10 8 p.1) s) (advance (withThr s1 (p.2.2 v s1.thr)))) = true := by decide +kernel
/-- `csrrs` on a ruled CSR writes the OR with the old value (R71). -/
theorem witness_RuledAndKernelCsrs_set :
    (let s := user [(8, 16)]
     let s := withThr s { s.thr with sc := { s.thr.sc with wb := 0 } }
     let s1 := withThr s (setScalar 10 0 s.thr)
     nx (exec (.csrrs 10 8 6) s) (advance (withThr s1 { s1.thr with sc := { s1.thr.sc with wb := 16 } })) &&
       nx (exec (.csrrs 10 8 7) s) (advance (withThr s1 { s1.thr with u := { s1.thr.u with nbctr := 16 } })) &&
       nx (exec (.csrrs 10 8 0) s) (takeTrap false 0x02 (failing (.csrrs 10 8 0)) s)) = true := by decide +kernel
/-- A write of the space's registers waits while a request of the vector stream is out, and while a transfer runs. -/
theorem witness_RuledAndKernelCsrs_spaceWaits :
    (spaceCsrs.all fun p => let s := kern (user [(8, 1)])
      let e := newEntry s.thr (.vadd 1 2 3 0) none [] 0
      let v := withThr s { s.thr with v := { s.thr.v with vq := [e] } }
      let h := withThr v { v.thr with v := { v.thr.v with held := some ⟨7, 0⟩ } }
      nx (exec (.ptbrWrite p.1 1) v) (park .other v) && nx (exec (.csrrw 10 8 p.1) v) (park .other v) &&
        nx (exec (.ptbrWrite p.1 1) h) (withThr h (p.2.2 1 h.thr))) = true := by decide +kernel
def grant (sel : BitVec 14) : State := withThr (kern w0) { (kern w0).thr with k := { (kern w0).thr.k with kbsel := sel } }
theorem witness_RuledAndKernelCsrs_grant :
    (nx (exec (.kbgrantWrite 3200000) (grant 0x1000)) (modDie 5 (fun d => { d with grants := nset d.grants 0 3200000 }) (grant 0x1000)) &&
      nx (exec (.kbgrantWrite 3200001) (grant 0x1000)) (takeTrap false 0x02 (failing (.csrrw 0 0 0x815)) (grant 0x1000)) &&
      nx (exec (.kbgrantWrite 5) (grant 0x0006)) (grant 0x0006) && nx (exec (.kbgrantWrite 5) (grant 0x0060)) (grant 0x0060) &&
      (let s := withThr (grant 0) { (grant 0).thr with k := { (grant 0).thr.k with ctxid := 1, ne := true } }
       decide ((aft (exec (.kbgrantWrite 5) s)).thr.k.kcause = 0x04))) = true := by decide +kernel

theorem witness_CsrsReadAndWrite_stream :
    (let s := user [(8, 5)]
     let q := withThr s { s.thr with v := { s.thr.v with vq := [newEntry s.thr (.vadd 1 2 3 0) none [] 1] } }
     nx (exec (.csrrw 10 8 0x003) s) (advance (withThr s (setScalar 10 0 s.thr))) &&
       nx (exec (.csrrs 10 8 0x003) q) (advance (withThr q (setScalar 10 0x1000 q.thr))) &&
       (let t := withThr s (setQueue 0 [9] (setQueue 4 [1, 2, 3] s.thr))
        let v := scalar (aft (exec (.csrrs 10 120 0x00B) t)).thr 10
        (List.range 8).all (fun k => decide ((v.extractLsb' (5 * k) 5).toNat = if k = 4 then 3 else if k = 0 then 1 else 0))) &&
       (let t := withThr s (setQueue 4 [1, 2, 3] s.thr)
        let v := scalar (aft (exec (.csrrs 10 8 0x00B) t)).thr 10
        (List.range 8).all (fun k => decide ((v.extractLsb' (5 * k) 5).toNat = if k = 4 then 3 else 0)) &&
          decide (v.extractLsb' 40 24 = 0))) = true := by decide +kernel

end Traps

/-! ## Addresses, loads, stores, atomics, fences -/

namespace Memory

def accs : List Acc := [.load, .store, .atomic, .syncLoad, .scalarLoad 8, .scalarStore 8]

theorem witness_AccessesTranslateAndCheck_order :
    (accs.all fun a => errB (access a false 8 (pad 3) w0) (.trap 0x05 (pad 3)) w0
      && okB (access a false 8 (pad 8) w0) (padR 8) w0
      && errB (access a false 8 (pad 0x100000) w0) (.trap 0x07 (pad 0x100000)) w0
      && errB (access a false 8 (pad 0x3FFFFFF8) w0) (.trap 0x07 (pad 0x3FFFFFF8)) w0
      && errB (access a false 8 (pad 0x40100000) w0) (.trap 0x07 (pad 0x40100000)) w0
      && errB (access a false 8 0x80000000000000 w0) (.trap 0x06 0x80000000000000) w0) = true := by decide +kernel

/-- A walk on die 5: tables at 0x10000, 0x30000 and 0x50000, a leaf to 0x90000 with key index 7. -/
def hbm (o : Nat) : Nat := 5 * 2 ^ 45 + o
def va : Word := BitVec.ofNat 64 (3 * 2 ^ 42 + 5 * 2 ^ 29 + 9 * 2 ^ 16 + 0x40)
def walked : State :=
  let s := put 0 (hbm 0x10018) 8 (1 + hbm 0x30000)
    (put 0 (hbm 0x30028) 8 (1 + hbm 0x50000) (put 0 (hbm 0x50048) 8 (0x17 + hbm 0x90000 + 7 * 2 ^ 57) w0))
  withThr s { s.thr with k := { s.thr.k with ptbr := BitVec.ofNat 64 (hbm 0x10000), keysel := 2 } }
def pointerB (p : Word) : Bool :=
  p.getLsbD 0 && ! p.getLsbD 1 && ! p.getLsbD 2 && ! p.getLsbD 3 && decide (p.extractLsb' 9 7 = 0)

theorem witness_AccessesTranslateAndCheck_walk :
    (let p0 := pte walked 5 (pteTarget walked.thr.k.ptbr) 3
     let p1 := pte walked 5 (pteTarget p0) 5
     (tlbOf walked).isEmpty && pointerB p0 && pointerB p1 &&
     (match access .load false 8 va walked with
      | .ok r s => decide (r = ⟨hbm 0x90040, 2 * 128 + 7, false, va, some (BitVec.ofNat 64 (0x17 + hbm 0x90000 + 7 * 2 ^ 57), false), false⟩) &&
          eqT s.thr { walked.thr with pages := s.thr.pages } && sameMem s walked
      | _ => false)) = true := by decide +kernel
theorem witness_AccessesTranslateAndCheck_invalid :
    (errB (access .load false 8 (va + 0x10000) walked) (.trap 0x06 (va + 0x10000)) walked &&
      errB (access .load false 8 (va + 0x40000000000) walked) (.trap 0x06 (va + 0x40000000000)) walked) = true := by decide +kernel

def data : State := put 0 (padA 0x40) 8 0x8899AABBCCDDEEFF w0

theorem witness_LoadsReadMemory :
    (loadTable.all fun p => let r : Ref := padR 0x40
      readsB 8 data (pad 0x40) && grantedB (.scalarLoad p.2.1) p.2.1 (pad 0x40) data r && unheldB (pad 0x40) p.2.1 false data &&
      reachesB .load r p.2.1 data && decide (homeKind r.fpa ≠ .mmio) && ! cacheable data r &&
      nx (exec (p.1 10 8 0) data) (advance (withThr data
        (setScalar 10 (p.2.2.2 (memRead data 0 (padA 0x40) p.2.1)) data.thr)))) = true := by decide +kernel
/-- Sign and zero extension of the byte EE at 0x41. -/
theorem test_byte_loads :
    decide (scalar (aft (exec (.lb 10 8 1) data)).thr 10 = 0xFFFFFFFFFFFFFFEE ∧ scalar (aft (exec (.lbu 10 8 1) data)).thr 10 = 0xEE) = true := by
  decide +kernel
theorem witness_LoadsReadMemory_trap :
    (errB (access (.scalarLoad 4) false 4 (pad 3) (user [(8, pad 3)])) (.trap 0x05 (pad 3)) (user [(8, pad 3)]) &&
      nx (exec (.lw 10 8 0) (user [(8, pad 3)])) (takeTrap false 0x05 (pad 3) (user [(8, pad 3)]))) = true := by decide +kernel

/-- A cacheable page of the die's HBM, one of whose lines the L1 holds with data of its own. -/
def cached : State :=
  let s := page (hbm 0x90000) 0x17 [(8, mva 0x40)]
  modSpan 5 3 (fun x => { x with l1 := [((hbm 0x90040) / 64, ⟨0x1122334455667788, 0⟩)] }) s
theorem witness_LoadsReadMemory_cached :
    (match access (.scalarLoad 8) false 8 (mva 0x40) cached with
     | .ok r s => cacheable s r && decide (r.fpa = hbm 0x90040 ∧ r.win = false) && (match nget (mySpan s).l1 (r.fpa / 64) with
        | some l => decide (l.key = r.key) && decide (scalar (aft (exec (.ld 11 8 0) cached)).thr 11 = 0x1122334455667788)
            && decide (scalar (aft (exec (.ldb 11 8 0) cached)).thr 11 = 0)
        | none => false)
     | _ => false) = true := by decide +kernel
/-- A read-only window page of die 9's HBM, one of whose lines the die holds. -/
def windowed : State :=
  let s := page (9 * 2 ^ 45 + 0x90000) 0xB3 [(8, mva 0x40)]
  modDie 5 (fun d => { d with window := [((9 * 2 ^ 45 + 0x90040) / 64, ⟨77, 0, 127, 0⟩)] }) s
theorem witness_LoadsReadMemory_window :
    (match access (.scalarLoad 8) false 8 (mva 0x40) windowed with
     | .ok r s => r.win && unheldB (mva 0x40) 8 false s && (windowHeld s (r.fpa / 64) r.key).isSome && (windowHeld s (r.fpa / 64) (r.key + 1)).isNone &&
        decide (scalar (aft (exec (.ldb 11 8 0) windowed)).thr 11 = 77)
     | _ => false) = true := by decide +kernel

/-- The Span's registers through a page. -/
def mmio (l : List (Nat × Word)) : State := page (fpaOf 5 3 3 0) 0x17 l
theorem witness_LoadsReadMemory_register :
    (let s := mmio [(8, mva 0x200)]
     grantedB (.scalarLoad 8) 8 (mva 0x200) s (pageR (fpaOf 5 3 3 0) 0x17 false 0x200) && decide (homeKind (fpaOf 5 3 3 0x200) = .mmio) &&
     nx (exec (.ld 11 8 0) s) (advance (withThr s (setScalar 11 0xFFFFFFFFFFFFFFFF s.thr))) &&
     nx (exec (.lwu 11 8 1) s) (advance (withThr s (setScalar 11 0xFFFFFFFF s.thr))) &&
     nx (exec (.lb 11 8 0) s) (takeTrap false 0x07 (mva 0x200) s)) = true := by decide +kernel
/-- A load of HMSG clears PEND and OVR (R396). -/
theorem test_hmsg_load :
    (let h (p : Bool) : Span → Span := fun x => { x with hmsg := vset x.hmsg 2 { data := 77, pend := p, ovr := p, irq := true } }
     let s := modSpan 5 3 (h true) (mmio [(8, mva 0x310)])
     nx (exec (.ld 11 8 0) s) (advance (withThr (modSpan 5 3 (h false) (mmio [(8, mva 0x310)]))
       (setScalar 11 (2 ^ 63 + 77) s.thr)))) = true := by decide +kernel

theorem witness_StoresWriteExactlyTheirBytes :
    (storeTable.all fun p => let r : Ref := padR (0x40 + p.2)
      grantedB (.scalarStore p.2) p.2 (pad (0x40 + p.2)) data r && unheldB (pad (0x40 + p.2)) p.2 true data && reachesB .store r p.2 data &&
      (let t := aft (exec (p.1 10 8 1) data)
       eqT t.thr (retire data.thr) && decide (memRead t 0 (padA (0x40 + p.2)) p.2 = 0xFFFFFFFFFFFFFFF0 % 2 ^ (8 * p.2)) &&
         decide (memRead t 0 (padA 0x40) p.2 = memRead data 0 (padA 0x40) p.2))) = true := by decide +kernel
theorem witness_StoresWriteExactlyTheirBytes_register :
    (let s := mmio [(8, mva 0x200), (10, 0x1234)]
     nx (exec (.sd 10 8 1) s) (advance (modSpan 5 3 (fun x => { x with timers := vset x.timers 1 0x1234 }) s)) &&
     nx (exec (.sw 10 8 1) s) (advance (modSpan 5 3 (fun x => { x with timers := vset x.timers 0 0x1234FFFFFFFF }) s)) &&
     nx (exec (.sd 10 8 0) (user [(8, pad 3)])) (takeTrap false 0x05 (pad 3) (user [(8, pad 3)]))) = true := by decide +kernel
/-- R81: a byte written into a sector of BF16 leaves it raw with scale 127, into one of E4M3 0xFF with scale 0. -/
theorem test_plain_write_descriptor :
    (let sec := padA 0x40 / 64
     let s (f : BitVec 8) : State := { data with sectors := [(sec, { fmt := f, scale := 9, key := none, bad := false, record := none })] }
     decide (sectorOf (memWrite 0 (padA 0x41) 1 5 (s 0x04)) sec = { fmt := 0, scale := 127, key := none, bad := false, record := none }) &&
     decide (sectorOf (memWrite 0 (padA 0x41) 1 5 (s 0x01)) sec = { fmt := 0xFF, scale := 0, key := none, bad := false, record := none })) = true := by
  decide +kernel

/-- A scratchpad of die 9 through a page, without and with atomics. -/
def remote (fl : Nat) : State := page (fpaOf 9 3 0 0) fl [(8, mva 0x40), (10, 0x1234)]
theorem witness_RemoteStoresBecomeRequests_store :
    (let s := remote 0x37
     storeTable.all fun p => unheldB (mva 0x40) p.2 true s && decide (aritUsed s < 64) && (match access (.scalarStore p.2) false p.2 (mva 0x40) s with
      | .ok r _ => decide (fpaPeer r.fpa = 9 ∧ s.thr.acting = none) | _ => false) &&
     (match exec (p.1 10 8 0) s with
      | .next t => sameMem s t && eqT t.thr (retire { s.thr with issued := 1 }) && (match t.packets with
        | [q] => decide (q.owner = (s.thr.u.lid, s.thr.u.tid) ∧ q.loc = ⟨fpaOf 9 3 0 0x40, 0⟩ ∧ q.lo = mva 0x40 ∧ q.len = p.2 ∧
            q.sent = 100 ∧ q.cargo = .store p.2 (0x1234 % 2 ^ (8 * p.2)))
        | _ => false)
      | _ => false)) = true := by decide +kernel
theorem witness_RemoteStoresBecomeRequests_atomic :
    (let s := remote 0x77
     atomicWords.all fun p => (match exec (p.1 8 10) s with
      | .next t => sameMem s t && (match t.packets with
        | [q] => (match q.cargo with
          | .atomic op b => decide (b = 0x1234) && [0, 5, 2 ^ 63].all (fun old => decide (atomicValue op b old = p.2.2.1 b old))
          | _ => false)
        | _ => false)
      | _ => false)) = true := by decide +kernel

/-- A load from another die asks, and completes with the reply; of two requests the second is not sent. -/
theorem witness_LoadsReadMemory_away :
    (let s := remote 0x37
     let q : Request := ⟨pageR (fpaOf 9 3 0 0) 0x37 false 0x40, 8, .load 8⟩
     let s1 := sendRequest (actingOf s.thr) q s
     let s2 := withThr s { s.thr with replies := [ValueOf (fpaOf 9 3 0 0x40) 0x55] }
     grantedB (.scalarLoad 8) 8 (mva 0x40) s q.ref && unheldB (mva 0x40) 8 false s && decide (s.thr.replies = []) &&
     nx (exec (.ld 11 8 0) s) (asked q s (seen (.scalarLoad 8) 8 (mva 0x40) s)) && ! asking s .scalar && asking s1 .scalar &&
     nx (.next (sendRequest (actingOf s.thr) q s1)) s1 && sameMem s1 s && eqT s1.thr s.thr && (match s1.packets with
       | [p] => decide (p.loc = ⟨fpaOf 9 3 0 0x40, 0⟩ ∧ p.cargo = .load 8 ∧ p.len = 8 ∧ p.sent = 100)
       | _ => false) &&
     nx (exec (.ld 11 8 0) s2) (advance (withThr s (setScalar 11 0x55 s.thr)))) = true := by decide +kernel

/-- A sync page of the die's HBM. -/
def sync (l : List (Nat × Word)) : State := put 0 (hbm 0x90040) 16 (2 ^ 80 + 9) (page (hbm 0x90000) 0x77 l)
def sync1 : State := sync [(8, mva 0x40), (10, 0x1234), (12, 9), (13, 99)]

theorem witness_AcquireLoadsAndReleaseStores_acquire :
    (acquireLoads.all fun p => let r : Ref := pageR (hbm 0x90000) 0x77 false 0x40
      grantedB .syncLoad 8 (mva 0x40) sync1 r && unheldB (mva 0x40) 8 false sync1 && reachesB .load r 8 sync1 &&
      nx (exec (p.1 11 8) sync1) (let s := copiesRemoved p.2 sync1
        advance (withThr s (setScalar 11 9 s.thr)))) = true := by decide +kernel
theorem witness_AcquireLoadsAndReleaseStores_release :
    (releaseStores.all fun p => let r : Ref := pageR (hbm 0x90000) 0x77 false 0x40
      grantedB .store 8 (mva 0x40) sync1 r && oldB sync1 && reachesB .store r 8 sync1 &&
      (let t := aft (exec (p.1 8 10) sync1)
       decide (memRead t 0 (hbm 0x90040) 8 = 0x1234) && eqT t.thr (retire sync1.thr))) = true := by decide +kernel
/-- One older remote store of the thread is in flight. -/
def inFlight (s : State) : State :=
  { s with
    packets := [{ id := 0, owner := threadId s.thr, place := s.thr.place, ctx := 0, age := 0, lo := 0x990000, len := 8
                  loc := ⟨fpaOf 9 3 0 0, 0⟩, agent := .scalar, dest := none, elem := 0, sync := false, tenant := 0, page := [], cargo := .store 8 1, sent := 50
                  route := Route.start 1 1 8 0 }]
    thr := { s.thr with issued := 1 } }
theorem witness_AcquireLoadsAndReleaseStores_waits :
    ((inFlight sync1).packets.all (fun q => ownPacket (inFlight sync1).thr q && decide (q.age < (inFlight sync1).thr.issued)) &&
      nx (exec (.strP 8 10) (inFlight sync1)) (park .other (inFlight sync1))) = true := by decide +kernel

theorem witness_AtomicsReadModifyWrite_once :
    (let s := put 0 (padA 0x40) 16 (2 ^ 100 + 5) (user [(8, pad 0x40), (10, 0x3FF0000000000000)])
     atomicWords.all fun p => let old := memRead s 0 (padA 0x40) p.2.1
      grantedB .atomic p.2.1 (pad 0x40) s (padR 0x40) && unheldB (pad 0x40) p.2.1 true s &&
      reachesB .atomic (padR 0x40) p.2.1 s && decide (s.turn.residue = 0) && (match exec (p.1 8 10) s with
      | .next t => eqT t.thr (retire { s.thr with u := { s.thr.u with fflags := s.thr.u.fflags ||| p.2.2.2 0x3FF0000000000000 old } }) &&
          decide (memRead t 0 (padA 0x40) p.2.1 = p.2.2.1 0x3FF0000000000000 old) &&
          decide (memRead t 0 (padA (0x40 + p.2.1)) 8 = memRead s 0 (padA (0x40 + p.2.1)) 8)
      | _ => false)) = true := by decide +kernel
theorem witness_AtomicsReadModifyWrite_values :
    (let s := sync1
     let swapped (i : Instr) (v : Nat) : Bool :=
       let t := aft (exec i s)
       decide (memRead t 0 (hbm 0x90040) 8 = v) && eqT t.thr (retire (setScalar 11 9 s.thr))
     isOk (checkAccess .atomic false 8 8 true (mva 0x40) s) && swapped (.afetch 11 8 10) (9 + 0x1234) && swapped (.aswap 11 8 10) 0x1234 &&
       swapped (.acas 11 8 12) 99 && nx (exec (.acas 11 8 13) s) (advance (withThr s (setScalar 11 9 s.thr)))) = true := by decide +kernel
theorem witness_AtomicsReadModifyWrite_sums :
    (let s := sync1
     let w : BitVec 128 := BitVec.ofNat 128 (2 ^ 80 + 9)
     grantedB .syncLoad 16 (mva 0x40) s (pageR (hbm 0x90000) 0x77 false 0x40) &&
     nx (exec (.sumrd 11 8) s) (advance (withThr s (setScalar 11 (BitVec.ofNat 64 (sumRound fp64 w)) s.thr))) &&
     nx (exec (.sumrds 11 8) s) (advance (withThr s (setScalar 11 (BitVec.ofNat 64 (sumRound fp32 w)) s.thr)))) = true := by decide +kernel
/-- 2^80 + 9 in units of 2^-64 is 65536 and a little, which FP64 rounds to 65536 (R95). -/
theorem test_sum_rounds : decide (sumRound fp64 (BitVec.ofNat 128 (2 ^ 80 + 9)) = 0x40F0000000000000) = true := by decide +kernel
theorem witness_AtomicsReadModifyWrite_syncPage :
    (errB (checkAccess .atomic false 8 8 true (pad 0x40) w0) (.trap 0x08 (pad 0x40)) w0 &&
      nx (exec (.afetch 11 8 10) w0) (takeTrap false 0x08 (pad 0x40) w0)) = true := by decide +kernel

theorem witness_FencesAndTheInterlock_done :
    (oldB w0 && (acquireFences.all fun f => [0#2, 1, 2, 3].all fun sc => nx (exec (f sc) w0) (advance (copiesRemoved sc.toNat w0))) &&
      otherHoldingFences.all fun f => [0#2, 1, 2, 3].all fun sc => nx (exec (f sc) w0) (advance w0)) = true := by decide +kernel
theorem witness_FencesAndTheInterlock_waits :
    ([Instr.fenceAll, .fenceRel, .fenceRem].all fun f => nx (exec (f 3) (inFlight w0)) (park .other (inFlight w0))) = true := by
  decide +kernel
theorem witness_FencesAndTheInterlock_markers :
    (markerFences.all fun f => nx (exec (f 3) w0) (advance (withThr w0 { w0.thr with issued := 1 })) &&
      (let t := aft (exec (f 3) { w0 with turn := { w0.turn with defer := true } })
       decide (t.thr.issued = 1 ∧ t.thr.v.vq.map (fun e => (e.ins, e.age)) = [(f 3, 0)] ∧ t.thr.pc = 0x1004))) = true := by decide +kernel
/-- A vector load that is held back covers the bytes that a scalar store would write. -/
noncomputable def loading : State :=
  aft (exec (.vld 5 8 0 0) { vecState 0x002 6 0 [(8, pad 0x40), (9, 1)] with turn := { w0.turn with defer := true } })
theorem witness_FencesAndTheInterlock_interlock :
    ((loading.thr.v.vq.any fun e => decide (e.age < loading.thr.issued) && (entryRanges e).any fun r =>
        decide (r.lo < (pad 0x40).toNat + 8 ∧ ((pad 0x40).toNat : Int) < r.hi)) &&
      (match interlockScalar (pad 0x40) 8 true loading with | .error x _ => decide (x = .wait .arit) | _ => false) &&
      nx (exec (.sd 9 8 0) loading) (park .arit loading)) = true := by decide +kernel

/-- The first and the last bytes of the B-store outside the swap region, and the swap region of the first and the last bank. -/
theorem witness_AccessesTranslateAndCheck_bstore :
    (accs.all fun a => ([0x40000000, 0x400FBFF8].all fun off =>
        okB (access a false 8 (pad off) w0) ⟨fpaOf 5 3 1 (off - 0x40000000), 0, false, pad off, none, false⟩ w0) &&
      [0x4001C000, 0x4001FFF8, 0x400FC000].all fun off => errB (access a false 8 (pad off) w0) (.trap 0x07 (pad off)) w0) = true := by
  decide +kernel
theorem witness_AtomicsReadModifyWrite_away :
    (let s := remote 0x77
     let q : Request := ⟨pageR (fpaOf 9 3 0 0) 0x77 false 0x40, 8, .fetch (.add 0x1234)⟩
     let s2 := withThr s { s.thr with replies := [ValueOf (fpaOf 9 3 0 0x40) 0x55] }
     unheldB (mva 0x40) 8 true s && nx (exec (.afetch 11 8 10) s) (asked q s (seen .atomic 8 (mva 0x40) s)) &&
       nx (exec (.afetch 11 8 10) s2) (advance (withThr (l1Remove (fpaOf 9 3 0 0x40) 8 s) (setScalar 11 0x55 s.thr)))) = true := by
  decide +kernel

/-- A leaf without the right that the access needs, a kernel page, a page of another die that is not pinned, key id 0 outside the
firmware region, and an erased key slot. -/
theorem witness_AccessesTranslateAndCheck_denied :
    (let no (fl : Nat) (acc : Acc) (km : Bool) : Bool := (match access acc km 8 (mva 0x40) (page (hbm 0x90000) fl []) with
        | .error x _ => decide (x = .trap 0x07 (mva 0x40)) | _ => false)
     no 0x13 .store false && no 0x11 .load false && no 0x07 .load false && no 0x1B .fetch true && ! no 0x17 .store false &&
       ! no 0x17 .load true && (match access .load false 8 (mva 0x40) (page (fpaOf 9 3 0 0) 0x17 []) with
        | .error x _ => decide (x = .trap 0x07 (mva 0x40)) | _ => false) &&
       (match access .load false 8 (mva 0x40) (page (hbm 0x90000000) 0x17 []) with
        | .error x _ => decide (x = .trap 0x07 (mva 0x40) ∧ inFirmware (hbm 0x90000040) = false) | _ => false) &&
       (match access .load false 8 va (modPkg 1 (fun p => { p with erased := [263] }) walked) with
        | .error x _ => decide (x = .trap 0x07 va) | _ => false)) = true := by decide +kernel

/-- A register of another die is asked for, as a load and as a store. -/
theorem witness_StoresWriteExactlyTheirBytes_registerAway :
    (let s := page (fpaOf 9 3 3 0) 0x37 [(8, mva 0x200), (10, 0x1234)]
     let r : Ref := pageR (fpaOf 9 3 3 0) 0x37 false 0x200
     let back (v : Nat) := withThr s { s.thr with replies := [ValueOf (fpaOf 9 3 3 0x200) v] }
     nx (exec (.ld 11 8 0) s) (asked ⟨r, 8, .reg 8 none⟩ s (seen (.scalarLoad 8) 8 (mva 0x200) s)) && nx (exec (.sw 10 8 0) s) (asked ⟨r, 4, .reg 4 (some 0x1234)⟩ s (seen (.scalarStore 4) 4 (mva 0x200) s)) &&
       nx (exec (.ld 11 8 0) (back 77)) (advance (withThr s (setScalar 11 77 s.thr))) &&
       nx (exec (.sd 10 8 0) (back 0)) (advance s) && nx (exec (.sd 10 8 0) (back 1)) (park .other s)) = true := by decide +kernel
/-- A window page none of whose lines the die holds under the key id. -/
theorem witness_LoadsReadMemory_windowAway :
    (let s := withThr windowed { windowed.thr with u := windowed.thr.u }
     let s := modDie 5 (fun d => { d with window := [] }) s
     let r : Ref := pageR (9 * 2 ^ 45 + 0x90000) 0xB3 true 0x40
     (windowHeld s (r.fpa / 64) r.key).isNone && nx (exec (.ldb 11 8 0) s) (asked ⟨r.sector, 64, .line true⟩ s (seen (.scalarLoad 8) 8 (mva 0x40) s)) &&
       (let b := withThr s { s.thr with replies := [ValueOf (9 * 2 ^ 45 + 0x90040) 88] }
        decide (scalar (aft (exec (.ldb 11 8 0) b)).thr 11 = 88))) = true := by decide +kernel
/-- The word of a `claimt` on another die's place waits; another word is loaded. -/
theorem witness_AcquireLoadsAndReleaseStores_held :
    (let s := modDie 5 (fun d => { d with claims := [(⟨5, 4, 0⟩, hbm 0x90040)].map fun x => (x.2, x.1) }) sync1
     nx (exec (.ldaD 11 8) s) (park .other s)) = true := by decide +kernel
theorem witness_AcquireLoadsAndReleaseStores_away :
    (let s := remote 0x77
     let r : Ref := { pageR (fpaOf 9 3 0 0) 0x77 false 0x40 with sync := true }
     let b := withThr s { s.thr with replies := [ValueOf (fpaOf 9 3 0 0x40) 0x55] }
     acquireLoads.all fun p => nx (exec (p.1 11 8) s) (asked ⟨r, 8, .load 8⟩ s (seen .syncLoad 8 (mva 0x40) s)) &&
       nx (exec (p.1 11 8) b) (advance (let u := copiesRemoved p.2 s; withThr u (setScalar 11 0x55 u.thr)))) = true := by decide +kernel
/-- A load behind a vector store of the same bytes. -/
theorem witness_FencesAndTheInterlock_load :
    (let s := aft (exec (.vst 5 8 0 0) { vecState 0x002 6 0 [(8, pad 0x40), (9, 1)] with turn := { w0.turn with defer := true } })
     loadTable.all fun p => nx (exec (p.1 11 8 0) s) (park .arit s)) = true := by decide +kernel

end Memory

/-! ## Vector arithmetic -/

namespace Lanes

def V (l : List (Nat × Word)) : State :=
  vecState 0x002 6 0x3F8000007F800001222222223333333344444444C00000000066666680000001
    ([(8, 0x3F800000), (9, 3), (10, 77)] ++ l)
/-- Element width 16, `vl` 4. -/
def half : State := vecState 0x001 4 0x3F8000007F800001222222223333333344444444C00000000066666680000001 []
def els (t u : Thread) (rd : BitVec 7) (at_ : Nat → Bool) (val : (w : Nat) → Nat → BitVec w) : Bool :=
  (List.range (vlmax t)).all fun k => elem u (sew t) rd k == if at_ k then val (sew t) k else elem t (sew t) rd k
def bits (t u : Thread) (md : BitVec 7) (at_ : Nat → Bool) (val : Nat → Bool) : Bool :=
  (List.range (vlmax t)).all fun k => bit u md k == if at_ k then val k else bit t md k
/-- The word ran to its end with these flags, memory stands, and its thread is as told. -/
def done (o : Outcome State Fault Refusal) (s : State) (fl : BitVec 5) (post : Thread → Bool) : Bool :=
  readyB s && match o with
  | .next t => decide (t.thr.pc = s.thr.pc + 4 ∧ t.thr.u.fflags = s.thr.u.fflags ||| fl ∧ t.thr.v.vq = []) && sameMem s t && post t.thr
  | _ => false

theorem witness_IntegerLanesWriteTheirResult :
    (laneWords.all fun p => let s := V []
      done (exec (p.1 5 3 4 2) s) s 0 fun u =>
        els s.thr u 5 (active s.thr 2) fun w k => p.2 w (operand s.thr w 3 k) (operand s.thr w 4 k)) = true := by decide +kernel
theorem witness_IntegerLanesWriteTheirResult_unary :
    (laneUnary.all fun p => let s := V []
      done (exec (p.1 4 72 0) s) s 0 fun u => els s.thr u 4 (active s.thr 0) fun w k => p.2 w (operand s.thr w 72 k)) = true := by
  decide +kernel
/-- Lane 0 of v4 is 0x80000001 and of v3 16: their sum, and the lane past `vl` keeps its value. -/
theorem test_vadd_lane :
    (let t := aft (exec (.vadd 5 3 4 0) (V []))
     decide (elem t.thr 32 5 0 = 0x80000011 ∧ elem t.thr 32 5 6 = 0)) = true := by decide +kernel

theorem witness_FloatLanesRoundAndFlag_binary :
    (fpBinary.all fun p => let s := V []
      let g (w k : Nat) := p.2 (vtCtl s.thr.u.vtype) (operand s.thr w 4 k).toNat (operand s.thr w 72 k).toNat
      done (exec (p.1 5 4 72 2) s) s (laneFlags s.thr 2 fun k => (g 32 k).2) fun u =>
        els s.thr u 5 (active s.thr 2) fun w k => BitVec.ofNat w (g w k).1) = true := by decide +kernel
theorem witness_FloatLanesRoundAndFlag_fused :
    (fpFused.all fun p => let s := V []
      let g (w k : Nat) := p.2 (vtCtl s.thr.u.vtype) (operand s.thr w 4 k).toNat (operand s.thr w 72 k).toNat (elem s.thr w 3 k).toNat
      done (exec (p.1 3 4 72 0) s) s (laneFlags s.thr 0 fun k => (g 32 k).2) fun u =>
        els s.thr u 3 (active s.thr 0) fun w k => BitVec.ofNat w (g w k).1) = true := by decide +kernel
theorem witness_FloatLanesRoundAndFlag_signs :
    (signWords.all fun p => let s := V []
      done (exec (p.1 5 4 72 0) s) s 0 fun u => els s.thr u 5 (active s.thr 0) fun w k =>
        let a := operand s.thr w 4 k
        let b := operand s.thr w 72 k
        BitVec.ofNat w (a.toNat % 2 ^ (w - 1) + if p.2 a.msb b.msb then 2 ^ (w - 1) else 0)) = true := by decide +kernel
theorem witness_FloatLanesRoundAndFlag_unary :
    ((fpUnary.all fun p => let s := V []
      let g (w k : Nat) := p.2 (vtCtl s.thr.u.vtype) (operand s.thr w 4 k).toNat
      done (exec (p.1 5 4 0) s) s (laneFlags s.thr 0 fun k => (g 32 k).2) fun u =>
        els s.thr u 5 (active s.thr 0) fun w k => BitVec.ofNat w (g w k).1) &&
     fpConversions.all fun p => let s := V []
      let g (w k : Nat) := p.2 w (vtCtl s.thr.u.vtype) (operand s.thr w 4 k)
      done (exec (p.1 5 4 0) s) s (laneFlags s.thr 0 fun k => (g 32 k).2) fun u =>
        els s.thr u 5 (active s.thr 0) fun w k => BitVec.ofNat w (g w k).1) = true := by decide +kernel
theorem witness_FloatLanesRoundAndFlag_bytes :
    (fpBinary.all fun p => let s := vecState 0x000 6 0 []
      decide (sew s.thr = 8) && nx (exec (p.1 5 4 72 2) s) (takeTrap false 0x02 (failing (p.1 5 4 72 2)) s)) = true := by decide +kernel
/-- 1 + 1 is 2 in every format of R73. -/
theorem test_fp_add :
    decide (fpAdd ⟨fp32, 0, 0⟩ 0x3F800000 0x3F800000 = (0x40000000, 0) ∧ fpAdd ⟨fp64, 0, 0⟩ 0x3FF0000000000000 0x3FF0000000000000 = (0x4000000000000000, 0)
      ∧ fpAdd ⟨fp16, 0, 0⟩ 0x3C00 0x3C00 = (0x4000, 0) ∧ fpAdd ⟨bf16, 0, 0⟩ 0x3F80 0x3F80 = (0x4000, 0)) = true := by decide +kernel

theorem witness_MaskResults_compare :
    (compareWords.all fun p => let s := V []
      done (exec (p.1 2 4 72 2) s) s 0 fun u =>
        bits s.thr u 2 (active s.thr 2) fun k => p.2 32 (operand s.thr 32 4 k) (operand s.thr 32 72 k)) = true := by decide +kernel
theorem witness_MaskResults_fpCompare :
    (fpCompareWords.all fun p => let s := V []
      let value (f : BitVec 7) (k : Nat) : FpVal := fpIn (vtCtl s.thr.u.vtype) (operand s.thr 32 f k).toNat
      let invalid (k : Nat) : Bool := if p.2.1 then value 4 k == .nan true || value 72 k == .nan true
        else eitherNan (value 4 k) (value 72 k)
      done (exec (p.1 2 4 72 2) s) s (laneFlags s.thr 2 fun k => if invalid k then 1 else 0) fun u =>
        bits s.thr u 2 (active s.thr 2) fun k => p.2.2 (value 4 k) (value 72 k)) = true := by decide +kernel
theorem witness_MaskResults_masks :
    ((maskWords.all fun p => let s := V []
      done (exec (p.1 2 1 1) s) s 0 fun u => bits s.thr u 2 (active s.thr 0) fun k => p.2 (bit s.thr 1 k) (bit s.thr 1 k)) &&
     (let s := V []
      done (exec (.mnot 1 1) s) s 0 (fun u => bits s.thr u 1 (active s.thr 0) fun k => ! bit s.thr 1 k) &&
      done (exec (.mset 11) s) s 0 (fun u => bits s.thr u 11 (active s.thr 0) fun _ => true) &&
      done (exec (.mclr 1) s) s 0 (fun u => bits s.thr u 1 (active s.thr 0) fun _ => false) &&
      done (exec (.msbf 2 1) s) s 0 (fun u => bits s.thr u 2 (active s.thr 0) fun k => decide (k < firstOf s.thr 1)))) = true := by
  decide +kernel
theorem witness_MaskResults_moves :
    (let s := V []
     done (exec (.mfromv 2 4) s) s 0 (fun u => bits s.thr u 2 (active s.thr 0) fun k => (elem s.thr 32 4 k).getLsbD 0) &&
     done (exec (.mtov 5 1) s) s 0 (fun u => els s.thr u 5 (active s.thr 0) fun w k => if bit s.thr 1 k then 1#w else 0) &&
     done (exec (.miota 5 1) s) s 0 (fun u => els s.thr u 5 (active s.thr 0) fun w k =>
       BitVec.ofNat w ((List.range k).filter (bit s.thr 1)).length) &&
     done (exec (.mpopc 123 1) s) s 0 (fun u => decide (queueAt u 3 = [4])) &&
     done (exec (.mfirst 121 1) s) s 0 (fun u => decide (queueAt u 1 = [0])) &&
     done (exec (.mfirst 120 7) s) s 0 (fun u => decide (queueAt u 0 = [BitVec.allOnes 64]))) = true := by decide +kernel

theorem witness_MovingAndRandomWords_slides :
    (let s := V []
     let a (w i : Nat) : BitVec w := elem s.thr w 4 i
     readsB 9 s 3 &&
     done (exec (.vslideup 5 4 9) s) s 0 (fun u => els s.thr u 5 (fun k => decide (3 ≤ k ∧ k < 6)) fun w k => a w (k - 3)) &&
     done (exec (.vslidedn 5 4 9) s) s 0 (fun u => els s.thr u 5 (fun k => decide (k < 6)) fun w k => if k + 3 < 6 then a w (k + 3) else 0) &&
     done (exec (.vbfly 5 4 9) s) s 0 (fun u => els s.thr u 5 (fun k => decide (k < 6)) fun w k => if k ^^^ 3 < 6 then a w (k ^^^ 3) else a w k) &&
     done (exec (.vbcast 5 4 9) s) s 0 (fun u => els s.thr u 5 (fun k => decide (k < 6)) fun w _ => a w 3)) = true := by decide +kernel
theorem witness_MovingAndRandomWords_picks :
    (let s := V []
     done (exec (.vperm 5 4 3) s) s 0 (fun u => els s.thr u 5 (fun k => decide (k < 6)) fun w k =>
       let x := (elem s.thr w 3 k).toNat
       if x < 6 then elem s.thr w 4 x else 0) &&
     done (exec (.vcompress 5 4 1) s) s 0 (fun u => els s.thr u 5 (fun k => decide (k < 4)) fun w k => elem s.thr w 4 ([0, 2, 4, 5].getD k 0)) &&
     done (exec (.vexpand 5 4 1) s) s 0 (fun u => els s.thr u 5 (fun k => decide (k < 6) && bit s.thr 1 k) fun w k =>
       elem s.thr w 4 ((List.range k).filter (bit s.thr 1)).length) &&
     done (exec (.vextr 120 4 9) s) s 0 (fun u => decide (queueAt u 0 = [(elem s.thr 32 4 3).setWidth 64])) &&
     done (exec (.vinsr 5 10 9) s) s 0 (fun u => els s.thr u 5 (fun k => decide (k = 3)) fun w _ => (77 : Word).setWidth w) &&
     done (exec (.vid 5) s) s 0 (fun u => els s.thr u 5 (active s.thr 0) fun w k => BitVec.ofNat w k) &&
     done (exec (.vmerge 5 3 4 1) s) s 0 (fun u => els s.thr u 5 (active s.thr 0) fun w i =>
       if bit s.thr 1 i then elem s.thr w 4 i else elem s.thr w 3 i)) = true := by decide +kernel
theorem witness_MovingAndRandomWords_random :
    (let s := V []
     let h (i : Nat) : Nat := (hashH 77 (3 + BitVec.ofNat 32 i)).toNat
     done (exec (.vrand 5 10 9) s) s 0 (fun u => els s.thr u 5 (active s.thr 0) fun w i => BitVec.ofNat w (h i)) &&
     done (exec (.vrandf 5 10 9) s) s 0 (fun u => els s.thr u 5 (active s.thr 0) fun w i => BitVec.ofNat w (exactPattern fp32 (h i / 2 ^ 8) 24)) &&
     (let s := withThr s { s.thr with u := { s.thr.u with rthr := 0x80000000 } }
      done (exec (.vrandm 2 10 9) s) s 0 (fun u => bits s.thr u 2 (active s.thr 0) fun i => decide (h i < 0x80000000)))) = true := by
  decide +kernel

theorem witness_WideningAndNarrowing :
    ((widenWords.all fun p => let g (k : Nat) := p.2 16 (vtCtl half.thr.u.vtype) (operand half.thr 16 4 k)
      decide (half.thr.u.vl.toNat ≤ vlmax half.thr / 2) &&
      done (exec (p.1 5 4 0) half) half (laneFlags half.thr 0 fun k => (g k).2) fun u => (List.range 8).all fun k =>
        wideElem u 16 5 k == if active half.thr 0 k then BitVec.ofNat _ (g k).1 else wideElem half.thr 16 5 k) &&
     narrowWords.all fun p => let g (k : Nat) := p.2 16 (vtCtl half.thr.u.vtype) (wideElem half.thr 16 4 k)
      done (exec (p.1 5 4 0) half) half (laneFlags half.thr 0 fun k => (g k).2) fun u => (List.range 16).all fun k =>
        elem u 16 5 k == if active half.thr 0 k then BitVec.ofNat _ (g k).1 else elem half.thr 16 5 k) = true := by decide +kernel
theorem witness_WideningAndNarrowing_refused :
    ((let s := vecState 0x003 4 0 []
      nx (exec (.vwidenI 5 4 0) s) (takeTrap false 0x02 (failing (.vwidenI 5 4 0)) s)) &&
     (let s := V []
      nx (exec (.vwidenI 5 4 0) s) (takeTrap false 0x02 (failing (.vwidenI 5 4 0)) s)) &&
     nx (exec (.vnarrowI 4 4 0) half) (takeTrap false 0x02 (failing (.vnarrowI 4 4 0)) half)) = true := by decide +kernel

theorem witness_ReductionsAndScansFold_integer :
    (reduceWords.all fun p => let s := V []
      let r (w : Nat) : BitVec w := (actives s.thr 2).foldl (fun r k => p.2.1 w r (operand s.thr w 4 k)) (p.2.2.1 w)
      done (exec (p.1 5 4 2) s) s 0 (fun u => els s.thr u 5 (fun k => decide (k = 0)) fun w _ => r w) &&
      done (exec (p.1 121 4 2) s) s 0 (fun u => decide (queueAt u 1 = [if p.2.2.2 then (r 32).signExtend 64 else (r 32).setWidth 64])))
      = true := by decide +kernel
theorem witness_ReductionsAndScansFold_float :
    (let s := V []
     let c := vtCtl s.thr.u.vtype
     let x (k : Nat) : Nat := (operand s.thr 32 3 k).toNat
     decide (max 6 2 ≤ 2 ^ 3 ∧ 2 ^ 3 < 2 * max 6 2) &&
     (let r := treeNode c (fun j => if active s.thr 2 j then x j else c.f.signBit) 3 0
      done (exec (.vfrsum 5 3 2) s) s r.2 (fun u => els s.thr u 5 (fun k => decide (k = 0)) fun w _ => BitVec.ofNat w r.1)) &&
     [true, false].all fun mx => let r := fpFold (fpMinMax c mx) c.f.nan ((actives s.thr 2).map x)
      done (exec (if mx then .vfrmax 122 3 2 else .vfrmin 122 3 2) s) s r.2 (fun u => decide (queueAt u 2 = [BitVec.ofNat 64 r.1])))
      = true := by decide +kernel
theorem witness_ReductionsAndScansFold_scans :
    (let s := V []
     let c := vtCtl s.thr.u.vtype
     let before (k : Nat) : List Nat := (actives s.thr 2).filter fun j => decide (j < k)
     let sum (w k : Nat) : BitVec w := (before k).foldl (fun r j => r + operand s.thr w 4 j) 0
     let run (js : List Nat) := fpFold (fpAdd c) c.f.signBit (js.map fun j => (operand s.thr 32 3 j).toNat)
     done (exec (.vscanx 5 4 2) s) s 0 (fun u => els s.thr u 5 (active s.thr 2) fun w k => sum w k) &&
     done (exec (.vscan 5 4 2) s) s 0 (fun u => els s.thr u 5 (active s.thr 2) fun w k => sum w (k + 1)) &&
     done (exec (.vfscan 5 3 2) s) s (run (actives s.thr 2)).2 (fun u => els s.thr u 5 (active s.thr 2) fun w k =>
       BitVec.ofNat w (run (before (k + 1))).1)) = true := by decide +kernel

theorem witness_RoundingAndSpecialCases :
    decide (isNan (fpVal fp32 0x3F800000) = false ∧ roundFp fp32 1 0 (fpVal fp32 0x3F800000) = (0x3F800000, 0)
      ∧ fpVal fp32 0x7F800001 = .nan true ∧ fpVal fp32 0x7F800000 = .inf false) = true := by decide +kernel
theorem witness_RoundingAndSpecialCases_operations :
    (let f := fp32
     let c : FpCtl := ⟨f, 2, 0⟩
     decide (fpAdd c 0x7F800001 0 = (f.nan, 1) ∧ fpMul c 0x7FC00000 0 = (f.nan, 0) ∧ fpSub c 0x7F800000 0x7F800000 = (f.nan, 1)
       ∧ fpMul c 0x7F800000 0x80000000 = (f.nan, 1) ∧ fpDiv c 0 0x80000000 = (f.nan, 1) ∧ fpDiv c 0x3F800000 0x80000000 = (0xFF800000, 4)
       ∧ fpSub c 0x3F800000 0x3F800000 = (0x80000000, 0) ∧ fpDiv c 0x7F800000 0x80000000 = (0xFF800000, 0))) = true := by decide +kernel

theorem witness_VectorWordsEnterTheQueue :
    (let s := { V [] with turn := { (V []).turn with defer := true } }
     (vword (.vadd 5 3 4 2)).isSome && (match vword (.vadd 5 3 4 2) with | some (v, f) => v.fieldsOk s.thr f | none => false) &&
     (match exec (.vadd 5 3 4 2) s with
      | .next t => (match t.thr.v.vq with
        | [e] => decide (e.pc = 0x1000 ∧ e.age = 0 ∧ e.vl = 6 ∧ e.vtype = 2 ∧ e.vstart = 0 ∧ e.long = false ∧ e.rep = none ∧
            t.thr.pc = 0x1004 ∧ entryRanges e = []) && sameMem s t && eqV t.thr.v.short s.thr.v.short && decide (vget t.thr.v.landed 5 0 = 0)
        | _ => false)
      | _ => false)) = true := by decide +kernel

/-- −3 in FP32, exactly on the grid of its precision. -/
theorem witness_RoundingAndSpecialCases_grid :
    (2 : ℝ) ^ (-22 + fp32.fb : ℤ) ≤ |realOf (.num true 3 0)| ∧ |realOf (.num true 3 0)| < (2 : ℝ) ^ (-22 + fp32.fb + 1 : ℤ) ∧
      Nearest 0 true (|realOf (.num true 3 0)| / 2 ^ (-22 : ℤ)) 12582912 ∧
      Nearest 0 true (|realOf (.num true 3 0)| / 2 ^ max (-22 : ℤ) (1 - (fp32.bias : ℤ) - fp32.fb)) 12582912 := by
  have h : max (-22 : ℤ) (1 - (fp32.bias : ℤ) - fp32.fb) = -22 := by decide
  rw [h]
  norm_num [realOf, fp32, Nearest]
/-- 1.0 and 3.0 are finite operands, and 1 is the integer nearest to 1.0. -/
theorem witness_RoundingAndSpecialCases_arithmetic :
    IsNum false (fpVal fp32 0x3F800000) ∧ IsNum false (fpVal fp32 0x40400000) ∧
      Nearest 0 false |realOf (fpIn ⟨fp32, 0, 0⟩ 0x3F800000)| 1 ∧ realOf (fpIn ⟨fp32, 0, 0⟩ 0x40400000) ≠ 0 := by
  have a : fpVal fp32 0x3F800000 = .num false 0x800000 (-23) := by decide +kernel
  have b : fpVal fp32 0x40400000 = .num false 0xC00000 (-22) := by decide +kernel
  have c : fpIn ⟨fp32, 0, 0⟩ 0x3F800000 = .num false 0x800000 (-23) := by decide +kernel
  have d : fpIn ⟨fp32, 0, 0⟩ 0x40400000 = .num false 0xC00000 (-22) := by decide +kernel
  rw [a, b, c, d]
  norm_num [IsNum, realOf, Nearest]

end Lanes

/-! ## Vector memory, prefixes, vector control -/

namespace VectorMemory

/-- The state and the values of operations performed for positions in order. -/
def runs {α : Type} (f : Nat → Op α) : List Nat → State → Option State
  | [], s => some s
  | i :: is, s => match f i s with | .ok _ t => runs f is t | _ => none
def valAt {α : Type} (d : α) (f : Nat → Op α) : List Nat → State → Nat → α
  | [], _, _ => d
  | i :: is, s, k => match f i s with | .ok v t => if i = k then v else valAt d f is t k | _ => d

def V (l : List (Nat × Word)) : State :=
  mem1 (vecState 0x002 6 0x1111111122222222333333334444444455555555666666667777777788888888 l)
/-- The step left this memory and this thread. -/
def left (o : Outcome State Fault Refusal) (s : State) (s' : Option State) (post : Thread → Bool) : Bool :=
  readyB s && oldB s && match o, s' with | .next t, some u => sameMem t u && decide (t.thr.pc = 0x1004) && post t.thr | _, _ => false
def loaded (s : State) (u : Thread) (rd : BitVec 7) (at_ : Nat → Bool) (val : Nat → BitVec 32) : Bool :=
  (List.range 8).all fun k => elem u 32 rd k == if at_ k then val k else elem s.thr 32 rd k

theorem witness_VectorMemoryWords_load :
    ([0, 2].all fun m => [(0#7, 0), (9#7, 8)].all fun rb => [Instr.vld 5 8 rb.1 m, .vldNb 5 8 rb.1 m].all fun i =>
      let s := V [(8, pad 4), (9, 8)]
      let f := fun i => loadElement false 4 (stridedAt s.thr rb.1 (pad 4) 8 i)
      left (exec i s) s (runs f (actives s.thr m) s) fun u =>
        loaded s u 5 (active s.thr m) fun k => BitVec.ofNat 32 (valAt 0 f (actives s.thr m) s k)) = true := by decide +kernel
theorem witness_VectorMemoryWords_gather :
    ([0, 2].all fun m => [Instr.vldx 5 8 3 m, .vldxNb 5 8 3 m].all fun i =>
      let s := V [(8, pad 0)]
      let f := fun i => loadElement false 4 (indexedAt s.thr 3 (pad 0) i)
      left (exec i s) s (runs f (actives s.thr m) s) fun u =>
        loaded s u 5 (active s.thr m) fun k => BitVec.ofNat 32 (valAt 0 f (actives s.thr m) s k)) = true := by decide +kernel
theorem witness_VectorMemoryWords_store :
    ([0, 2].all fun m => [(0#7, 0), (9#7, 8)].all fun rb => [Instr.vst 4 8 rb.1 m, .vstNb 4 8 rb.1 m].all fun i =>
      let s := V [(8, pad 4), (9, 8)]
      let f := fun i => storeElement false 4 (stridedAt s.thr rb.1 (pad 4) 8 i) (elem s.thr 32 4 i).toNat
      left (exec i s) s (runs f (actives s.thr m) s) fun u => loaded s u 4 (fun _ => false) fun _ => 0) = true := by decide +kernel
theorem witness_VectorMemoryWords_scatter :
    ([0, 2].all fun m => [Instr.vstx 4 8 3 m, .vstxNb 4 8 3 m].all fun i =>
      let s := V [(8, pad 0)]
      let f := fun i => storeElement false 4 (indexedAt s.thr 3 (pad 0) i) (elem s.thr 32 4 i).toNat
      left (exec i s) s (runs f (actives s.thr m) s) fun _ => true) = true := by decide +kernel
theorem witness_VectorMemoryWords_atomic :
    ([0, 2].all fun m => let s := V [(8, pad 0)]
      let add := fun i => atomicElement false (indexedAt s.thr 3 (pad 0) i) .addw ((elem s.thr 32 3 i).setWidth 64)
      let sum := fun i => atomicElement false (pad 0 + ownNest s.thr + (elem s.thr 32 3 i).setWidth 64 * 16) .fadds
        (BitVec.ofNat 64 (flushIn fp32 (vtFlush s.thr.u.vtype) (elem s.thr 32 4 i).toNat))
      left (exec (.vaadd 3 8 3 m) s) s (runs add (actives s.thr m) s) (fun _ => true) &&
        left (exec (.vafadd 4 8 3 m) s) s (runs sum (actives s.thr m) s) (fun _ => true)) = true := by decide +kernel
theorem witness_VectorMemoryWords_counter :
    (let s := V [(8, pad 4)]
     let s := withThr s { s.thr with u := { s.thr.u with nbctr := pad 0x80 } }
     let t := aft (exec (.vstNb 4 8 0 0) s)
     decide (memRead t 0 (padA 0x80) 8 = 1 ∧ t.thr.pc = 0x1004 ∧ t.thr.v.vq = [])) = true := by decide +kernel
/-- Elements 0 and 1 of a strided load from 0x04 are the words at 0x04 and 0x08 of the data. -/
theorem test_vld_words :
    (let t := aft (exec (.vld 5 8 0 0) (V [(8, pad 4)]))
     decide (elem t.thr 32 5 0 = 0x2A2B2C2D ∧ elem t.thr 32 5 1 = 0x26272829)) = true := by decide +kernel

/-- A view of 3 by 2 elements. -/
def tensor (f : BitVec 8) (s0 : Int) (l : List (Nat × Word)) : State := sh 5 (mkv (pad 0) f 3 2 s0 16) (V l)

theorem witness_TensorWordsWalkTheirView_raw :
    ([0#7, 2].all fun l0 => [0#4, 2].all fun m => [Instr.tld 7 5 8 m, .tldNb 7 5 8 m].all fun i =>
      let s := tensor 0 4 [(8, l0.setWidth 64)]
      let t := vget s.thr.shp 5 0
      let f := fun i => if l0.toNat + i < 6 then loadElement false 4 (viewAddr t (l0.toNat + i)) else pure 0
      decide (viewCount t = 6) && left (exec i s) s (runs f (actives s.thr m) s) fun u =>
        loaded s u 7 (fun k => active s.thr m k && decide (l0.toNat + k < 6)) fun k => BitVec.ofNat 32 (valAt 0 f (actives s.thr m) s k))
      = true := by decide +kernel
theorem witness_TensorWordsWalkTheirView_formatted :
    (let s := tensor 0x04 2 [(8, 2)]
     let t := vget s.thr.shp 5 0
     let c := vtCtl s.thr.u.vtype
     let f := fun i => if 2 + i < 6 then readView false t (loadPlanes 0x04) (2 + i) else pure (.value (.num false 0 0) false)
     let r (i : Nat) := roundFp c.f c.rm c.flush (tensorValue c.flush 0x04 (valAt (.refused 0) f (actives s.thr 0) s i))
     left (exec (.tld 7 5 8 0) s) s (runs f (actives s.thr 0) s) fun u =>
       loaded s u 7 (fun k => decide (k < 4)) fun k => BitVec.ofNat 32 (r k).1) = true := by decide +kernel
theorem witness_TensorWordsWalkTheirView_store :
    ([0#7, 2].all fun l0 => [0#4, 2].all fun m => [Instr.tst 4 5 8 m, .tstNb 4 5 8 m].all fun i =>
      let s := tensor 0 4 [(8, l0.setWidth 64)]
      let t := vget s.thr.shp 5 0
      let f := fun i => if l0.toNat + i < 6 then storeElement false 4 (viewAddr t (l0.toNat + i)) (elem s.thr 32 4 i).toNat else pure ()
      left (exec i s) s (runs f (actives s.thr m) s) fun _ => true) = true := by decide +kernel
/-- A view of one sector of 32 BF16 elements; the word's six elements are written and the others become +0. -/
def sector : State := sh 5 (mkv (pad 0) 0x04 32 1 2 64) (V [(8, 0)])
theorem witness_TensorWordsWalkTheirView_units :
    (let s := sector
     match tensorStoreWhole false ⟨s.thr, newEntry s.thr (.tst 4 5 8 0) none [(0, 0)] 0, ⟨4, 8, 0, 0⟩, 0, 0⟩ s with
     | .ok fl u => left (exec (.tst 4 5 8 0) s) s (some u) (fun x => decide (x.u.fflags = fl)) &&
         decide (memRead u 0 (padA 12) 52 = 0 ∧ (sectorOf u (padA 0 / 64)).fmt = 0x04)
     | _ => false) = true := by decide +kernel

def repWord : IWord := encode (.rep 2 true false true 1)
def addWord : IWord := encode (.vadd 8 3 4 2)
/-- A `rep` of three: d and b step by 2, so v8, v10, v12 become v3 plus v4, v6, v8. -/
def repeated (t : Thread) (j : Nat) : Thread :=
  let d := 8 + 2 * j
  { t with v := { t.v with short := vset t.v.short d (BitVec.ofNat 256 ((List.range 8).foldl (fun n k => n +
      (if active t 2 k then elem t 32 3 k + elem t 32 (BitVec.ofNat 7 (4 + 2 * j)) k else elem t 32 (BitVec.ofNat 7 d) k).toNat
        * 2 ^ (32 * k)) 0)) } }
theorem witness_RepRepeatsItsWord :
    (let s := code [repWord, addWord] (V [])
     readyB s && (match fetchWord 4 s with | .ok w _ => decide (w = addWord) | _ => false) &&
     steppedOk .vreg 8 3 2 && steppedOk .vop 4 3 2 &&
     (match exec (.rep 2 true false true 1) s with
      | .next t => decide (t.thr.pc = 8 ∧ t.thr.u = { s.thr.u with rep := 0 } ∧ t.thr.v.vq = []) &&
          eqV t.thr.v.short (repeated (repeated (repeated s.thr 0) 1) 2).v.short
      | _ => false)) = true := by decide +kernel

def looping (e0 e1 : Nat) : State := sh 5 (mkv (pad 0) 0 e0 e1 4 16) (code [encode (.loop 5 1 0), 0x04508120, 0x04508120] (V []))
theorem witness_LoopsRunTheirNest_enter :
    (let s := looping 3 2
     match fetchBody 0 2 0 4 s with
     | .ok ws s1 => nx (exec (.loop 5 1 0) s) (withThr s1 { s.thr with
         wait := none, loop := some ⟨vget s.thr.shp 5 0, ws⟩
         u := { s.thr.u with li := .replicate 6 0, lctl := 1#1 ++ 0#4 ++ 0#13 ++ 5#4 ++ 1#4 } })
     | _ => false) = true := by decide +kernel
theorem witness_LoopsRunTheirNest_empty :
    (let s := looping 0 2
     match fetchBody 0 2 0 4 s with
     | .ok _ s1 => nx (exec (.loop 5 1 0) s) (withThr s1 { s.thr with wait := none, pc := 12, u := { s.thr.u with li := .replicate 6 0 } })
     | _ => false) = true := by decide +kernel
/-- A thread at a body word of a nest of 3 by 2. -/
def inLoop (pos i0 i1 : Nat) : Thread :=
  { t0 with
    loop := some ⟨mkv (pad 0) 0 3 2 4 16, []⟩
    u := { t0.u with
      li := vset (vset t0.u.li 0 (BitVec.ofNat 16 i0)) 1 (BitVec.ofNat 16 i1)
      lctl := 1#1 ++ BitVec.ofNat 4 pos ++ 0#13 ++ 5#4 ++ 1#4 } }
theorem witness_LoopsRunTheirNest_advance :
    ((let r := retire (inLoop 0 1 1)
      decide (r.pc = 0x1000 ∧ r.u.li = (inLoop 0 1 1).u.li ∧ (r.u.lctl.extractLsb' 21 4).toNat = 1)) &&
     (List.range 3).all fun i0 => (List.range 2).all fun i1 =>
      let r := retire (inLoop 1 i0 i1)
      if i0 + 3 * i1 < 5 then decide (r.pc = 0x1000 ∧ r.loop.isSome = true ∧ (r.u.lctl.extractLsb' 21 4).toNat = 0 ∧
        (vget r.u.li 0 0).toNat = (i0 + 1) % 3 ∧ (vget r.u.li 1 0).toNat = i1 + (i0 + 1) / 3)
      else decide (r.pc = 0x100C ∧ r.loop = none ∧ r.u.lctl = 0)) = true := by decide +kernel

theorem witness_VectorLengthTypeAndMode_length :
    (let s := V [(8, 100), (10, 3)]
     let short (n : Nat) : Thread := setScalar 11 (BitVec.ofNat 64 n) { s.thr with u := { s.thr.u with vl := BitVec.ofNat 11 n } }
     nx (exec (.setvl 11 8) s) (advance (withThr s (short 8))) && nx (exec (.setvl 11 10) s) (advance (withThr s (short 3))) &&
       nx (exec (.setvlD 11 8 10) s) (advance (withThr s (short 3)))) = true := by decide +kernel
theorem witness_VectorLengthTypeAndMode_type :
    (let s := V [(8, 3), (10, 7)]
     nx (exec (.setvt 8) s) (advance (withThr s (withVtype 3 s.thr))) && decide ((aft (exec (.setvt 8) s)).thr.u.vl = 4) &&
       nx (exec (.setvt 10) s) (takeTrap false 0x02 (failing (.setvt 10)) s)) = true := by decide +kernel
theorem witness_VectorLengthTypeAndMode_short : nx (exec .vmodeS w0) (advance (withThr w0 (inShortMode w0.thr))) = true := by decide +kernel
def onSpan (l : List (Nat × Word)) : State := modSpan 5 3 (fun x => { x with launch := some (w0.thr.u.lid, 0x042) }) (user l)
theorem witness_VectorLengthTypeAndMode_long :
    (let s := onSpan [(8, 4), (9, 3)]
     nx (exec (.vmodeL 9) s) (takeTrap false 0x02 (failing (.vmodeL 9)) s) &&
     (let t := aft (exec (.vmodeL 8) s)
      eqT t.thr (retire (inLongMode 4 s.thr)) && decide (mySpan t = { mySpan s with waiters := [] }) && decide (t.thr.v.lg = 4) &&
        decide (((t.thr.v.long.map fun c => c.regs.toList).getD []) = freshContext.regs.toList)) &&
     (let s := withThr s { s.thr with u := { s.thr.u with part := 0x040 } }
      nx (exec (.vmodeL 8) s) (takeTrap false 0x11 0x040 s))) = true := by decide +kernel
/-- Another thread of the Span holds six of the eight lane groups. -/
theorem witness_VectorLengthTypeAndMode_waits :
    (let o : Thread := { t0 with place := ⟨5, 3, 1⟩, v := { t0.v with lg := 6, long := some freshContext } }
     let s := { onSpan [(8, 4)] with others := [o] }
     let t := aft (exec (.vmodeL 8) s)
     eqT t.thr { s.thr with wait := some .longMode } && decide (mySpan t = { mySpan s with waiters := [(2, 4, true)] })) = true := by
  decide +kernel

/-- Elements on another die: a load's request names the register element, a store and an atomic leave as requests. -/
theorem witness_VectorMemoryWords_away :
    (let s := sh 5 (mkv (mva 0) 0 3 2 4 16) (page (fpaOf 9 3 0 0) 0x37 [(8, mva 0)])
     let c : LaneCtx := ⟨s.thr, newEntry s.thr (.vld 5 8 0 0) none [(mva 0, 0)] 0, ⟨5, 8, 0, 0⟩, mva 0, 0⟩
     let r := pageR (fpaOf 9 3 0 0) 0x37 false 8
     grantedB .load 4 (mva 8) s r && grantedB .atomic 4 (mva 8) s r && grantedB .store 4 (mva 8) s r && decide (s.thr.replies = []) &&
     (match loadElement false 4 (mva 8) s with | .error x _ => decide (x = .request ⟨r, 4, .load 4⟩) | _ => false) &&
     (match loadInto c 2 4 (mva 8) s with
      | .ok x t => decide (x = ([], 0)) && sameMem s t && decide (t.packets.map (fun q => (q.cargo, q.dest.map fun d => (d.reg, d.elem, d.long))) = [(.load 4, some (5, 2, false))])
      | _ => false) &&
     (match storeElement false 4 (mva 8) 9 s with | .ok () t => sameMem s t && decide (t.packets.map (·.cargo) = [.store 4 9]) | _ => false) &&
     (match atomicElement false (mva 8) .addw 9 s with
      | .ok fl t => sameMem s t && decide (fl = 0 ∧ t.packets.map (·.cargo) = [.atomic .addw 9])
      | _ => false)) = true := by decide +kernel
/-- A bit-plane view of one group: the rules' strides 1, 512, 512, ... -/
def planes : ShapeReg :=
  (List.range 5).foldl (fun t d => t ||| (BitVec.ofNat 512 512 <<< (144 + 64 * d))) (mkv (pad 0) 0xA8 512 1 1 0)
/-- Whole units of each kind at the start of the scratchpad: codes, 16-bit floats, a bit-plane group. -/
theorem witness_TensorWordsWalkTheirView_groups :
    (let s := V []
     let t (f : BitVec 8) (n : Nat) (st : Int) : ShapeReg := mkv (pad 0) f n 1 st 512
     let zero (_ : Nat) : FpVal := .num false 0 0
     sectorCovered (t 0x81 64 1) 1 (pad 0) && sectorCovered (t 0x05 32 2) 2 (pad 0) && planeViewOk planes &&
     (match writeUnit false (t 0x81 64 1) 0 0 (pad 0) zero s with
      | .ok fl u => decide (fl = 0 ∧ (sectorOf u (padA 0 / 64)).fmt = 0x81 ∧ (sectorOf u (padA 0 / 64)).scale = 0)
      | _ => false) &&
     (match writeGroup false planes 0 zero s with
      | .ok fl u => decide (fl = 0 ∧ (sectorOf u (padA 448 / 64)).fmt = 0x90)
      | _ => false)) = true := by decide +kernel
/-- The largest magnitude of a group, and the exponent of its scale. -/
theorem witness_TensorWordsWalkTheirView_scale :
    let vs : List (FpVal × Int) := [(.num false 1 0, 0), (.num true 1 (-1), 0)]
    (∀ v ∈ vs, ∃ n, IsNum n v.1) ∧ (∃ v ∈ vs, |realOf v.1| = 1) ∧ (∀ v ∈ vs, |realOf v.1| ≤ 1) ∧
      (2 : ℝ) ^ (-6 - 1 : ℤ) < 1 / 126 ∧ (1 : ℝ) / 126 ≤ 2 ^ (-6 : ℤ) := by
  simp only [List.mem_cons, List.not_mem_nil, or_false, forall_eq_or_imp, forall_eq, exists_eq_or_imp, exists_eq_left, IsNum, realOf]
  norm_num

end VectorMemory

/-! ## The Truss -/

namespace Truss

/-- The Span is launched with 4 tiles and 2 contexts. -/
def T (l : List (Nat × Word)) : State := mem1 (modSpan 5 3 (fun x => { x with launch := some (w0.thr.u.lid, 0x042) }) (user l))
def long (l : List (Nat × Word)) : State :=
  let s := T l
  withThr s { s.thr with v := { s.thr.v with lg := 2, long := some freshContext } }
noncomputable def posts (i : Instr) (e : TEntry) (link : Bool) (writes : List Nat) (s : State) : Bool :=
  decide (s.thr.tq.length < 64 ∧ spanTruss s < 256 ∧ s.thr.v.vq.length < 64 ∧ aritUsed s + trussEntries e ≤ 64) &&
    (! s.thr.u.mstat.getLsbD 5) && nx (exec i s) (streamed (withThr s (posted e link writes s.thr)))
def psOf (r : EStateM.Result Stop State (List TlbEntry)) : List TlbEntry := match r with | .ok p _ => p | _ => []

theorem witness_TrussWordsPost_zero :
    (let s := T []
     let d := { s with turn := { s.turn with defer := true } }
     posts (.mz 3) (newTruss s.thr (.mz 3) 0 false 0 0 []) false [] s && posts (.mz 3) (newTruss d.thr (.mz 3) 0 false 0 0 []) false [] d)
     = true := by decide +kernel
theorem witness_TrussWordsPost_rows :
    ((let s := long [(9, 60)]
      posts (.mrd 47 3 9) (newTruss s.thr (.mrd 47 3 9) 60 false 0 0 []) true [47] s) &&
     (let s := long [(9, 0x13C)]
      posts (.mwr 3 47 9) (newTruss s.thr (.mwr 3 47 9) 0x13C false 0 0 []) true [] s)) = true := by decide +kernel
theorem witness_TrussWordsPost_store :
    (let v := mkv (pad 0) 0 8 4 4 32
     let s := sh 5 v (T [(9, 0x8000)])
     let r := checkPages .store false (trussSize v) (viewAddrs v 8) [] s
     mstOk 0x8000 v && isOk r && posts (.mst 3 5 9) (newTruss s.thr (.mst 3 5 9) 0x8000 true v 0 (psOf r)) false [] s) = true := by
  decide +kernel
theorem witness_TrussWordsPost_refused :
    (let v := mkv (pad 0) 0 8 4 4 32
     let s := sh 5 v (T [(9, 0x40)])
     ! mstOk 0x40 v && nx (exec (.mst 3 5 9) s) (takeTrap false 0x02 (failing (.mst 3 5 9)) s) &&
       nx (exec (.mz 4) s) (takeTrap false 0x02 (failing (.mz 4)) s) && nx (exec .msync s) (advance s)) = true := by decide +kernel

/-- BF16 operands: B of 8 by 8 in the B-store, A of 8 by 4 in the scratchpad; 4 rows, 8 columns, one K-step, with `sn`. -/
def bView : ShapeReg := mkv (BitVec.ofNat 64 (0x7FF00000000000 + 0x40000000)) 0x04 8 8 2 131072
def aView : ShapeReg := mkv (pad 0) 0x04 8 4 2 16
def M (sn : Word) : State := sh 6 aView (sh 5 bView (long [(9, sn)]))
theorem witness_TrussWordsPost_checks :
    (let s := M 0x800004
     let d := scalar s.thr 9
     mmOk s.thr true d bView false && aViewOk aView d 8 false && mmOk s.thr false d bView false && groupOk 46 d bView false &&
       isOk (checkBase aView s) && isOk (checkPages .load false 2 (viewAddrs aView 0) [] s) &&
       isOk (checkPages .load false 2 (viewAddrs bView 8) [] s)) = true := by decide +kernel
theorem witness_TrussWordsPost_mmat :
    (let s := M 0x800004
     posts (.mmat 3 5 6 9 0) (newTruss s.thr (.mmat 3 5 6 9 0) 0x800004 true aView bView []) false [] s &&
       posts (.mmatG 3 5 6 9 2) (newTruss s.thr (.mmatG 3 5 6 9 2) 0x800004 true aView bView []) true [] s) = true := by decide +kernel
theorem witness_TrussWordsPost_mmav :
    (let s := M 0x800004
     posts (.mmav 3 5 46 9 0) (newTruss s.thr (.mmav 3 5 46 9 0) 0x800004 true 0 bView []) true [] s) = true := by decide +kernel

/-- One entry posted, held back; then started. -/
noncomputable def queued (i : Instr) (s : State) : State := aft (exec i s)
noncomputable def started (i : Instr) (s : State) : State := aft (exec .trussEntryStart (aft (exec i s)))

/-- The same with one row of A and K = 1. -/
def one (sn : Word) : State := sh 6 (mkv (pad 0) 0x04 1 1 2 16) (sh 5 (mkv (BitVec.ofNat 64 (0x7FF00000000000 + 0x40000000)) 0x04 1 8 2 131072) (long [(9, sn)]))
theorem witness_TrussEntriesRun_start :
    (let q := queued (.mmat 3 5 6 9 0) (one 1)
     decide (q.thr.tq.length = 1 ∧ trussSlot q 5 3 = some 2) && match startable q with
     | none => false
     | some e =>
       let s := modTruss (fun e => { e with started := true }) (modMySpan (fun x => { x with trussTurn := 3 }) q)
       match actFor (trussActing e) (firstStep e).run s with
       | .ok (.ok fl) s1 => nx (exec .trussEntryStart q) (modTruss (fun e => { e with started := true, kstep := 1, flags := fl, replies := [] }) s1)
       | _ => false) = true := by decide +kernel
theorem witness_TrussEntriesRun_multiply :
    (let q := started (.mmat 3 5 6 9 0) (one 1)
     match q.thr.tq with
     | e :: rest => e.started && decide (e.push = none ∧ e.notify = false) && (match actFor (trussActing e) (lastSteps e).run q with
       | .ok (.ok fl) s1 => nx (exec .trussEntryComplete q)
           (withThr s1 { q.thr with tq := rest, u := { q.thr.u with mstat := q.thr.u.mstat ||| fl.setWidth 64 } })
       | _ => false)
     | _ => false) = true := by decide +kernel
theorem witness_TrussEntriesRun_zero :
    (let q := started (.mz 3) (T [])
     let t := aft (exec .trussEntryComplete q)
     eqT t.thr { q.thr with tq := [] } && decide (tileOf (mySpan t) 3 = ⟨.z, []⟩)) = true := by decide +kernel
theorem witness_TrussEntriesRun_read :
    (let q := started (.mrd 4 3 9) (long [(9, 8)])
     let t := aft (exec .trussEntryComplete q)
     decide (t.thr.tq = q.thr.tq.tail) && match t.thr.v.vq.map (·.delivered) with
     | [some (some d)] => [0, 64, 255].all fun i =>
         elemOf d 32 i == BitVec.ofNat 32 (entryOut (tileOf (mySpan q) 3) (8 + i / 64) (i % 64)).1
     | _ => false) = true := by decide +kernel
/-- Matrix error: the sequence number that `mstat` holds. -/
theorem witness_TrussWordsPost_error :
    (let s := withThr (T []) { (T []).thr with u := { (T []).thr.u with mstat := 0x0005000000070120 } }
     nx (exec (.mz 3) s) (takeTrap false 0x0D 7 s) && nx (exec .msync s) (takeTrap false 0x0D 7 s)) = true := by decide +kernel
theorem witness_TrussWordsPost_msyncWaits :
    (let s := withThr (T []) { (T []).thr with tq := [newTruss (T []).thr (.mz 3) 0 false 0 0 []] }
     nx (exec .msync s) (park .other s)) = true := by decide +kernel
/-- A multiply one of whose A sectors has another format than its view names: a matrix error of its entry (R259, R271). -/
theorem witness_TrussEntriesRun_error :
    (let s := one 1
     let bad := { s with sectors := [(fpaOf 5 3 0 0 / 64, { fmt := 0x01, scale := 0, key := none, record := none, bad := false })] }
     let q := started (.mmat 3 5 6 9 0) bad
     decide (q.thr.tq = []) && q.thr.u.mstat.getLsbD 5 && decide (q.thr.u.mstat.extractLsb' 16 16 = 0)) = true := by decide +kernel

/-- The same entry with K = 9, whose sector is spoilt between its two K-steps. -/
theorem witness_TrussEntriesRun_lateError :
    (let s := sh 6 (mkv (pad 0) 0x04 9 1 2 32)
       (sh 5 (mkv (BitVec.ofNat 64 (0x7FF00000000000 + 0x40000000)) 0x04 9 8 2 131072) (long [(9, 1)]))
     let q := started (.mmat 3 5 6 9 0) s
     let q := { q with sectors := [(fpaOf 5 3 0 0 / 64, { fmt := 0x01, scale := 0, key := none, record := none, bad := false })] }
     match q.thr.tq with
     | [e] => e.started && decide (e.push = none ∧ e.notify = false) && (match actFor (trussActing e) (lastSteps e).run q with
       | .ok (.error c) s1 => decide (1 ≤ c ∧ c ≤ 5) && eqT s1.thr q.thr && (let t := aft (exec .trussEntryComplete q)
           decide (t.thr.tq = []) && t.thr.u.mstat.getLsbD 5 && ! t.thr.u.mstat.getLsbD 6 &&
             decide (t.thr.u.mstat.extractLsb' 8 4 = BitVec.ofNat 4 c ∧ t.thr.u.mstat.extractLsb' 16 16 = e.seq))
       | _ => false)
     | _ => false) = true := by decide +kernel

/-- Finite operands: (1 · 2) + (3 · 4) on top of 1 is 15; integers −3 · 5 in the units of a sum word. -/
theorem witness_KStepsAccumulate :
    (let n (m : Nat) : FpVal := .num false m 0
     decide (fpVal fp32 0x3F800000 = .num false 0x800000 (-23)) &&
       decide (floatStep 0 0x3F800000 [(n 1, n 2), (n 3, n 4)] = (0x41700000, 0)) &&
       decide ((intStep 0 [(.num true 3 0, .num false 5 0)]).1.toInt = -15 * 2 ^ 64)) = true := by decide +kernel

/-- The status entry of an entry with NOTIFY goes to q6, or waits while q6 is full (R267). -/
theorem witness_TrussEntriesRun_notify :
    (let q0 := started (.mmat 3 5 6 9 0) (one 1)
     let q := withThr q0 { q0.thr with tq := q0.thr.tq.map fun e => { e with notify := true } }
     let full := withThr q (setQueue 6 (List.replicate 16 1) q.thr)
     [q, full].all fun q => match q.thr.tq with
      | [e] => ! awaitsAcks e && (match actFor (trussActing e) (lastSteps e).run q with
        | .ok (.ok fl) s1 => ! trussOut s1 e && nx (exec .trussEntryComplete q) (withThr s1 (notified [(e, statusWord e.seq fl false false, fl)] [] q.thr))
        | _ => false)
      | _ => false) = true := by decide +kernel

/-- Rows of FP32 values for an F tile: a signalling NaN becomes the canonical one, a subnormal zero under FLUSH 2 (R270). -/
theorem witness_TrussEntriesRun_write :
    (let s := long [(9, 8)]
     let e := { newTruss s.thr (.mwr 3 5 9) 8 false 0 0 [] with
       started := true, kstep := 1, staged := true, flush := 2, regs := [BitVec.ofNat _ (0x7F800001 + 2 ^ 32 * 5 + 2 ^ 64 * 0x3F800000)] }
     let q := withThr s { s.thr with tq := [e] }
     let t := aft (exec .trussEntryComplete q)
     ! trussOut q e && decide (t.thr.tq = [] ∧ (tileOf (mySpan q) 3).tag = .z ∧ (tileOf (mySpan t) 3).tag = .f) &&
       decide ((List.range 4).map (tileEntry (tileOf (mySpan t) 3) 8) = [0x7FC00000, 0, 0x3F800000, 0]) &&
       decide (tileEntry (tileOf (mySpan t) 3) 12 0 = 0)) = true := by decide +kernel
/-- A multiply of no row that errs leaves its tile as it is (R258). -/
theorem witness_TrussEntriesRun_noRows :
    (let q := queued (.mmat 3 5 6 9 0) (setTile 3 ⟨.i, []⟩ { one 0 with turn := { w0.turn with defer := true } })
     let t := aft (exec .trussEntryStart q)
     q.thr.tq.length == 1 && t.thr.tq.isEmpty && t.thr.u.mstat.getLsbD 5 && decide (t.thr.u.mstat.extractLsb' 8 4 = 4) &&
       decide (tileOf (mySpan t) 3 = ⟨.i, []⟩)) = true := by decide +kernel
theorem test_no_rows_is_such : multipliesNothing (newTruss w0.thr (.mmat 3 5 6 9 0) 0 true 0 0 []) :=
  .inr ⟨⟨3, 5, 6, 9, 0, .inl rfl⟩, by decide⟩

end Truss

/-! ## The copy engine -/

namespace Copies

/-- The shadow set: from pad 0 to pad 0x1000, `e0` elements from one and `e1` in the other, with an increment of 3. -/
def shadow (mode : BitVec 3) (ctr : Word) (e0 e1 : Nat) : State :=
  let s := sh 6 (mkv 0 0 e1 1 4 0) (sh 5 (mkv 0 0 e0 1 4 0) (mem1 (user [])))
  withThr s { s.thr with ce := { s.thr.ce with
    src := pad 0, dst := pad 0x1000, sh := 0x65, ctr := ctr, inc := 3, mode := mode, nextId := 0xFFFF } }
noncomputable def launches (s : State) : Bool :=
  match exec .ceLaunch s with
  | .next t => (match t.thr.tr with
    | [x] => eqS t (launchedState s x) && decide (x.id = 0xFFFF ∧ x.src = copySource s ∧ x.dst = copyDest s ∧ x.ctr = s.thr.ce.ctr ∧
        x.inc = 3 ∧ x.converting = (s.thr.ce.mode.extractLsb' 0 2 == 1) ∧ x.notify = s.thr.ce.mode.getLsbD 2 ∧ x.kernel = false ∧
        x.k = 0 ∧ x.state = .running ∧ x.flags = 0 ∧ x.missed = false)
        && decide (x.promise = BitVec.ofNat 64 (100 + 250 + 1000 * ((copyBytes x (viewCount x.src) + 599999) / 600000)))
        && nx (exec (.csrrs 10 0 0x026) s)
          (advance (withThr (launchedState s x) (setScalar 10 (x.promise.extractLsb' 0 48 ++ x.id) (launchedState s x).thr)))
    | _ => false)
  | _ => false

theorem witness_CopiesAreLaunchedAndControlled_launch :
    (launches (shadow 0 0 7 7) && launches (shadow 5 (pad 0x2000) 7 7) && isOk (checkFormats 0 false (copySource (shadow 0 0 7 7)) (copyDest (shadow 0 0 7 7)) (shadow 0 0 7 7))) = true := by
  decide +kernel
theorem witness_CopiesAreLaunchedAndControlled_refused :
    ([shadow 2 0 7 7, shadow 0 0 7 8].all fun s => nx (exec (.csrrs 10 0 0x026) s) (takeTrap false 0x02 (failing (.csrrs 10 0 0x026)) s))
      = true := by decide +kernel

/-- A plain copy of eight bytes, four apart, with NOTIFY and a counter, launched; then with its one unit performed. -/
noncomputable def copying : State := aft (exec .ceLaunch (shadow 4 (pad 0x2000) 8 8))
noncomputable def copied : State := aft (exec (.copyUnit 0xFFFF) copying)
theorem witness_CopiesMoveAndComplete_unit :
    (match copying.thr.tr with
     | [x] => decide (copySlot copying 5 3 = some 2 ∧ nextCopy copying = some x) &&
         (let n := max (copySize x.converting (shapeFmt x.src)) (copySize x.converting (shapeFmt x.dst))
          let u := runCopy x.order (256 / n) copying
          decide (u.thr.tr ≠ copying.thr.tr) && nx (exec (.copyUnit x.id) copying) (modSpan 5 3 (fun y => { y with copyTurn := 3 }) u))
     | _ => false) = true := by decide +kernel
theorem witness_CopiesMoveAndComplete_elements :
    (decide (copied.thr.tr.map (·.k) = [8] ∧ memRead copied 0 (padA 0x1004) 1 = 0x2D ∧ memRead copied 0 (padA 0x1005) 1 = 0) &&
      (match copying.thr.tr with | [x] => isOk (copyElem x 7 copying) | _ => false)) = true := by decide +kernel
/-- A converting copy of one BF16 element. -/
theorem witness_CopiesMoveAndComplete_converting :
    (let s := sh 6 (mkv 0 0 1 1 4 0) (sh 5 (mkv 0 0x04 1 1 2 0) (shadow 1 0 1 1))
     match (aft (exec .ceLaunch s)).thr.tr with
     | [x] => x.converting && (match readView false x.src (loadPlanes 0x04) 0 s with
        | .ok (.value v _) s1 => (match copyElem x 0 s with
          | .ok fl t => decide (fl = (roundFp fp32 0 0 v).2 ∧ memRead t 0 (padA 0x1000) 4 = (roundFp fp32 0 0 v).1) && sameMem s s1
          | _ => false)
        | _ => false)
     | _ => false) = true := by decide +kernel
/-- A destination that no longer translates stops the transfer at its element. -/
theorem witness_CopiesMoveAndComplete_stops :
    (match copying.thr.tr with
     | [x] => let y := { x with dst := mkv 0x770000 0 8 1 4 0 }
       let s := withThr copying { copying.thr with tr := [y] }
       (match copyElem y 0 s with | .error (.trap c _) _ => decide (c = 0x06) | _ => false) &&
         decide ((aft (exec (.copyUnit y.id) s)).thr.tr.map (fun z => (z.state, z.cause, z.k)) = [(.stoppedFault, 0x06, 0)])
     | _ => false) = true := by decide +kernel
theorem witness_CopiesMoveAndComplete_complete :
    (match copied.thr.tr with
     | [x] => canComplete copied x && (match exec (.transferCompletion 0xFFFF) copied with
       | .next t => decide (memRead t 0 (padA 0x2000) 8 = 3 ∧ queueAt t.thr 7 = [doneEntry x false] ∧ t.thr.u.fflags = 0) &&
           decide (t.thr.tr.map (·.state) = [.complete])
       | _ => false)
     | _ => false) = true := by decide +kernel
theorem witness_CopiesMoveAndComplete_counterFault :
    (match copied.thr.tr with
     | [x] => let s := withThr copied { copied.thr with tr := [{ x with flagged := true, ctr := 0x880000 }] }
       (match addToCounter false 0x880000 3 s with | .error (.trap c _) _ => decide (c = 0x06) | _ => false) &&
         decide ((aft (exec (.transferCompletion 0xFFFF) s)).thr.tr.map (fun z => (z.state, z.cause)) = [(.stoppedFault, 0x06)])
     | _ => false) = true := by decide +kernel

noncomputable def named : State := withThr copying (setScalar 9 0xFFFF copying.thr)
theorem witness_CopiesAreLaunchedAndControlled_live :
    (let s := named
     match s.thr.tr with
     | [x] => nx (exec (.cestat 10 9) s) (advance (withThr s (setScalar 10 (transferStatus x 0) s.thr))) &&
         nx (exec (.ceprom 10 9) s) (advance (withThr s (setScalar 10 x.promise s.thr))) && nx (exec (.ceresume 9) s) (advance s) &&
         (match exec (.cecancel 9) s with
          | .next t => sameMem s t && eqT t.thr (retire
              { (setQueue 7 [doneEntry x true] s.thr) with tr := [{ x with state := .cancelled, cause := 0, push := none }] })
          | _ => false)
     | _ => false) = true := by decide +kernel
theorem witness_CopiesAreLaunchedAndControlled_other :
    (let s := withThr copying (setScalar 9 5 copying.thr)
     (transferOf s.thr 5).isNone && nx (exec (.cestat 10 9) s) (advance (withThr s (setScalar 10 0 s.thr))) &&
       nx (exec (.ceprom 10 9) s) (advance (withThr s (setScalar 10 0 s.thr))) && nx (exec (.ceresume 9) s) (advance s) &&
       nx (exec (.cecancel 9) s) (advance s)) = true := by decide +kernel
noncomputable def stopped : State :=
  withThr named { named.thr with tr := named.thr.tr.map fun x => { x with state := .stoppedFault, cause := 7, k := 3 } }
theorem witness_CopiesAreLaunchedAndControlled_stopped :
    (let s := stopped
     match s.thr.tr with
     | [x] => transferStopped x && nx (exec (.cestat 10 9) s) (advance (withThr s (setScalar 10 (transferStatus x 3) s.thr))) &&
         nx (exec (.ceresume 9) s) (advance (withThr s
           { s.thr with tr := [{ x with state := .running, cause := 0, promise := promiseOf s x, missed := false }] }))
     | _ => false) = true := by decide +kernel

/-! ## Shape registers, waits, claim words, sets -/

theorem witness_WaitsSleepUntilTheirEvent_waits :
    (let s := put 0 (padA 0x40) 8 5 (user [(8, pad 0x40), (9, 5), (10, 6)])
     grantedB .load 8 (pad 0x40) s (padR 0x40) && unheldB (pad 0x40) 8 false s && reachesB .load (padR 0x40) 8 s &&
     nx (exec (.waitge 8 9) s) (advance (copiesRemoved 3 s)) && nx (exec (.waitge 8 10) s) (park (.waitge (pad 0x40) 6) s) &&
     nx (exec (.waitt 9) s) (advance s) && nx (exec (.waitt 8) s) (park (.waitt (pad 0x40)) s)) = true := by decide +kernel
theorem witness_WaitsSleepUntilTheirEvent_stopped :
    (let v : Word := BitVec.ofNat 64 (0xFFFF + 65536 * 3)
     let s := withThr stopped (setScalar 8 (pad 0x2000) stopped.thr)
     nx (exec (.waitge 8 9) s) (takeTrap false 0x0B v s) && nx (exec (.waitp 9) stopped) (takeTrap false 0x0B v stopped) &&
       nx (exec .exit stopped) (takeTrap false 0x0B v stopped)) = true := by decide +kernel
theorem witness_WaitsSleepUntilTheirEvent_promise :
    (let s := named
     nx (exec (.waitp 9) s) (park (.waitp 0xFFFF) s) && nx (exec (.waitp 9) w0) (advance (copiesRemoved 3 w0)) && match s.thr.tr with
     | [x] => let late := { s with time := x.promise.toNat }
       let asleep := withThr late { late.thr with wait := some (.waitp 0xFFFF) }
       nx (exec (.waitp 9) late) (takeTrap false 0x0C 0xFFFF (withThr late (missedOn x late.thr))) &&
         nx (exec .missedPromise asleep) (takeTrap false 0x0C 0xFFFF (withThr asleep (missedOn x asleep.thr))) &&
         nx (exec .waitpWake (withThr asleep { asleep.thr with tr := [{ x with state := .complete }] }))
           (withThr late { late.thr with tr := [{ x with state := .complete }] })
     | _ => false) = true := by decide +kernel
theorem witness_WaitsSleepUntilTheirEvent_wakes :
    (let s := put 0 (padA 0x40) 8 5 (user [])
     let at_ (w : Wait) : State := withThr s { s.thr with wait := some w }
     nx (exec .waitgeWake (at_ (.waitge (pad 0x40) 5))) s && flt (exec .waitgeWake (at_ (.waitge (pad 0x40) 6))) &&
       nx (exec .waittWake (at_ (.waitt 100))) s && flt (exec .waittWake (at_ (.waitt 101)))) = true := by decide +kernel

def record : ShapeReg := BitVec.ofNat 512 (2 ^ 511 + 2 ^ 300 + 12345678901234567890)
theorem witness_ShapeWordsMoveFieldsAndRecords_tset :
    (let s := sh 5 record (user [(8, 0x8000), (9, 3), (10, 7), (11, 0xFFFF800000000000)])
     let sets (i : Instr) (c : Nat) (v : Word) : Bool := match exec i s with
       | .next t => (List.range 17).all fun k => shapeValue (vget t.thr.shp 5 0) k == if k = c then v else shapeValue record k
       | _ => false
     sets (.tset 5 8 9) 3 0x8000 && sets (.tset 5 11 10) 7 0xFFFF800000000000 &&
       nx (exec (.tset 5 11 9) s) (takeTrap false 0x02 (failing (.tset 5 11 9)) s) &&
       nx (exec (.tset 5 9 8) s) (takeTrap false 0x02 (failing (.tset 5 9 8)) s)) = true := by decide +kernel
theorem witness_ShapeWordsMoveFieldsAndRecords_tget :
    (((List.range 17).all fun c => let s := sh 5 record (user [(9, BitVec.ofNat 64 c)])
      nx (exec (.tget 12 5 9) s) (advance (withThr s (setScalar 12 (shapeValue record c) s.thr)))) &&
     (let s := sh 5 record (user [(9, 17)])
      nx (exec (.tget 12 5 9) s) (takeTrap false 0x02 (failing (.tget 12 5 9)) s))) = true := by decide +kernel
theorem witness_ShapeWordsMoveFieldsAndRecords_records :
    (let s := mem1 (sh 5 record (user [(8, pad 0x40), (9, pad 0x44)]))
     oldB s && nx (exec (.tldr 5 8) s) (advance (withThr s (withShape 5 (BitVec.ofNat 512 (memRead s 0 (padA 0x40) 64)) s.thr))) &&
       nx (exec (.tldr 5 9) s) (takeTrap false 0x05 (pad 0x44) s) && nx (exec (.tstr 5 9) s) (takeTrap false 0x05 (pad 0x44) s) &&
       (match exec (.tstr 5 8) s with
        | .next t => eqT t.thr (retire s.thr) && decide (memRead t 0 (padA 0x40) 64 = record.toNat)
        | _ => false)) = true := by decide +kernel
/-- v9 of a long context holds an old record. -/
def oldRecord (l : Nat → Word) : State :=
  let s := user []
  withThr s { s.thr with v := { s.thr.v with
    lg := 2
    long := some { freshContext with
      regs := vset freshContext.regs 9 (BitVec.ofNat 8192 ((List.range 20).foldl (fun n k => n + (l k).toNat * 2 ^ (64 * k)) 0)) } } }
theorem witness_ShapeWordsMoveFieldsAndRecords_vshp :
    (let l (k : Nat) : Word := if k < 7 then BitVec.ofNat 64 (k + 5) else BitVec.ofInt 64 (-3 - (k : Int))
     let s := oldRecord l
     (match exec (.vshp 5 9) s with
      | .next t => ((List.range 17).all fun k => shapeValue (vget t.thr.shp 5 0) k == if k < 13 then l k else 0) &&
          eqT t.thr (retire (withShape 5 (vget t.thr.shp 5 0) s.thr))
      | _ => false) &&
     (let s := oldRecord fun _ => 0x10000
      nx (exec (.vshp 5 9) s) (takeTrap false 0x02 (failing (.vshp 5 9)) s))) = true := by decide +kernel

/-- A sync page of the die's HBM, with a claim word at 0x40. -/
def hbm (o : Nat) : Nat := 5 * 2 ^ 45 + 0x90000 + o
def word16 (next limit : Nat) (l : List (Nat × Word)) : State := put 0 (hbm 0x40) 16 (next + limit * 2 ^ 64) (page (hbm 0) 0x77 l)
def claims (s : State) (o : Outcome State Fault Refusal) (next res vl : Nat) : Bool :=
  match o with
  | .next t => decide (memRead t 0 (hbm 0x40) 8 = next ∧ memRead t 0 (hbm 0x48) 8 = memRead s 0 (hbm 0x48) 8) &&
      eqT t.thr (retire (setScalar 11 (BitVec.ofNat 64 res) { s.thr with u := { s.thr.u with vl := BitVec.ofNat 11 vl } }))
  | _ => false
theorem witness_ClaimsTakeWork_claim :
    (let s := word16 5 7 [(8, mva 0x40), (9, 3), (10, 1)]
     isOk (checkClaim (mva 0x40) s) && unheldB (mva 0x40) 16 true s && claims s (exec (.claim 11 8 9) s) 7 5 2 &&
       claims s (exec (.claim 11 8 10) s) 6 5 1 &&
       (let s := word16 9 7 [(8, mva 0x40), (9, 3)]
        claims s (exec (.claim 11 8 9) s) 9 9 0)) = true := by decide +kernel
/-- Record 6 of the tile list has 3 rows, the others none. -/
theorem witness_ClaimsTakeWork_tile :
    (let s := put 0 (padA (16 * 6)) 16 0x00030000 (word16 5 9 [(8, mva 0x40), (9, pad 0), (10, pad 8)])
     claims s (exec (.claimt 11 8 9) s) 7 6 3 && nx (exec (.claimt 11 8 10) s) (takeTrap false 0x05 (pad 8) s) &&
       (let s := word16 5 9 [(8, mva 0x40), (9, pad 0)]
        claims s (exec (.claimt 11 8 9) s) 9 9 0) &&
       (let s := word16 12 9 [(8, mva 0x40), (9, pad 0)]
        claims s (exec (.claimt 11 8 9) s) 12 12 0)) = true := by decide +kernel
theorem witness_ClaimsTakeWork_trap :
    (let s := user [(8, 0x880000), (9, 3)]
     ! isOk (checkClaim 0x880000 s) && nx (exec (.claim 11 8 9) s) (takeTrap false 0x06 0x880000 s)) = true := by decide +kernel

/-- A set at that word. -/
def set (x : SetRec) : State := putSet 5 (hbm 0x40) x (page (hbm 0) 0x77 [(8, mva 0x40)])
def me : ThreadId := threadId w0.thr
theorem witness_SetsAndTheirBarriers_first :
    (let s := page (hbm 0) 0x77 [(8, mva 0x40)]
     isOk (setWord (mva 0x40) s) && decide (memberships s < 4) && nx (exec (.gjoin 8) s) (advance (putSet 5 (hbm 0x40) ⟨0, [me], [], []⟩ s)) &&
       nx (exec (.gbar 8) s) (takeTrap false 0x02 (failing (.gbar 8)) s) && nx (exec (.gleave 8) s) (advance s)) = true := by decide +kernel
theorem witness_SetsAndTheirBarriers_join :
    (let s := set ⟨0, [(9, 9)], [], []⟩
     nx (exec (.gjoin 8) s) (advance (putSet 5 (hbm 0x40) ⟨0, [(9, 9), me], [], []⟩ s)) &&
       (let s := set ⟨0, [(9, 9)], [(9, 9)], []⟩
        nx (exec (.gjoin 8) s) (park .other s)) &&
       (let full := (List.range 4).foldl (fun u k => putSet 5 (0x1000 + 64 * k) ⟨0, [me], [], []⟩ u) s
        decide (memberships full = 4) && nx (exec (.gjoin 8) full) (takeTrap false 0x02 (failing (.gjoin 8)) full))) = true := by decide +kernel
theorem witness_SetsAndTheirBarriers_arrive :
    (let s := set ⟨0, [(9, 9), me], [(9, 9)], []⟩
     oldB s && nx (exec (.gjoin 8) s) (advance s) && nx (exec (.gbar 8) s) (putSet 5 (hbm 0x40) ⟨0, [(9, 9), me], [(9, 9), me], []⟩
         (withThr s { s.thr with wait := some (.gbar (hbm 0x40)) })) &&
       nx (exec (.gleave 8) s) (advance (putSet 5 (hbm 0x40) ⟨0, [(9, 9)], [(9, 9)], []⟩ s)) &&
       (let s := set ⟨0, [me], [], [me]⟩
        nx (exec (.gbar 8) s) (advance (copiesRemoved 1 (putSet 5 (hbm 0x40) ⟨0, [me], [], []⟩ s))))) = true := by decide +kernel
theorem witness_SetsAndTheirBarriers_generation :
    (let s := set ⟨0, [me], [me], []⟩
     let s := withThr s { s.thr with wait := some (.gbar (hbm 0x40)) }
     (match exec (.generationComplete 5 (hbm 0x40)) s with
      | .next t => eqT t.thr { s.thr with wait := none } &&
          decide (memRead t 0 (hbm 0x40) 8 = 1 ∧ setAt t 5 (hbm 0x40) = some ⟨0, [me], [], [me]⟩)
      | _ => false) && flt (exec (.generationComplete 5 (hbm 0x40)) (set ⟨0, [me], [], []⟩))) = true := by decide +kernel

/-- A whole sector, last written from a whole sector: it takes the source's descriptor (R290). -/
theorem witness_CopiesMoveAndComplete_sector :
    (let s := sh 6 (mkv 0 0 64 1 1 0) (sh 5 (mkv 0 0 64 1 1 0) (shadow 0 0 64 64))
     let s := { s with sectors := [(padA 0 / 64, { fmt := 0x04, scale := 100, key := none, record := none, bad := false })] }
     match (aft (exec .ceLaunch s)).thr.tr with
     | [x] => decide (wholeSector x (sectorVa (viewAddr x.dst 0)) = some (0, pad 0)) && (match copyElem x 0 s with
       | .ok fl t => decide (fl = 0 ∧ (sectorOf t (padA 0x1000 / 64)).fmt = 0x04 ∧ (sectorOf t (padA 0x1000 / 64)).scale = 100 ∧
           memRead t 0 (padA 0x1000) 64 = memRead s 0 (padA 0) 64)
       | _ => false)
     | _ => false) = true := by decide +kernel
/-- A transfer whose source lies on another die asks for its element; one with stores out does not stop yet. -/
theorem witness_CopiesMoveAndComplete_away :
    (match copying.thr.tr with
     | [x] =>
       let y := { x with src := mkv (mva 0) 0 8 1 4 0 }
       let s := modSpan 5 3 (fun z => { z with utlb := [⟨0x77, false, 0, BitVec.ofNat 64 (0x37 + fpaOf 9 3 0 0)⟩] })
         (withThr copying { copying.thr with tr := [y] })
       (match actFor (copyActing y) (copyElem y 0) s with
        | .error (.request q) _ => decide (q.len = 1) && nx (exec (.copyUnit y.id) s) (modSpan 5 3 (fun z => { z with copyTurn := 3 })
            (sendRequest (copyActing y) q s))
        | _ => false)
     | _ => false) = true := by decide +kernel
/-- The counter lies on another die: the transfer ends once its add is acknowledged. -/
theorem witness_CopiesMoveAndComplete_remoteCounter :
    (match copied.thr.tr with
     | [x] =>
       let y := { x with ctr := mva 0 }
       let s := modSpan 5 3 (fun z => { z with utlb := [⟨0x77, false, 0, BitVec.ofNat 64 (0x37 + fpaOf 9 3 0 0)⟩] })
         (withThr copied { copied.thr with tr := [y] })
       match exec (.transferCompletion y.id) s with
       | .next t => copyOut t y.order && decide (t.thr.tr.map (fun z => (z.state, z.added)) = [(.running, true)])
       | _ => false
     | _ => false) = true := by decide +kernel
theorem witness_WaitsSleepUntilTheirEvent_host :
    (let s := put 0 (hbm 0x40) 8 5 (page (hbm 0) 0x77 [(8, mva 0x40), (9, 5)])
     let s := withThr s { s.thr with host := true }
     isNx (exec (.waitge 8 9) s)) = true := by decide +kernel
theorem witness_ClaimsTakeWork_away :
    (let s := page (9 * 2 ^ 45 + 0x90000) 0x77 [(8, mva 0x40), (9, 3)]
     match checkClaim (mva 0x40) s with
     | .ok r u => unheldB (mva 0x40) 16 true s && decide (fpaPeer r.fpa = 9) && eqT { s.thr with pages := u.thr.pages } u.thr &&
         nx (exec (.claim 11 8 9) s) (asked ⟨r, 16, .fetch (.claim 3)⟩ s u) &&
         (let s2 := withThr s { s.thr with replies := [ValueOf r.fpa (5 + 6 * 2 ^ 64)] }
          let t := aft (exec (.claim 11 8 9) s2)
          decide (scalar t.thr 11 = 5 ∧ t.thr.u.vl = 1 ∧ t.thr.replies = []))
     | _ => false) = true := by decide +kernel

/-- `claimt` on another die: it asks to hold the word, reads the record, asks to release it, and completes. -/
theorem witness_ClaimsTakeWork_tileAway :
    (let s := put 0 (padA (16 * 5)) 16 0x00030000 (page (9 * 2 ^ 45 + 0x90000) 0x77 [(8, mva 0x40), (9, pad 0)])
     match checkClaim (mva 0x40) s with
     | .ok r u =>
       let back (n : Nat) := withThr s { s.thr with replies := (List.replicate n (ValueOf r.fpa (5 + 6 * 2 ^ 64))) }
       nx (exec (.claimt 11 8 9) s) (asked ⟨r, 16, .hold⟩ s u) && (match exec (.claimt 11 8 9) (back 1) with
         | .next t => t.packets.map (·.cargo) == [.release (some 6)] && decide (t.thr.wait = some .other ∧ t.thr.pc = s.thr.pc)
         | _ => false) &&
         (let t := aft (exec (.claimt 11 8 9) (back 2))
          decide (scalar t.thr 11 = 5 ∧ t.thr.u.vl = 3 ∧ t.thr.replies = [] ∧ t.packets = []))
     | _ => false) = true := by decide +kernel
theorem witness_ClaimsTakeWork_held :
    (let s := modDie 5 (fun d => { d with claims := [(hbm 0x40, ⟨5, 4, 0⟩)] }) (word16 5 7 [(8, mva 0x40), (9, 0)])
     nx (exec (.claim 11 8 9) s) (park .other s) && nx (exec (.claimt 11 8 9) s) (park .other s)) = true := by decide +kernel
theorem witness_WaitsSleepUntilTheirEvent_away :
    (let s := page (9 * 2 ^ 45 + 0x90000) 0x77 [(8, mva 0x40), (9, 5)]
     let back (v : Nat) := withThr s { s.thr with replies := [ValueOf (9 * 2 ^ 45 + 0x90040) v] }
     nx (exec (.waitge 8 9) s) (asked ⟨pageR (9 * 2 ^ 45 + 0x90000) 0x77 false 0x40, 8, .load 8⟩ s (seen .load 8 (mva 0x40) s)) &&
       nx (exec (.waitge 8 9) (back 5)) (advance (copiesRemoved 3 s)) &&
       nx (exec (.waitge 8 9) (back 4)) (park (.waitge (mva 0x40) 5) s)) = true := by decide +kernel
/-- A cancelled transfer whose counter's add is on its way goes on; a stopped transfer whose request is lost stops when the rest is done. -/
theorem witness_CopiesAreLaunchedAndControlled_added :
    (let s := withThr named { named.thr with tr := named.thr.tr.map fun x => { x with added := true } }
     nx (exec (.cecancel 9) s) (advance s)) = true := by decide +kernel
theorem witness_CopiesMoveAndComplete_failed :
    (let s := withThr copying { copying.thr with tr := copying.thr.tr.map fun x => { x with failed := true } }
     match s.thr.tr with
     | [x] => decide ((runCopy x.order 4 s).thr.tr.map (·.state) = [.stoppedMemory])
     | _ => false) = true := by decide +kernel
/-- A memory error of a request stops its transfer once its other requests are acknowledged. -/
theorem witness_TheFabricCarriesRequests_memoryFault :
    (let p : Packet :=
       { id := 7, owner := threadId copying.thr, place := home, ctx := 0, age := 0, lo := 0, len := 8, loc := ⟨fpaOf 6 3 0 64, 0⟩
         agent := .copy ((copying.thr.tr.map (·.order)).headD 0), dest := none, elem := 0, sync := false, tenant := 0, page := []
         cargo := .fault .memoryError, sent := 50, route := Route.start 1 1 9 0 }
     match exec (.faultResponse 7) { copying with packets := [p] } with
     | .next t => sameMem copying t && decide (t.packets = [] ∧ t.thr.tr = copying.thr.tr.map fun x => { x with failed := true }) &&
         eqT { t.thr with tr := copying.thr.tr } copying.thr
     | _ => false) = true := by decide +kernel
/-- A running transfer holds back a write of the space's registers, unless it waits itself for a store that a trap has saved. -/
theorem witness_RuledAndKernelCsrs_spaceSettles :
    (let s := kern copying
     let t := withThr s { s.thr with tr := s.thr.tr.map fun x => { x with age := 5 } }
     let e : VEntry := { newEntry t.thr (.vst 1 8 0 0) none [(pad 0, 0)] 1 with age := 3, vl := 4 }
     let p := withThr t { t.thr with v := { t.thr.v with parked := [⟨e, 9⟩] } }
     nx (exec (.ptbrWrite 0x808 1) t) (park .other t) && (nextCopy t).isSome && (nextCopy p).isNone &&
       nx (exec (.ptbrWrite 0x808 1) p) (withThr p { p.thr with k := { p.thr.k with ctxid := 1 } })) = true := by decide +kernel

end Copies

/-! ## Launches, the schedulers, contexts -/

namespace Launches

/-- A launch record of R342, field by field. -/
def rcd (entry arg threads part place flags prio dep tgt inc done claim : Nat) : Nat :=
  entry + arg * 2 ^ 64 + threads * 2 ^ 128 + part * 2 ^ 160 + place * 2 ^ 192 + flags * 2 ^ 240 + prio * 2 ^ 248 + dep * 2 ^ 256
    + tgt * 2 ^ 320 + inc * 2 ^ 368 + done * 2 ^ 384 + claim * 2 ^ 448
/-- The thread with a record at pad 0x40, launching on die 1 of its package. -/
def at40 (r : Nat) (l : List (Nat × Word)) : State :=
  let s := put 0 (padA 0x40) 64 r (modDie 5 (fun d => { d with locked := true }) (user ((8, pad 0x40) :: l)))
  withThr s { s.thr with k := { s.thr.k with kplace := 0xFFFFFFFFFFFF, kprio := 2, ctxid := 3, ktvec := 0x8000 } }
def waiting : Nat := rcd 0x4000 77 3 0x042 0x1000 0 3 (pad 0x100).toNat 5 9 (pad 0x200).toNat 0
def plain : Nat := rcd 0x4000 77 3 0x042 0x1000 1 3 0 5 9 0 0
def gang (n : Nat) : Nat := rcd 0x4000 77 n 0x042 0x1000 1 3 0 5 9 (pad 0x200).toNat 0
def misaligned : Nat := rcd 0x4001 77 3 0x042 0x1000 0 3 0 5 9 0 0
def phys (off : Nat) : Phys := ⟨padA off, 0⟩
def accepted (s : State) (r : BitVec 512) (dep done : Option Phys) : Launch :=
  { gen := (dieOf s 5).accepted, order := s.fresh, prio := 2, entry := 0x4000, arg := 77, threads := 3, part := 0x042, place := 0x1000
    gang := r.getLsbD 240, tpsm := 0, dep := dep, depTarget := 5, doneInc := 9, done := done, claim := none
    ctx := ⟨3, 0x8000, 0, 0, 2, 0xFFFFFFFFFFFF, 0, 0⟩, held := dep.isSome, next := 0, live := [], saved := [], chosen := []
    cancelled := false, failed := false, stopped := false }

theorem witness_LaunchesEnterTheQueue_record :
    (recordOk (BitVec.ofNat 512 waiting) && recordOk (BitVec.ofNat 512 plain) && ! recordOk (BitVec.ofNat 512 misaligned) &&
      nx (exec (.launch 10 8) (at40 misaligned [])) (takeTrap false 0x02 (failing (.launch 10 8)) (at40 misaligned []))) = true := by
  decide +kernel
theorem witness_LaunchesEnterTheQueue_accepted :
    (let s := at40 waiting []
     let l := accepted s (BitVec.ofNat 512 waiting) (some (phys 0x100)) (some (phys 0x200))
     oldB s && isOk (loadRecord (pad 0x40) s) && decide (freeEntry (dieOf s 5) 2 = some 512) && nx (exec (.launch 10 8) s)
       (let s1 := modDie 5 (fun d => { d with queue := nset d.queue 512 l, accepted := d.accepted + 1 }) { s with fresh := s.fresh + 1 }
        advance (withThr s1 (setScalar 10 (handleOf 512 1 l.gen) s1.thr)))) = true := by decide +kernel
/-- The one group of 16 Spans fits a gang of 16, not of 17: the record's counter and status word report a rejection. -/
theorem witness_LaunchesEnterTheQueue_few :
    ((match exec (.launch 10 8) (at40 (gang 17) []) with
      | .next t => decide (scalar t.thr 10 = 0 ∧ t.thr.pc = 0x1004 ∧ memRead t 0 (padA 0x200) 8 = 9 ∧ memRead t 0 (padA 0x208) 8 = 8 ∧
          (dieOf t 5).queue = [])
      | _ => false) &&
     (match exec (.launch 10 8) (at40 (gang 16) []) with
      | .next t => decide (scalar t.thr 10 ≠ 0 ∧ (dieOf t 5).queue.length = 1)
      | _ => false)) = true := by decide +kernel
def full : State :=
  let s := at40 plain []
  modDie 5 (fun d => { d with queue := (List.range 256).map fun i => (512 + i, accepted s (BitVec.ofNat 512 plain) none none) }) s
theorem witness_LaunchesEnterTheQueue_full :
    (decide (freeEntry (dieOf full 5) 2 = none) && nx (exec (.launch 10 8) full) (park .other full)) = true := by decide +kernel
theorem witness_LaunchesEnterTheQueue_cancel :
    (let s := at40 waiting [(9, 0x10001)]
     nx (exec (.cancel 9) s) (advance (modPkg 1 (fun p => { p with cancels := [(0x10001, 3)] }) s))) = true := by decide +kernel

/-- Entry 512 of die 5 holds a launch. -/
def withQueue (l : Launch) : State := modDie 5 (fun d => { d with queue := [(512, l)], accepted := 2 }) (at40 waiting [])
def first : Launch := accepted (at40 waiting []) 0 (some (phys 0x100)) (some (phys 0x200))
def released : Launch := { first with held := false }
def placed : Launch := { released with chosen := [⟨5, 0, none, 100⟩] }

theorem witness_SchedulersRunLaunches_dependence :
    (flt (exec (.dependenceMet 5 512) (withQueue first)) && (let s := put 0 (padA 0x100) 8 5 (withQueue first)
      decide (keyErased s 0 (padA 0x100) = false) && nx (exec (.dependenceMet 5 512) s) (withEntry 5 512 released s))) = true := by decide +kernel
theorem witness_SchedulersRunLaunches_placement :
    (match nextPlacement (withQueue released) 1 with
     | some (e, c) => decide (e = ⟨5, 512, released⟩ ∧ c = [⟨5, 0, none, 100⟩]) &&
         nx (exec (.placement 5) (withQueue released)) (withEntry 5 512 placed (withQueue released))
     | none => false) = true := by decide +kernel
theorem witness_SchedulersRunLaunches_start :
    (mayStart (withQueue placed) (5, 0) && (chooser (withQueue placed) (5, 0)).isSome && (match exec (.spanStart 5 0) (withQueue placed) with
      | .next t => let x := spanOf t 5 0
        eqT t.thr (withQueue placed).thr && decide (x.launch = some (handleOf 512 1 placed.gen, 0x042) ∧ x.started = true ∧
          x.preempted = none ∧ x.poolcap = 64 ∧ x.tiles = [])
      | _ => false)) = true := by decide +kernel
noncomputable def spanStarted : State := aft (exec (.spanStart 5 0) (withQueue placed))
theorem witness_SchedulersRunLaunches_dispatch :
    (match nget (dieOf spanStarted 5).queue 512 with
     | some l => decide (canDispatch spanStarted ⟨5, 512, l⟩ = true ∧ dispatchPlan spanStarted ⟨5, 512, l⟩ = [(0, 5, 0)] ∧
           freeSlot spanStarted 5 0 = some 0) && (match exec (.dispatch 5 512) spanStarted with
         | .next t => ((allThreads t).any fun u => decide (u.place = ⟨5, 0, 0⟩ ∧ u.status = .running ∧ u.pc = 0x4000 ∧ scalar u 3 = 77 ∧
               scalar u 4 = 0 ∧ u.u.tid = 0 ∧ u.u.nthr = 3 ∧ u.u.lid = handleOf 512 1 l.gen ∧ u.u.arg = 77 ∧ u.u.part = 0x042 ∧
               u.u.vtype = 3 ∧ u.u.mbth = 48 ∧ u.k.ctxid = 3 ∧ u.k.ktvec = 0x8000)) &&
             (match nget (dieOf t 5).queue 512 with | some l' => decide (l'.next = 1 ∧ l'.live = [0]) | none => false)
         | _ => false)
     | none => false) = true := by decide +kernel
/-- A thread saved on Span 0, whose place is now Span 1. -/
def victim : SavedThread := { tid := 1, area := 0x770000, peer := 5, span := 0, slot := 2, poolcap := 64, bound := false, issued := 4, group := 6, msg := HostMsg.empty }
def evicted : Launch := { released with chosen := [⟨5, 1, some 6, 100⟩], saved := [victim], next := 2 }
def moved : State := modSpan 5 1 (fun x => { x with launch := some (handleOf 512 1 evicted.gen, 0x042), started := true }) (withQueue evicted)
theorem witness_SchedulersRunLaunches_restore :
    (decide (nextRestore moved ⟨5, 512, evicted⟩ = some (⟨5, 1, some 6, 100⟩, victim) ∧ freeSlot moved 5 1 = some 0) &&
     (match exec (.threadRestore 5 512) moved with
      | .next t => ((allThreads t).any fun u => decide (u.place = ⟨5, 1, 0⟩ ∧ u.status = .running ∧ u.pc = 0x8000 ∧ u.k.km = true ∧
            u.k.kcause = 0x80 ∧ u.k.kval = 1 ∧ u.k.ksave = 0x770000 ∧ u.u.tid = 1 ∧ u.u.lid = handleOf 512 1 evicted.gen)) &&
          (match nget (dieOf t 5).queue 512 with | some l' => decide (l'.saved = [] ∧ l'.live = [1]) | none => false)
      | _ => false)) = true := by decide +kernel
theorem witness_SchedulersRunLaunches_completion :
    (let l := { released with next := 3, cancelled := true }
     launchEnds (withQueue l) 5 512 l && (match exec (.launchCompletion 5 512) (put 0 (padA 0x200) 16 (4 + 2 ^ 64 * 8) (withQueue l)) with
       | .next t => decide ((dieOf t 5).queue = [] ∧ memRead t 0 (padA 0x200) 8 = 13 ∧ memRead t 0 (padA 0x208) 8 = 10)
       | _ => false) &&
     (let l := { l with done := none }
      match exec (.launchCompletion 5 512) (withQueue l) with
      | .next t => decide ((dieOf t 5).queue = []) && sameMem t (withQueue l)
      | _ => false)) = true := by decide +kernel

/-- The thread is thread 1 of the launch in entry 512; its Span was asked for at tick 0. -/
def running : State :=
  let s := withQueue { released with live := [1], next := 2, gen := 9 }
  let h := handleOf 512 1 9
  let s := withThr s { s.thr with u := { s.thr.u with lid := h } }
  modSpan 5 3 (fun x => { x with launch := some (h, 0x042), preempted := some 0 }) s
def entry512 (t : State) (p : Launch → Bool) : Bool := match nget (dieOf t 5).queue 512 with | some l => p l | none => false
theorem witness_SchedulersRunLaunches_victim :
    (flt (exec (.victimTermination 5 3) running) && (match exec (.victimTermination 5 3) { running with time := 20000 } with
      | .next t => sameMem running t && decide (t.thr.status = .ended ∧ (spanOf t 5 3).launch = none) &&
          entry512 t fun l => l.failed && decide (l.live = [])
      | _ => false)) = true := by decide +kernel
theorem witness_SchedulersRunLaunches_cancel :
    (match exec (.cancelArrival (handleOf 512 1 9) 3) (modPkg 1 (fun p => { p with cancels := [(handleOf 512 1 9, 3)] }) running) with
     | .next t => sameMem running t && decide (t.thr.status = .ended) &&
         entry512 t fun l => l.cancelled && l.stopped && decide (l.saved = [])
     | _ => false) = true := by decide +kernel
theorem witness_SchedulersRunLaunches_grant :
    (let s := modSpan 5 3 (fun x => { x with launch := some (w0.thr.u.lid, 0x042), waiters := [(2, 4, true)] }) w0
     let s := withThr s { s.thr with wait := some .longMode }
     decide (grantable s 5 3 = some (2, 4)) && (match exec (.longModeGrant 5 3) s with
       | .next t => sameMem s t && decide ((spanOf t 5 3).waiters = []) && eqT t.thr { inLongMode 4 s.thr with wait := none }
       | _ => false)) = true := by decide +kernel

theorem witness_ExitAndYield_exit :
    (oldB running && (match exec .exit running with
      | .next t => decide (t.thr.status = .ended) && sameMem running t && entry512 t fun l => decide (l.live = [])
      | _ => false)) = true := by decide +kernel
theorem witness_ExitAndYield_yield : nx (exec .yield w0) (advance w0) = true := by decide +kernel
/-- An entry of the same priority that no Span is free for makes `yield` ask for pre-emption. -/
theorem witness_ExitAndYield_yieldTo :
    (let other : Launch := { released with gen := 10, threads := 100000 }
     let s := modDie 5 (fun d => { d with queue := [(512, { released with live := [1], next := 3, gen := 9 }), (513, other)] }) running
     let s := (List.range 16).foldl (fun u k => modSpan 5 k (fun x => { x with launch := some (handleOf 512 1 9, 0x042), preempted := none }) u) s
     match launchOf s 1 s.thr.u.lid with
     | some l => decide (l.gang = false) && yieldTo s s.thr.u.lid l &&
         nx (exec .yield s) (advance (withThr s { s.thr with yielded := some 100, k := { s.thr.k with ip0 := true } }))
     | none => false) = true := by decide +kernel

theorem witness_ContextsAreSavedAndRestored_halt :
    ((let s := kern running
      match exec .halt s with
      | .next t => decide (t.thr.status = .ended) && sameMem s t && entry512 t fun l => decide (l.live = []) && l.failed
      | _ => false) &&
     (let s := kern running
      let s := withThr s { s.thr with k := { s.thr.k with saved := true, ksave := 0x770000 } }
      match exec .halt s with
      | .next t => decide (t.thr.status = .ended) && sameMem s t && entry512 t fun l =>
          decide (l.live = [] ∧ l.saved.map (fun x => (x.tid, x.area)) = [(1, 0x770000)]) && ! l.failed
      | _ => false)) = true := by decide +kernel
/-- A kernel thread whose save area is a page of its die. -/
def saving (l : List (Nat × Word)) : State := kern (page (5 * 2 ^ 45 + 0x90000) 0x17 l)
theorem witness_ContextsAreSavedAndRestored_alignment :
    (let s := saving [(8, mva 8)]
     nx (exec (.ctxsave 8) s) (takeTrap false 0x05 (mva 8) s) && nx (exec (.ctxrest 8) s) (takeTrap false 0x05 (mva 8) s)) = true := by
  decide +kernel

/-- Copies, fills and commands. -/
def withCopies : State :=
  modDie 5 (fun d => { d with window := [(3, ⟨1, 0, 127, 0⟩)], winFills := [⟨3, 1, 0, 127, 0⟩] })
    (modSpan 5 3 (fun x => { x with l1 := [(3, ⟨1, 0⟩)], icache := [(3, ⟨1, 0⟩)], fills := [⟨3, 1, 0, 127, 0⟩] }) w0)
theorem witness_CachesAndCommands_invalidate :
    ((match exec .l1inv withCopies with
      | .next t => decide ((mySpan t).l1 = [] ∧ (mySpan t).icache = [] ∧ (mySpan t).fills = [] ∧ (myDie t).window.length = 1) &&
          eqT t.thr (retire w0.thr)
      | _ => false) &&
     (match exec .winv withCopies with
      | .next t => decide ((myDie t).window = [] ∧ (myDie t).winFills = [] ∧ (mySpan t).l1.length = 1) && eqT t.thr (retire w0.thr)
      | _ => false)) = true := by decide +kernel
theorem witness_CachesAndCommands_fills :
    ((match exec (.l1FillArrival 5 3) withCopies with
      | .next t => decide ((mySpan t).fills = [] ∧ nget (mySpan t).l1 3 = some ⟨1, 0⟩)
      | _ => false) &&
     (match exec (.windowFillArrival 5) withCopies with
      | .next t => decide ((myDie t).winFills = [] ∧ nget (myDie t).window 3 = some ⟨1, 0, 127, 0⟩)
      | _ => false)) = true := by decide +kernel
theorem witness_CachesAndCommands_xfmq :
    (let s := kern (at40 (1 + 5 * 256 + 7 * 2 ^ 64 + 11 * 2 ^ 128 + 13 * 2 ^ 192 + 17 * 2 ^ 256) [])
     (match exec (.xfmq 8) s with
      | .next t => eqT t.thr (retire s.thr) && (match (pkgOf t 1).commands with
        | [c] => decide (c.op = 1 ∧ c.target = 5 ∧ c.arg = 7 ∧ c.ctr = 11 ∧ c.inc = 13 ∧ c.stat = 17 ∧ c.active = false)
        | _ => false)
      | _ => false) && nx (exec (.xfmq 8) w0) (takeTrap false 0x04 (failing (.xfmq 8)) w0)) = true := by decide +kernel

/-- A timer at a tick and a message in the thread's slot. -/
def due (ie km ip0 : Bool) (tick : Word) : State :=
  let s := modSpan 5 3 (fun x => { x with
    timers := vset x.timers 2 tick, hmsg := vset x.hmsg 2 { data := 5, pend := true, ovr := false, irq := true } }) w0
  withThr s { s.thr with k := { s.thr.k with ktvec := 0x8000, ie := ie, km := km, ip0 := ip0 } }
theorem witness_InterruptsEnterTheHandler_preEmpt :
    (let s := due false false true 50
     nx (exec .preEmpt s) (takeTrap false 0x80 0 s) && flt (exec .timer s) && flt (exec .hostMessage s)) = true := by decide +kernel
theorem witness_InterruptsEnterTheHandler_timer :
    ((let s := due true true false 50
      nx (exec .timer s) (takeTrap false 0x81 0 s) && flt (exec .preEmpt s)) && flt (exec .timer (due false true false 50)) &&
     (let s := due false false false 100
      nx (exec .timer s) (takeTrap false 0x81 0 s))) = true := by decide +kernel
theorem witness_InterruptsEnterTheHandler_message :
    (let s := due false false false 200
     nx (exec .hostMessage s) (takeTrap false 0x83 2 (modSpan 5 3 (fun x => { x with
       hmsg := vset x.hmsg 2 { data := 5, pend := true, ovr := false, irq := false } }) s)) && flt (exec .timer s)) = true := by decide +kernel
theorem witness_InterruptsEnterTheHandler_deadlock :
    (let s := withThr w0 { w0.thr with wait := some (.popEmpty 0 0) }
     let two := withThr w0 { (setQueue 0 [7] w0.thr) with wait := some (.popEmpty 0 1) }
     deadlocked s && deadlocked two && ! deadlocked (withThr two (setQueue 0 [7, 8] two.thr)) &&
       nx (exec .queueDeadlock s) (takeTrap true 0x0E (qstatOf s) s)) = true := by decide +kernel

/-- A vector add held back in the queue. -/
noncomputable def held : State := aft (exec (.vadd 5 3 4 0)
  { vecState 0x002 6 0x0000000700000003 [] with turn := { w0.turn with defer := true } })
theorem witness_StreamsMoveByThemselves_group :
    (match startGroup held with
     | .ok () s1 => nx (exec .elementGroupStart held) s1 && (match writeElems s1 with
       | .ok () s2 => nx (exec .elementGroupWrite s1) s2
       | _ => false)
     | _ => false) = true := by decide +kernel
theorem witness_StreamsMoveByThemselves_load :
    (let s := aft (exec (.vld 5 8 0 0) { vecState 0x002 6 0 [(8, pad 0x40)] with turn := { w0.turn with defer := true } })
     match startGroup s with
     | .ok () s1 => (match writeElems s1 with | .ok () s2 => nx (exec .loadDataArrival s1) s2 | _ => false)
     | _ => false) = true := by decide +kernel
theorem witness_StreamsMoveByThemselves_counter :
    (let s := withThr w0 { w0.thr with v := { w0.thr.v with nbq := [⟨pad 0x80, phys 0x80, [], 0⟩] } }
     match exec .nbCounterIncrement s with
     | .next t => eqT t.thr w0.thr && decide (memRead t 0 (padA 0x80) 8 = 1)
     | _ => false) = true := by decide +kernel
theorem witness_StreamsMoveByThemselves_link :
    (let s := modSpan 5 3 (fun x => { x with launch := some (w0.thr.u.lid, 0x042) }) (user [(9, 0)])
     let s := withThr s { s.thr with v := { s.thr.v with lg := 2, long := some freshContext } }
     let q := aft (exec (.mwr 3 5 9) { s with turn := { s.turn with defer := true } })
     match q.thr.v.vq, q.thr.tq with
     | [e], [x] => decide (e.link = some x.seq) && (match exec .linkEntryStaging q with
       | .next t => decide (t.thr.v.vq = [] ∧ t.thr.tq.map (fun y => (y.staged, y.regs)) = [(true, (stagedOperands q.thr e x.sn).1)])
       | _ => false)
     | _, _ => false) = true := by decide +kernel
theorem witness_StreamsMoveByThemselves_push :
    (let e := { newTruss w0.thr (.mz 3) 0 false 0 0 [] with push := some 77 }
     let s := withThr w0 { w0.thr with tq := [e] }
     let full := withThr s (setQueue 6 (List.replicate 16 1) s.thr)
     nx (exec (.deferredQueuePush 6) s) (withThr w0 (setQueue 6 [77] w0.thr)) && flt (exec (.deferredQueuePush 6) full)) = true := by
  decide +kernel

/-- A GANG launch of three threads, two to a Span, with both its Spans started. -/
def gangLaunch : Launch := { released with gang := true, tpsm := 1, chosen := [⟨5, 0, none, 100⟩, ⟨5, 1, none, 100⟩] }
def gangStarted : State :=
  let h := some (handleOf 512 1 gangLaunch.gen, 0x042#32)
  modSpan 5 1 (fun x => { x with launch := h, started := true }) (modSpan 5 0 (fun x => { x with launch := h, started := true })
    (withQueue gangLaunch))
theorem witness_SchedulersRunLaunches_gang :
    (canDispatch gangStarted ⟨5, 512, gangLaunch⟩ && (List.range 8).all (fun k => (threadAt gangStarted ⟨5, 0, k⟩).isNone &&
        (threadAt gangStarted ⟨5, 1, k⟩).isNone) && (match exec (.dispatch 5 512) gangStarted with
      | .next t => [⟨5, 0, 0⟩, ⟨5, 0, 1⟩, ⟨5, 1, 0⟩].all (fun p => (allThreads t).any fun u => decide (u.place = p ∧ u.status = .running)) &&
          entry512 t fun l => decide (l.next = 3 ∧ l.live = [0, 1, 2])
      | _ => false)) = true := by decide +kernel
theorem witness_SchedulersRunLaunches_ramp :
    (let s := modDie 5 (fun d => { d with ramp := some 0, locked := true }) w0
     mayRamp s (5, 17) && (let t := aft (exec (.spanStart 5 17) s)
       decide (spanOf t 5 17 = { spanOf s 5 17 with started := true, stopped := false } ∧ nget (dieOf t 5).pierStart 1 = some 100) &&
         flt (exec (.spanStart 5 18) { t with time := 119 }))) = true := by decide +kernel
theorem witness_SchedulersRunLaunches_overdueYield :
    (let s := withThr (modSpan 5 3 (fun x => { x with preempted := none }) running) { running.thr with yielded := some 100 }
     flt (exec (.victimTermination 5 3) { s with time := 20099 }) &&
       decide ((aft (exec (.victimTermination 5 3) { s with time := 20100 })).thr.status = .ended)) = true := by decide +kernel
/-- Every Span that the entry may take is occupied by launches of priority 0 and 1: the latest accepted of the lowest gives way. -/
def crowded : State :=
  let low (g prio : Nat) : Launch := { released with gen := g, order := g, prio := prio, live := [0], next := 3 }
  let s := modDie 5 (fun d => { d with queue := [(512, { released with prio := 3 }), (600, low 7 0), (601, low 8 0), (602, low 9 1)] }) (at40 waiting [])
  (List.range 16).foldl (fun u k => modSpan 5 k (fun x => { x with
    launch := some (handleOf (if k < 4 then 600 else if k < 6 then 601 else 602) 1 (if k < 4 then 7 else if k < 6 then 8 else 9), 0x042) }) u)
    { s with others := [0, 4, 5, 6].map fun k => { t0 with place := ⟨5, k, 0⟩ } }
theorem witness_SchedulersRunLaunches_preempts :
    ((nextPlacement crowded 1).isNone && decide (nextVictims crowded 5 = some (handleOf 512 1 released.gen, [(5, 5)])) &&
      (fewestVictims crowded ⟨5, 512, { released with prio := 3 }⟩).isSome &&
      isNx (exec (.placement 5) crowded)) = true := by decide +kernel
/-- A whole-vector entry that has started holds the interrupt back. -/
theorem witness_InterruptsEnterTheHandler_whole :
    (let s := due false false true 50
     let e := { newEntry s.thr (.vrsum 5 3 0) none [] 0 with checked := true, buf := [([], 0)] }
     let s := withThr s { s.thr with v := { s.thr.v with vq := [e] } }
     ! streamLeaves s && flt (exec .preEmpt s)) = true := by decide +kernel
theorem witness_StreamsMoveByThemselves_remoteCounter :
    (let s := withThr w0 { w0.thr with v := { w0.thr.v with nbq := [⟨mva 0, ⟨fpaOf 9 3 0 0, 0⟩, [], 0⟩] } }
     match exec .nbCounterIncrement s with
     | .next t => sameMem s t && decide (t.packets.map (fun q => (q.cargo, q.loc)) = [(.atomic .add 1, ⟨fpaOf 9 3 0 0, 0⟩)])
     | _ => false) = true := by decide +kernel

/-- A second entry's victims are counted apart from those that were asked for the first (R352). -/
theorem witness_SchedulersRunLaunches_claimant :
    (let t := aft (exec (.placement 5) crowded)
     decide ((spanOf t 5 5).preempted = some 100 ∧ (spanOf t 5 5).claimant = some (handleOf 512 1 released.gen) ∧
       nextVictims t 5 = none)) = true := by decide +kernel
/-- A die's Spans ramp 5 ns Pier by Pier. -/
theorem witness_SchedulersRunLaunches_stagger :
    (let s := modDie 5 (fun d => { d with ramp := some 98, locked := true }) w0
     flt (exec (.spanStart 5 17) s) && isNx (exec (.spanStart 5 3) s) && isNx (exec (.spanStart 5 17) { s with time := 103 })) = true := by
  decide +kernel
/-- The key slot of a dependence word, of a claim word or of a report is erased: the context ends. -/
theorem witness_SchedulersRunLaunches_erased :
    (let gone := modPkg 1 (fun p => { p with erased := [9] })
     let far : Phys := ⟨5 * 2 ^ 45 + 0x90000100, 9⟩
     let d := gone (withQueue { first with dep := some far })
     let c := gone (modSpan 5 0 (fun x => { x with launch := some (handleOf 512 1 placed.gen, 0x042), started := true })
       (withQueue { placed with claim := some far }))
     keyErased d 9 far.fpa && nx (exec (.dependenceMet 5 512) d) (fatalContext .targetFault 5 3 none far.fpa d) &&
       canDispatch c ⟨5, 512, { placed with claim := some far }⟩ &&
       nx (exec (.dispatch 5 512) c) (fatalContext .targetFault 5 3 none far.fpa c)) = true := by decide +kernel
/-- A report waits while a `claimt` holds its words. -/
theorem witness_SchedulersRunLaunches_heldReport :
    (let l := { released with next := 3, cancelled := true }
     let s := modDie 5 (fun d => { d with claims := [(padA 0x200, ⟨5, 4, 0⟩)] }) (withQueue l)
     launchEnds s 5 512 l && flt (exec (.launchCompletion 5 512) s)) = true := by decide +kernel
theorem witness_LaunchesEnterTheQueue_heldReport :
    (let s := modDie 5 (fun d => { d with claims := [(padA 0x200, ⟨5, 4, 0⟩)] }) (at40 (gang 17) [])
     nx (exec (.launch 10 8) s) (park .other s)) = true := by decide +kernel
theorem witness_LaunchesEnterTheQueue_cancelOwn :
    (let s := withThr running (setScalar 9 (handleOf 512 1 9) { running.thr with k := { running.thr.k with ctxid := 3 } })
     match launchOf s 1 s.thr.u.lid with
     | some l => decide (l.ctx.ctxid = 3) && nx (exec (.cancel 9) s)
         (park .other (modPkg 1 (fun p => { p with cancels := [(handleOf 512 1 9, 3)] }) s))
     | none => false) = true := by decide +kernel
/-- A save with nothing in progress, and its restore; a request that is out holds the save. -/
theorem witness_ContextsAreSavedAndRestored_waits :
    (let s := saving [(8, mva 0)]
     let out := withThr s { s.thr with v := { s.thr.v with vq := [newEntry s.thr (.vadd 1 2 3 0) none [] 0] } }
     saveReady s && ! saveReady out && nx (exec (.ctxsave 8) out) (park .other out)) = true := by decide +kernel
/-- The save's own stores are acknowledged: the word completes. -/
theorem witness_ContextsAreSavedAndRestored_saved :
    (let s := saving [(8, mva 0)]
     let s := withThr s { s.thr with saving := some 4 }
     nx (exec (.ctxsave 8) s) (advance (withThr s { s.thr with saving := none, k := { s.thr.k with saved := true, ksave := mva 0 } }))) = true := by
  decide +kernel
/-- `l1inv` on a host core clears its own lines of code alone. -/
theorem witness_CachesAndCommands_host :
    (let s := modPkg 1 (fun p => { p with hostCode := [(32 * 3 + 1, ⟨1, 0⟩), (32 * 3 + 2, ⟨1, 0⟩)] }) w0
     let s := withThr s { s.thr with host := true, place := ⟨5, 255, 2⟩ }
     let t := aft (exec .l1inv s)
     isHostPlace s.thr.place && decide ((pkgOf t 1).hostCode = [(32 * 3 + 1, ⟨1, 0⟩)])) = true := by decide +kernel

end Launches

/-! ## Collectives -/

namespace Collectives

/-- Communicator 1 of two dies: this one with its rank, its member map in its firmware region. -/
def cm (rank : BitVec 12) (peer : Nat) : Comm :=
  { Comm.reset with
    valid := true, chunk := 8, nmem := 1, rank := rank, map := BitVec.ofNat 64 (peer * 2 ^ 45 + 0x10000), iseq := 7, cseq := 7 }
def die6 (s : State) : State :=
  modDie 6 (fun d => { d with comms := nset d.comms 1 { cm 1 6 with iseq := 8 } }) s
/-- Members 5 and 6; a pinned page with 64 BF16 elements, 1.0 first; legal and illegal control words. -/
def S0 : State :=
  let s := page (5 * 2 ^ 45 + 0x90000) 0x37 [(8, 1), (9, mva 0x800), (10, 0x40000001), (11, 2), (12, 0x101), (13, 0x401)]
  let s := put 0 (5 * 2 ^ 45 + 0x10000) 4 (5 + 6 * 65536) (modDie 5 (fun d => { d with locked := true, comms := nset d.comms 1 (cm 0 5) }) s)
  let s := put 0 (5 * 2 ^ 45 + 0x90000) 128 ((List.range 64).foldl (fun n k => n + (0x3F80 + k) * 2 ^ (16 * k)) 0) s
  sh 5 (mkv (mva 0) 0x04 64 1 2 128) s
def dieView : ShapeReg := mkv (mva 0) 0x04 64 1 2 128

theorem witness_CollectivesArePosted_refused :
    (nx (exec (.car 5 10 9) S0) (takeTrap false 0x02 (failing (.car 5 10 9)) S0) &&
      nx (exec (.car 5 11 9) S0) (takeTrap false 0x12 (2 + 2 ^ 8) S0) && isNx (exec (.cbc 5 13 9) S0) &&
      nx (exec (.crs 5 13 9) S0) (takeTrap false 0x02 (failing (.crs 5 13 9)) S0)) = true := by decide +kernel
def psOf (r : EStateM.Result Stop State (List TlbEntry)) : List TlbEntry := match r with | .ok p _ => p | _ => []
def ctrOf (r : EStateM.Result Stop State (Option Phys)) : Option Phys := match r with | .ok p _ => p | _ => none
/-- The collective that the instruction posts, with its credits granted. -/
noncomputable def posted (k : CollKind) (i : Instr) (buf : Bool) (ctl ra : Word) : Bool :=
  let v : ShapeReg := if buf then dieView else 0
  let e := commOf (myDie S0) 1
  let r := bufferPages false (collSize v) ((List.range (viewCount v)).map (viewAddr v)) [] S0
  oldB S0 && (! buf || isOk r) && match exec i S0 with
  | .next t => (match (myDie t).colls with
    | [c] =>
      let c0 := { c with nextGrant := 0, granted := [], unacked := [] }
      decide (c.comm = 1 ∧ c.seq = 7 ∧ c.prio = (ctl.extractLsb' 8 2).toNat ∧ c.rank = 0 ∧ c.key = {
        kind := k, op := 0, wexp := 0, root := (ctl.extractLsb' 10 12).toNat, count := if buf then 64 else 0, fmt := shapeFmt v
        nmem := e.nmem.toNat, chunk := e.chunk.toNat, members := [5, 6] } ∧ c.owner = threadId S0.thr ∧ c.view = v ∧
        c.ctr = ctrOf (physOf (access .store false 8) ra S0) ∧ c.ctrVa = ra ∧ c.pages = (if buf then psOf r else []) ∧ c.next = 0 ∧ c.inst = S0.fresh ∧
        c.joined = [5] ∧ c.epoch = e.epoch ∧ c.vc = e.vc ∧ c.tenant = 0 ∧ c.keysel = 0 ∧ c.sources = [])
        && eqS t (advance (grantCredits 5 (modDie 5 (fun d => { d with
            comms := nset d.comms 1 { commOf d 1 with iseq := 8 }, colls := [c0] })
            { S0 with fresh := S0.fresh + 1, thr := { S0.thr with issued := S0.thr.issued + 1 } })))
    | _ => false)
  | _ => false
theorem witness_CollectivesArePosted_reduce : (posted .ar (.car 5 8 9) true 1 (mva 0x800) && posted .rs (.crs 5 12 0) true 0x101 0) = true := by
  decide +kernel
theorem witness_CollectivesArePosted_copy :
    (posted .ag (.cag 5 8 9) true 1 (mva 0x800) && posted .bc (.cbc 5 13 0) true 0x401 0) = true := by decide +kernel
theorem witness_CollectivesArePosted_barrier :
    (posted .bar (.cbar 8 9) false 1 (mva 0x800) && posted .barRt (.cbarRt 12 0) false 0x101 0) = true := by decide +kernel

/-- Sums of 1.5, 2.0 and 2^-70, in two orders, and the larger of two. -/
theorem witness_ReductionsDependOnlyOnTheSet :
    (let k : CollKey := { kind := .rs, op := 0, wexp := 0, root := 0, count := 32, fmt := 0x04, nmem := 2, chunk := 8, members := [] }
     let xs := [(0, 0x3FC0), (1, 0x4000), (2, 0x1C80)]
     let run (k : CollKey) (l : List (Nat × Nat)) := sumResult k (l.foldl (fun y x => addContribution k x.1 x.2 y) Sum.empty)
     decide (run k xs = (0x4060, 0) ∧ reduceSum k (xs.map Prod.snd) = (0x4060, 0) ∧ run k xs.reverse = run k xs) &&
       decide (fmtFp16 k.fmt = true ∧ (run { k with op := 1 } xs).1 = 0x4000 ∧ (run { k with op := 2 } xs).1 = 0x1C80) &&
       decide ((addContribution { k with op := 1 } 0 0x3FC0 Sum.empty).best = some 0x3FC0) &&
       contributionChecks k 0x3FC0 Sum.empty) = true := by decide +kernel

noncomputable def B (i : Instr) : State := aft (exec i S0)
/-- The engine's next chunk goes out: the ranks that its messages go to, and how each body begins. -/
noncomputable def sends (s : State) (to_ : List (Nat × Nat × Nat × Nat × Option Nat)) : Bool :=
  match nextChunk s 5 with
  | none => false
  | some c => match (firstChunks c)[c.next]? with
    | none => false
    | some i => firstReady s 5 c && ! noRoute s 5 c (chunkDests c i) && ! chunkRefused s c i && (match exec (.chunkSend 5) s with
      | .next t =>
        let ms := t.messages.drop s.messages.length
        sameMem s t && ms.all (fun m => decide (m.src = 5 ∧ m.fromRank = 0 ∧ m.comm = 1 ∧ m.seq = 7 ∧ m.key = c.key ∧ m.far = none ∧
            m.dst = 5 + m.toRank)) &&
          decide ((dieOf t 5).colls.map (fun x => (x.seq, x.next)) = [(7, c.next + 1)]) &&
          decide (ms.map (fun m => match m.body with
            | .contribution ch first codes => (m.toRank, ch, first, codes.length, codes.head?)
            | .result first codes _ _ => (m.toRank, 0, first, codes.length, codes.head?)
            | .arrival => (m.toRank, 0, 0, 0, none)
            | _ => (m.toRank, 9, 9, 9, none)) = to_)
      | _ => false)
/-- A copy of a small buffer of raw bytes, four apart. -/
noncomputable def small (i : Instr) : State := aft (exec i (sh 5 (mkv (mva 0) 0x00 8 1 4 64) S0))
theorem witness_CollectivesMoveAndEnd_copy :
    (sends (small (.cag 5 8 9)) [(1, 0, 0, 4, some 0x80)] && sends (small (.cbc 5 8 0)) [(1, 0, 0, 8, some 0x80)]) = true := by
  decide +kernel
theorem witness_CollectivesMoveAndEnd_barrierSend : sends (B (.cbar 8 0)) [(0, 0, 0, 0, none)] = true := by decide +kernel
/-- An all-reduce with the credits of both owners. -/
noncomputable def credited : State :=
  modDie 5 (fun d => { d with colls := d.colls.map fun x => { x with credits := [(0, 0), (1, 0)] } }) (B (.car 5 8 9))
theorem witness_CollectivesMoveAndEnd_reduce :
    sends credited [(0, 0, 0, 32, some 0x3F80), (1, 0, 32, 32, some 0x3FA0)] = true := by decide +kernel
/-- A member of another pod without a route: cause 5. A result of an all-reduce goes to the other rank. -/
def failedB (comm : Nat) (seq : BitVec 32) (cause : Nat) (s t : State) : Bool :=
  (commOf (dieOf t 5) comm).err &&
    decide ((dieOf t 5).colls = (dieOf s 5).colls.filter fun c => ! (c.comm == comm && decide ((c.seq - seq).toNat < 2 ^ 31))) &&
    ((dieOf s 5).colls.all fun c => ! (c.comm == comm && c.seq == seq) || (dieOf t 5).collFailures.any fun f =>
      decide (f.owner = c.owner ∧ f.ctrVa = c.ctrVa ∧ f.val = BitVec.ofNat 64 (comm + cause * 2 ^ 8 + seq.toNat * 2 ^ 32)))
theorem witness_CollectivesMoveAndEnd_noRoute :
    (let s := modDie 5 (fun d => { d with colls := d.colls.map fun x => { x with key := { x.key with members := [5, 0x1006] } } }) (B (.cbc 5 8 0))
     match nextChunk s 5 with
     | some c => firstReady s 5 c && noRoute s 5 c (chunkDests c 0) && failedB 1 7 5 s (aft (exec (.chunkSend 5) s)) &&
         isNx (exec (.chunkSend 5) s)
     | none => false) = true := by decide +kernel
theorem witness_CollectivesMoveAndEnd_results :
    (let s := modDie 5 (fun d => { d with colls := d.colls.map fun x => { x with next := 2, results := [(0, [1, 2], 3)] } }) credited
     match nextChunk s 5, exec (.chunkSend 5) s with
     | some c, .next t => ! firstReady s 5 c && ! noRoute s 5 c [1] && decide ((t.messages.drop s.messages.length).map
         (fun m => (m.toRank, m.dst, m.body)) = [(1, 6, .result 0 [1, 2] [] 3)])
     | _, _ => false) = true := by decide +kernel

/-- A message for rank 0, at the router of its die. -/
def msg (key : CollKey) (body : CollBody) : CollMsg :=
  { id := 99, src := 6, dst := 5, route := { Route.start 1 1 0 90 with port := 2 }, far := none, inbound := false, frames := [], sent := 0
    sunk := false, comm := 1, seq := 7, inst := S0.fresh, tenant := 0, key := key, fromRank := 1, toRank := 0, body := body }
def keyOf (s : State) : CollKey := match (dieOf s 5).colls with | c :: _ => c.key | [] => ⟨.bar, 0, 0, 0, 0, 0, 0, 0, []⟩
def having (body : CollBody) (s : State) : State := { s with messages := [msg (keyOf s) body] }
def meets (s : State) : Bool :=
  match messageAt s 99 with
  | some m => ! m.sunk && canAccept s (messageItem m) && (match findColl (dieOf s 5) S0.fresh with
    | some c => decide (c.key = m.key ∧ c.rank = m.toRank) && collActive (dieOf s 5) c
    | none => false)
  | none => false
/-- After the message: memory, the die's collectives and what is answered. -/
def after (o : Outcome State Fault Refusal) (s mem : State) (acked : Bool) (f : Coll → Coll) : Bool :=
  meets s && match o with
  | .next t => sameMem mem t && decide ((dieOf t 5).colls.map (fun x => { x with nextGrant := 0, granted := [], unacked := [], sums := [] })
      = (dieOf s 5).colls.map fun x => { f x with nextGrant := 0, granted := [], unacked := [], sums := [] }) &&
      (if acked then decide (((t.messages.find? (fun m => m.id == 99)).map fun m => (m.src, m.dst, m.body)) = some (5, 6, .ack))
       else (t.messages.find? (fun m => m.id == 99)).isNone)
  | _ => false

theorem witness_CollectivesMoveAndEnd_contribution :
    (let s := having (.contribution 0 0 (List.replicate 32 0x3F80)) credited
     match findColl (dieOf s 5) S0.fresh with
     | none => false
     | some c =>
     let one := addCodes c.key 1 0 (List.replicate 32 0x3F80) c.sums
     ! partFull c.key one (part c 0 0) && after (exec (.contributionArrival 99) s) s s true id &&
       decide ((findColl (dieOf (aft (exec (.contributionArrival 99) s)) 5) S0.fresh).map (·.sums) = some one)) = true := by decide +kernel
/-- With rank 0's own 1.0 already there, the shard is 2.0. -/
theorem witness_CollectivesMoveAndEnd_full :
    (let s := having (.contribution 0 0 (List.replicate 32 0x3F80)) credited
     let s := modDie 5 (fun d => { d with colls := d.colls.map fun c => { c with
       sums := addCodes c.key 0 0 (List.replicate 32 0x3F80) c.sums } }) s
     match findColl (dieOf s 5) S0.fresh with
     | none => false
     | some c =>
     partFull c.key (addCodes c.key 1 0 (List.replicate 32 0x3F80) c.sums) (part c 0 0) &&
       after (exec (.contributionArrival 99) s) s (writeReduced c 0 (List.replicate 32 0x4000) s) true (fun x => { x with
         written := 32, results := [(0, List.replicate 32 0x4000, 0)] }) &&
       decide (memRead (aft (exec (.contributionArrival 99) s)) 0 (5 * 2 ^ 45 + 0x90000) 2 = 0x4000)) = true := by decide +kernel
theorem witness_CollectivesMoveAndEnd_residue :
    (let s := having (.contribution 0 0 [0x3F80]) { credited with turn := { S0.turn with residue := 2 } }
     meets s && isNx (exec (.contributionArrival 99) s) && failedB 1 7 4 s (aft (exec (.contributionArrival 99) s))) = true := by
  decide +kernel
theorem witness_CollectivesMoveAndEnd_result :
    (let s := having (.result 32 [0x4040, 0x4080] [⟨4, 127, 0, 0⟩, ⟨4, 127, 0, 2⟩] 0) (B (.cag 5 8 9))
     match findColl (dieOf s 5) S0.fresh with
     | none => false
     | some c =>
     after (exec (.resultDataArrival 99) s) s (writeCopied c 32 [0x4040, 0x4080] [⟨4, 127, 0, 0⟩, ⟨4, 127, 0, 2⟩] s) true
       (fun x => { x with written := 2, sources := landedSources c 32 [0x4040, 0x4080] [⟨4, 127, 0, 0⟩, ⟨4, 127, 0, 2⟩] })) = true := by decide +kernel
theorem witness_CollectivesMoveAndEnd_credit :
    (let s := having (.credit 0) (B (.car 5 8 9))
     after (exec (.creditGrant 99) s) s s false (fun x => { x with credits := [(1, 0)] })) = true := by decide +kernel
theorem witness_CollectivesMoveAndEnd_barrier :
    ((let s := having .arrival (B (.cbar 8 9))
      after (exec (.barrierMessage 99) s) s s true (fun x => { x with arrived := [1] })) &&
     (let s := having .release (B (.cbar 8 9))
      after (exec (.barrierMessage 99) s) s s true (fun x => { x with released := true }))) = true := by decide +kernel
theorem witness_CollectivesMoveAndEnd_disagreement :
    (let s := { B (.car 5 8 9) with messages := [msg ⟨.bar, 0, 0, 0, 0, 0, 1, 8, [5, 6]⟩ .arrival] }
     let u := { B (.car 5 8 9) with messages := [msg ⟨.bar, 0, 0, 0, 0, 0, 1, 8, [5, 6]⟩ (.contribution 0 0 [1])] }
     canAccept s (messageItem (msg ⟨.bar, 0, 0, 0, 0, 0, 1, 8, [5, 6]⟩ .arrival)) &&
       failedB 1 7 2 s (aft (exec (.barrierMessage 99) s)) && failedB 1 7 2 u (aft (exec (.contributionArrival 99) u))) = true := by decide +kernel
/-- Before its collective is posted, a message leaves the fabric and waits; once posted, it is taken from there. -/
theorem witness_CollectivesMoveAndEnd_waits :
    (let k := keyOf (B (.cbar 8 9))
     let s := { S0 with messages := [msg k .arrival] }
     (match exec (.barrierMessage 99) s with
      | .next t => sameMem s t && eqT t.thr s.thr && decide (t.messages = [{ msg k .arrival with sunk := true }]) &&
          decide ((dieOf t 5).colls = [])
      | _ => false) &&
     (let s := { B (.cbar 8 9) with messages := [{ msg k .arrival with sunk := true }] }
      decide (((findColl (dieOf (aft (exec (.barrierMessage 99) s)) 5) S0.fresh).map (·.arrived)) = some [1]))) = true := by decide +kernel
theorem witness_CollectivesMoveAndEnd_failure :
    (let s := having (.failure 5) (B (.car 5 8 9))
     sameMem s (aft (exec (.collectiveFailureMessage 99) s)) && failedB 1 7 5 s (aft (exec (.collectiveFailureMessage 99) s))) = true := by
  decide +kernel
theorem witness_CollectivesMoveAndEnd_acknowledgement :
    (let s := having .ack (B (.cbar 8 9))
     let s := modDie 5 (fun d => { d with colls := d.colls.map fun x => { x with unacked := [98, 99] } }) s
     (match itemAt s 99 with | some x => responseHome s x | none => false) && (match exec (.acknowledgement 99) s with
      | .next t => sameMem s t && decide (t.messages = [] ∧ (dieOf t 5).colls.map (·.unacked) = [[98]])
      | _ => false)) = true := by decide +kernel
/-- The failure is delivered once, at the next collective instruction. -/
theorem witness_CollectivesArePosted_failure :
    (let s := aft (exec (.collectiveFailureMessage 99) (having (.failure 5) (B (.car 5 8 9))))
     match (dieOf s 5).collFailures with
     | [f] => decide (f.val = 1 + 5 * 2 ^ 8 + 7 * 2 ^ 32) &&
         nx (exec (.cbar 8 9) s) (takeTrap false 0x12 f.val (modDie 5 (fun d => { d with collFailures := [] }) s))
     | _ => false) = true := by decide +kernel

/-- A barrier that has been released and can complete. -/
noncomputable def done (i : Instr) (loaded : Bool) : State :=
  modDie 5 (fun d => { d with
    rtLoaded := loaded, colls := d.colls.map fun x => { x with joined := [5, 6], next := 3, released := true, arrived := [0, 1], unacked := [], flags := 3 } })
    (die6 (B i))
theorem witness_CollectivesMoveAndEnd_barrierEnd :
    (let s := done (.cbar 8 9) false
     match (dieOf s 5).colls.find? (fun x => x.comm == 1 && collDone s 5 x), exec (.collectiveCompletion 5 1) s with
     | some c, .next t => decide (c.ctr = some ⟨5 * 2 ^ 45 + 0x90800, 0⟩ ∧ (dieOf t 5).colls = [] ∧
         memRead t 0 (5 * 2 ^ 45 + 0x90800) 8 = 1 ∧ (commOf (dieOf t 5) 1).cseq = 8 ∧ t.thr.u.fflags = 3)
     | _, _ => false) = true := by decide +kernel
theorem witness_CollectivesMoveAndEnd_routes :
    ((let s := done (.cbarRt 8 0) true
      match exec (.collectiveCompletion 5 1) s with
      | .next t => decide ((dieOf t 5).colls = [] ∧ (dieOf t 5).rtsel = true ∧ (commOf (dieOf t 5) 1).cseq = 8) &&
          eqT t.thr { s.thr with u := { s.thr.u with fflags := 3 } } && sameMem s t
      | _ => false) &&
     (let s := done (.cbarRt 8 0) false
      match exec (.collectiveCompletion 5 1) s with
      | .next t => failedB 1 7 5 s t && decide ((dieOf t 5).rtsel = false)
      | _ => false)) = true := by decide +kernel
/-- A message to another pod with two frames out, the first lost so often. -/
noncomputable def frames (lost time : Nat) (fs : List Frame) : State :=
  let s := B (.cbar 8 9)
  { s with
    time := time
    messages := [{ msg (keyOf s) .arrival with src := 5, dst := 6, far := some ⟨2, 1, 1, 2⟩, frames := ⟨lost, 100⟩ :: fs }] }
theorem witness_CollectivesMoveAndEnd_frames :
    (let got (s : State) : List (Nat × Nat) := s.messages.flatMap fun m => m.frames.map fun f => (f.lost, f.sent)
     decide (portOf (frames 0 100 []) 1 2 = .live) && flt (exec (.frameResend 99) (frames 0 20099 [])) &&
     decide ((aft (exec (.frameAck 99) (frames 0 100 []))).messages = []) && isNx (exec (.frameAck 99) (frames 0 100 [])) &&
     decide (got (aft (exec (.frameAck 99) (frames 0 100 [⟨3, 200⟩]))) = [(3, 200)]) &&
     decide (got (aft (exec (.frameResend 99) (frames 6 20100 [⟨3, 200⟩]))) = [(7, 20100), (3, 200)]) &&
     failedB 1 7 6 (frames 7 20100 []) (aft (exec (.frameResend 99) (frames 7 20100 [])))) = true := by decide +kernel

/-- A bit-plane buffer of less than a group is refused as *format fault* with its base (R86). -/
theorem witness_CollectivesArePosted_planes :
    (let s := sh 5 (mkv (mva 0) 0x28 64 1 1 64) S0
     nx (exec (.cag 5 8 0) s) (takeTrap false 0x0A (mva 0) s)) = true := by decide +kernel
/-- The second die of a communicator posts the instance that the first has posted; one posted with other settings is another's. -/
theorem witness_CollectivesArePosted_instance :
    (match (dieOf (B (.cbar 8 0)) 5).colls with
     | [c] =>
       let s := modDie 5 (fun d => { d with colls := [{ c with rank := 1 }] }) (modDie 6 (fun d => { d with colls := [{ c with inst := 77, joined := [6] }] }) S0)
       (match instanceOf s 5 c with
        | some x => decide (x.inst = 77) &&
            (let t := joinColl 5 { c with inst := 77, joined := [6] } s
             decide ((dieOf t 6).colls.map (·.joined) = [[6, 5]] ∧ ((dieOf t 5).colls.map (·.joined)) = [[5], [6, 5]]))
        | none => false)
     | _ => false) = true := by decide +kernel
/-- The key slot of the buffer is erased: the engine's access ends the context. -/
theorem witness_CollectivesMoveAndEnd_erased :
    (let s := modPkg 1 (fun p => { p with erased := [0] }) (B (.cbc 5 8 0))
     match nextChunk s 5 with
     | some c => (collErased s c).isSome && (match exec (.chunkSend 5) s with
         | .next t => sameMem s t && decide ((dieOf t 5).colls = [])
         | _ => false)
     | none => false) = true := by decide +kernel
/-- What is received for a collective of a communicator that was made valid anew fails the old one, and leaves the new one sound (R325). -/
theorem witness_CollectivesMoveAndEnd_oldEpoch :
    (let s := modDie 5 (fun d => { d with comms := nset d.comms 1 { commOf d 1 with epoch := 9 } }) (having (.failure 5) (B (.car 5 8 9)))
     let t := aft (exec (.collectiveFailureMessage 99) s)
     ! (commOf (dieOf t 5) 1).err && decide ((dieOf t 5).colls = [] ∧ (dieOf t 5).collFailures.length = 1)) = true := by decide +kernel
/-- A message of the pod that nobody acknowledges ends the context of its collective. -/
theorem witness_TheFabricCarriesRequests_lostMessage :
    (let s0 := B (.cbar 8 0)
     let m := { msg (keyOf s0) .arrival with src := 5, dst := 6, sent := 50 }
     let s (t : Nat) : State := { s0 with messages := [m], time := t }
     flt (exec (.lostResponse 99) (s 4000049)) && (match exec (.lostResponse 99) (s 4000050) with
       | .next t => sameMem (s 0) t && decide ((dieOf t 5).colls = [] ∧ t.messages = [] ∧ t.thr.status = .ended) &&
           (pkgOf t 1).log.any fun x => decide (x.tick = 4000050 ∧ x.code = .fatal .lostResponse ∧ x.peer = 5)
       | _ => false)) = true := by decide +kernel

end Collectives

/-! ## Memory-mapped registers, the fabric, management -/

namespace Fabric

/-- Only one die may differ. -/
def onlyDie (peer : Nat) (s t : State) : Bool :=
  eqT t.thr s.thr && decide (t.spans = s.spans ∧ t.packets = s.packets ∧ t.messages = s.messages) && decide (t.pkgs = s.pkgs) && sameMem s t &&
    [4, 5, 6].all fun p => p == peer || decide (dieOf t p = dieOf s p)

theorem witness_MemoryMappedRegisters_simple :
    (nx (exec (.registerWrite (.mmio (fpaOf 5 191 3 0x238)) 77) w0) (modSpan 5 191 (fun x => { x with timers := vset x.timers 7 77 }) w0) &&
      ([0x10, 0x18, 0x20, 0x80000000, 0x80000008, 0x80000100, 0x80000108, 0x80002000, 0x80002008].all fun off =>
        nx (exec (.registerWrite (.mmio (fpaOf 5 192 3 off)) 77) w0) w0) &&
      ([0#64, 249, 250, 0x10001].all fun v => nx (exec (.detectWrite 5 v) w0) (modDie 5 (fun d => { d with
        td := if (v.extractLsb' 0 16).toNat < 250 then 250 else v.extractLsb' 0 16 }) w0)) &&
      ([99#64, 100, 1000000, 1000001].all fun v => nx (exec (.timeoutWrite 5 v) w0) (modDie 5 (fun d => { d with
        timeout := if v.toNat < 100 then 100 else if 1000000 < v.toNat then 1000000 else v.setWidth 20 }) w0))) = true := by decide +kernel
theorem witness_MemoryMappedRegisters_exports :
    (let s := modDie 5 (fun d => { d with exports := nset (nset d.exports 4095 (2 ^ 128 - 1)) 4094 7 }) w0
     [0, 4095].all fun x => [0, 1].all fun h => match exec (.registerWrite (.mmio (fpaOf 5 192 3 (0x10000 + 16 * x + 8 * h))) (BitVec.allOnes 64)) s with
      | .next t =>
        let old := (nget (dieOf s 5).exports x).getD 0
        let new := (nget (dieOf t 5).exports x).getD 0
        onlyDie 5 s t && decide (nget (dieOf t 5).exports 4094 = some 7) &&
          (if h = 0 then decide (new.extractLsb' 0 64 = 0x0000FFFF0001FFFF ∧ new.extractLsb' 64 64 = old.extractLsb' 64 64)
           else decide (new.extractLsb' 64 64 = 0xFFFFFFFF1FFFFFFF ∧ new.extractLsb' 0 64 = old.extractLsb' 0 64))
      | _ => false) = true := by decide +kernel
/-- Entry 63 of the communicator table, with its map at an address of the die, and a word 0. -/
def comm (valid err : Bool) (map : Nat) : State :=
  let c : Comm :=
    { Comm.reset with valid := valid, err := err, chunk := 9, map := BitVec.ofNat 64 (5 * 2 ^ 45 + map), iseq := 5, ctx := 3, epoch := 4 }
  modDie 5 (fun d => { d with comms := nset d.comms 63 c }) w0
def word0 (v err chunk nmem rank : Nat) : Word := BitVec.ofNat 64 (v + 2 * err + 4 * 3 + 32 * chunk + 1024 * nmem + 2 ^ 22 * rank)
noncomputable def written (valid err : Bool) (map : Nat) (v : Word) (fits : Bool) : Bool :=
  let s := comm valid err map
  let c := commOf (dieOf s 5) 63
  match exec (.communicatorWord0Write 5 63 v) s with
  | .next t =>
    let n : Comm := { c with
      valid := false, err := err && ! v.getLsbD 1, vc := v.extractLsb' 2 3, chunk := v.extractLsb' 5 5, nmem := v.extractLsb' 10 12
      rank := v.extractLsb' 22 12 }
    let new := commOf (dieOf t 5) 63
    onlyDie 5 s t && (if c.valid && v.getLsbD 0 then decide (new = { c with err := err && ! v.getLsbD 1 })
      else if ! v.getLsbD 0 then decide (new = n)
      else if fits then decide (new = { n with valid := true, iseq := 0, cseq := 0, epoch := 5 })
      else decide (new.valid = false))
  | _ => false
theorem witness_MemoryMappedRegisters_communicators :
    (written false true 0x10000 (word0 1 1 8 1 1) true && written false true 0x10000 (word0 1 0 20 4095 4095) true &&
      written false true 0x10000 (word0 1 1 7 1 1) false && written false true 0x10000 (word0 1 1 21 1 1) false &&
      written false true 0x10000 (word0 1 1 8 1 2) false && written false true 0x10020 (word0 1 1 8 1 1) false &&
      written false true (2 ^ 33) (word0 1 1 8 1 1) false && written true true 0x10000 (word0 1 1 8 1 1) false &&
      written true true 0x10000 (word0 0 0 8 1 1) false &&
      (let s := comm false false 0x10000
       let t := aft (exec (.registerWrite (.mmio (fpaOf 5 192 3 (0x20000 + 64 * 63 + 8)) ) 0x777) s)
       decide ((commOf (dieOf t 5) 63).map = 0x777))) = true := by decide +kernel

def slot (p o : Bool) : State := modSpan 5 3 (fun x => { x with hmsg := vset x.hmsg 2 { data := 5, pend := p, ovr := o, irq := false } }) w0
theorem witness_MemoryMappedRegisters_hmsg :
    (([(true, false), (false, false), (false, true)].all fun x =>
        nx (exec (.hmsgWrite 5 3 2 (2 ^ 63 + 9)) (slot x.1 x.2)) (modSpan 5 3 (fun y => { y with
          hmsg := vset y.hmsg 2 { data := 9, pend := true, ovr := x.2 || x.1, irq := true } }) w0) &&
        nx (exec (.hmsgRead 5 3 2) (slot x.1 x.2)) (slot false false)) &&
      nx (exec (.hmsgWrite 5 4 2 9) w0) w0) = true := by decide +kernel
/-- A thread saved from slot 2 of Span 4 keeps what is written for its slot. -/
theorem witness_MemoryMappedRegisters_saved :
    (let y : SavedThread := { tid := 1, area := 0, peer := 5, span := 4, slot := 2, poolcap := 64, bound := false, issued := 4, group := 6
                              msg := HostMsg.empty }
     let l : Launch := { gen := 1, order := 1, prio := 0, entry := 0, arg := 0, threads := 1, part := 0, place := 0, gang := false, tpsm := 0
                         dep := none, depTarget := 0, doneInc := 0, done := none, claim := none, ctx := ⟨0, 0, 0, 0, 0, 0, 0, 0⟩
                         held := false, next := 1, live := [], saved := [y], chosen := [], cancelled := false, failed := false, stopped := false }
     let s := modDie 5 (fun d => { d with queue := [(3, l)] }) w0
     let own (s : State) : State := modSpan 5 4 (fun x => { x with owners := vset x.owners 2 (some (handleOf 3 1 1, 1)) }) s
     let other (s : State) : State := modSpan 5 4 (fun x => { x with owners := vset x.owners 2 (some (handleOf 3 1 1, 2)) }) s
     nx (exec (.hmsgWrite 5 4 2 9) (own s)) (own (modDie 5 (fun d => { d with
       queue := [(3, { l with saved := [{ y with msg := { data := 9, pend := true, ovr := false, irq := true } }] })] }) w0)) &&
       nx (exec (.hmsgWrite 5 4 2 9) (other s)) (other s)) = true := by
  decide +kernel
def eventsFull : State :=
  modPkg 1 (fun p => { p with events := List.replicate 256 ⟨0, 5, 3, 2, 8⟩, eventsWaiting := [⟨1, 1, 1, 1, 1⟩] }) w0
theorem witness_MemoryMappedRegisters_events :
    (nx (exec (.devmsg 9) w0) (modPkg 1 (fun p => { p with events := [⟨0, 5, 3, 2, 9⟩] }) w0) &&
      nx (exec (.devmsg 9) eventsFull) (park .other eventsFull) && (match exec (.hevqd 1) eventsFull with
      | .next t => decide ((pkgOf t 1).events = List.replicate 255 ⟨0, 5, 3, 2, 8⟩ ++ [⟨1, 1, 1, 1, 1⟩] ∧ (pkgOf t 1).eventsWaiting = [])
      | _ => false)) = true := by decide +kernel
def tlbs : List TlbEntry := [⟨0x77, false, 0, 0x1⟩, ⟨0x78, false, 1, 0x101⟩, ⟨0x2077, true, 1, 0x1⟩]
def withTlb : State := modDie 5 (fun d => { d with tlb := tlbs }) (modSpan 5 3 (fun x => { x with utlb := tlbs }) w0)
/-- R380's reading of a value, on one entry. -/
def named (v : Word) (e : TlbEntry) : Bool :=
  (v.getLsbD 18 || e.ctx == v.extractLsb' 0 16 || v.getLsbD 17 && e.pte.getLsbD 8) && (v.getLsbD 17 || ! e.pte.getLsbD 8) &&
    (v.getLsbD 16 || (if e.large then decide (e.vpn / 2 ^ 13 = (v.extractLsb' 19 39).toNat / 2 ^ 13) else decide (e.vpn = (v.extractLsb' 19 39).toNat)))
theorem witness_MemoryMappedRegisters_tlbinv :
    (((List.range 8).all fun b => [0, 1].all fun c => [0x77, 0x2078].all fun vp =>
      let v := BitVec.ofNat 64 (c + b * 65536 + vp * 2 ^ 19)
      match exec (.tlbinv 5 v) withTlb with
      | .next t => decide ((dieOf t 5).tlb = tlbs.filter fun e => ! named v e) && decide ((spanOf t 5 3).utlb = tlbs.filter fun e => ! named v e) &&
          decide ((dieOf t 5).invals.map (fun x => (x.place, x.value)) = [(home, v)])
      | _ => false) &&
     (let s := modDie 5 (fun d => { d with invals := [⟨home, 5, [], [], [], []⟩] }) (withThr w0 { w0.thr with wait := some .inval })
      match exec (.invalidationComplete 5) s with
      | .next t => eqT t.thr w0.thr && sameMem s t && (match exec (.invalidationComplete 5) t with
        | .next u => sameMem t u && decide ((dieOf u 5).invals = [])
        | _ => false)
      | _ => false)) = true := by decide +kernel

/-- A store of die 5 (die 1 of package 1) to a scratchpad of a peer, at a place on its way. -/
def pkt (c : Cargo) (peer : Nat) (r : Route) : Packet :=
  { id := 7, owner := threadId t0, place := home, ctx := 0, age := 0, lo := 0x990000, len := 8, loc := ⟨fpaOf peer 3 0 64, 0⟩, agent := .scalar
    dest := none, elem := 0, sync := false, tenant := 0, page := [], cargo := c, sent := 50, route := r }
def way (node die : Nat) : Route := Route.start node die 8 0
def sent (p : Packet) : State := { w0 with packets := [p], fresh := 900 }
/-- The packet is elsewhere and nothing else has changed. -/
def moves (o : Outcome State Fault Refusal) (s : State) (r : Route) : Bool :=
  match o with
  | .next t => eqT t.thr s.thr && sameMem s t && decide (t.packets = s.packets.map fun p => { p with route := r })
  | _ => false

theorem witness_TheFabricCarriesRequests_hops :
    (let s := sent (pkt (.store 8 5) 9 (way 1 1))
     moves (exec (.packetHop 7 (.viaduct 4)) s) s { way 1 1 with die := 4, port := 1, seq := 900, hops := 1 } &&
     moves (exec (.packetHop 7 (.viaduct 2)) s) s { way 1 1 with die := 2, port := 1, seq := 900, hops := 1 } &&
     moves (exec (.packetHop 7 .blocked) s) s { way 1 1 with det := .watch 100 } &&
     (let s := sent (pkt (.store 8 5) 9 { way 1 1 with hops := 1 })
      flt (exec (.packetHop 7 (.viaduct 2)) s) && isNx (exec (.packetHop 7 (.viaduct 4)) s)) &&
     (let s := sent (pkt (.store 8 5) 9 { way 1 1 with drained := true })
      flt (exec (.packetHop 7 (.viaduct 4)) s))) = true := by decide +kernel
theorem witness_TheFabricCarriesRequests_planes :
    (let s := sent (pkt (.store 8 5) 9 (way 1 4))
     let onPlane (n pkgs : Nat) : Route := { way n 4 with port := 68, seq := 900, flight := some (63, 1), pkgs := pkgs, xpkg := true }
     planeUsable s 1 63 2 && moves (exec (.packetHop 7 (.plane 63 2)) s) s (onPlane 2 0) &&
       moves (exec (.packetHop 7 (.plane 63 1023)) s) s (onPlane 1023 1) && flt (exec (.packetHop 7 (.viaduct 2)) s) &&
       (let s := sent (pkt (.store 8 5) 9 (onPlane 2 0))
        moves (exec (.packetHop 7 .arrive) s) s { onPlane 2 0 with flight := none, seq := 900 }) &&
       (let s := sent (pkt (.store 8 5) 9 { onPlane 2 0 with lost := true })
        flt (exec (.packetHop 7 .arrive) s))) = true := by decide +kernel
/-- Behind the head of its input it does not move. -/
theorem witness_TheFabricCarriesRequests_behind :
    (let s := sent (pkt (.store 8 5) 9 { way 1 1 with seq := 5 })
     let s := { s with packets := s.packets ++ [{ pkt (.store 8 6) 9 (way 1 1) with id := 8 }] }
     flt (exec (.packetHop 7 (.viaduct 4)) s) && isNx (exec (.packetHop 8 (.viaduct 4)) s)) = true := by decide +kernel

/-- At the home, die 6; an export entry for everything of the thread's context there. -/
def atHome (c : Cargo) : Packet := pkt c 6 (way 1 2)
def exported (s : State) : State :=
  modDie 6 (fun d => { d with exports := [(0, BitVec.ofNat 128 (0x1000F + 2 ^ 64 * (fpaOf 6 3 0 0 % 2 ^ 45 / 65536) + 2 ^ 96))] }) s
def answered (o : Outcome State Fault Refusal) (mem : State) (c : Cargo) : Bool :=
  match o with
  | .next t => sameMem mem t && eqT t.thr w0.thr && decide (t.packets = [{ atHome c with route := Route.start 1 2 9 900 }])
  | _ => false
theorem witness_TheFabricCarriesRequests_home :
    (answered (exec (.requestAtHome 7) (sent (atHome (.store 8 5)))) (sent (atHome (.store 8 5))) (.fault .exportMiss) &&
     ([(Cargo.store 8 5, memWrite 0 (fpaOf 6 3 0 64) 8 5, Cargo.ack 0), (.load 8, id, .data { ValueOf (fpaOf 6 3 0 64) 7 with scale := 127 }),
        (.put 9 4 100, sectorWrite 0 (fpaOf 6 3 0 64 / 64) 9 4 100, .ack 0),
        (.atomic .add 3, memWrite 0 (fpaOf 6 3 0 64) 8 10, .ack 0), (.fetch (.swap 9), memWrite 0 (fpaOf 6 3 0 64) 8 9, .data (ValueOf (fpaOf 6 3 0 64) 7))].all
      fun x => let s := exported (put 0 (fpaOf 6 3 0 64) 8 7 (sent (atHome x.1)))
        (match requestKind x.1 with
         | some (k, n) => decide (targetFault s k 5 false 0 (fpaOf 6 3 0 64) n = none) && ! memoryBad s k (fpaOf 6 3 0 64) n
         | none => false) && answered (exec (.requestAtHome 7) s) (x.2.1 s) x.2.2)) = true := by decide +kernel
/-- Back at its issuer. -/
def back (c : Cargo) : Packet := pkt c 6 (Route.start 1 1 9 0)
theorem witness_TheFabricCarriesRequests_back :
    ((match exec (.acknowledgement 7) (sent (back (.ack 3))) with
      | .next t => sameMem w0 t && decide (t.packets = []) && eqT t.thr { w0.thr with u := { w0.thr.u with fflags := 3 } }
      | _ => false) &&
     (match exec (.acknowledgement 7) (sent (back (.data (ValueOf (fpaOf 6 3 0 64) 9)))) with
      | .next t => decide (t.packets = []) && eqT t.thr { w0.thr with replies := [ValueOf (fpaOf 6 3 0 64) 9] }
      | _ => false) &&
     (let s := sent { back (.data (ValueOf (fpaOf 6 3 0 64) 9)) with agent := .stream, dest := some ⟨3, 1, 32, false⟩ }
      decide (elem (aft (exec (.acknowledgement 7) s)).thr 32 3 1 = 9))) = true := by decide +kernel
/-- The context of the source has ended, for a cause. -/
def ended (c : FatalCause) (s t : State) (target : Nat) : Bool :=
  let logged (n : Nat) : Bool := (pkgOf t n).log.any fun x =>
    decide (x.tick = s.time ∧ x.code = .fatal c ∧ x.peer = 5 ∧ x.data = [fatalNumber c, 0, target])
  sameMem s t && decide (t.thr.status = .ended ∧ t.packets = []) && logged 1 && (fpaNode target == 1 || logged (fpaNode target)) &&
    (pkgOf t 1).events.any fun e => decide (e.kind = 1 ∧ e.peer = 5 ∧ e.span = 3 ∧ e.slot = 2)
theorem witness_TheFabricCarriesRequests_ends :
    ((let s := sent (pkt (.fault .exportMiss) 9 (Route.start 1 1 9 0))
      ended .exportMiss s (aft (exec (.faultResponse 7) s)) (fpaOf 9 3 0 64)) &&
     (let s := { sent (atHome (.store 8 5)) with time := 4000050 }
      ended .lostResponse s (aft (exec (.lostResponse 7) s)) (fpaOf 6 3 0 64) && flt (exec (.lostResponse 7) { s with time := 4000049 }))) = true := by
  decide +kernel

theorem witness_TheFabricCarriesRequests_detectors :
    ((let r := { way 1 1 with det := .watch 100 }
      let s := sent (pkt (.store 8 5) 6 r)
      flt (exec (.detectTimeout 7) { s with time := 2099 }) && (let s := { s with time := 2100 }
        moves (exec (.detectTimeout 7) s) s { r with det := .flagged } && decide ((dieOf (aft (exec (.detectTimeout 7) s)) 5).flagCount = 1))) &&
     (let r := { way 1 4 with det := .watch 100 }
      let s := { sent (pkt (.store 8 5) 9 r) with time := 100000 }
      moves (exec (.detectTimeout 7) s) s { r with det := .flagged } && decide ((pkgOf (aft (exec (.detectTimeout 7) s)) 1).ioFlags = 1))) = true := by
  decide +kernel
/-- A flagged head at die 1 of package 1; the token of the package somewhere. -/
def flagged (xp : Bool) : State := sent (pkt (.store 8 5) 6 { way 1 1 with xpkg := xp, det := .flagged })
def token (pos : Nat) (h : Option Nat) (s : State) : State :=
  modPkg 1 (fun p => { p with tokens := [{ epoch := 0, pos := pos, held := h, visited := 0 }] }) s
theorem witness_TheFabricCarriesRequests_tokens :
    ((suspectAt (flagged false) 1 1 false).isSome && (let s := token 1 none (flagged false)
      moves (exec (.packageTokenVisit 1) s) s { way 1 1 with drained := true } &&
        decide ((pkgOf (aft (exec (.packageTokenVisit 1) s)) 1).tokens = [⟨0, 1, some 7, 0⟩])) &&
     (let s := token 4 none (flagged false)
      (suspectAt s 1 4 false).isNone && moves (exec (.packageTokenVisit 1) s) s { way 1 1 with det := .flagged } &&
        decide ((pkgOf (aft (exec (.packageTokenVisit 1) s)) 1).tokens = [⟨0, 0, none, 0⟩])) &&
     (let s := token 1 none (modDie 5 (fun d => { d with reservePkg := { d.reservePkg with credit := some 9 } }) (flagged false))
      decide ((pkgOf (aft (exec (.packageTokenVisit 1) s)) 1).tokens = [⟨0, 2, none, 0⟩])) &&
     flt (exec (.packageTokenVisit 1) (token 1 (some 7) (flagged false))) &&
     (let s := token 1 none (modDie 5 (fun d => { d with epoch := 1 }) w0)
      epochOlder 0 1 && decide ((pkgOf (aft (exec (.packageTokenVisit 1) s)) 1).tokens = []) && isNx (exec (.packageTokenVisit 1) s)) &&
     (let s := { flagged true with podTokens := [⟨0, 1, none, 0⟩] }
      moves (exec .podTokenVisit s) s { way 1 1 with xpkg := true, drained := true } &&
        decide ((aft (exec .podTokenVisit s)).podTokens = [⟨0, 1, some 7, 0⟩])) &&
     (let s := { w0 with podTokens := [⟨0, 1023, none, 0⟩] }
      decide ((aft (exec .podTokenVisit s)).podTokens = [⟨0, 0, none, 0⟩]))) = true := by decide +kernel
theorem witness_TheFabricCarriesRequests_sunk :
    (let s := token 1 (some 7) (sent (pkt (.store 8 5) 6 { way 1 1 with drained := true }))
     moves (exec (.suspectSunk 7) s) s { way 1 2 with drained := true, port := 1 } && (let t := aft (exec (.suspectSunk 7) s)
       decide ((dieOf t 6).reservePkg.request = some 7 ∧ (dieOf t 5).drainCount = 1 ∧ (pkgOf t 1).tokens = [⟨0, 2, none, 0⟩]) &&
         (pkgOf t 1).log.any fun x => decide (x.code = .drain ∧ x.tick = 100 ∧ x.peer = 5 ∧ x.data.take 4 = [1, 1, 8, 0])) &&
       flt (exec (.suspectSunk 7) (modDie 6 (fun d => { d with reservePkg := { d.reservePkg with request := some 1 } }) s))) = true := by
  decide +kernel
theorem witness_TheFabricCarriesRequests_reissue :
    (let s := { token 3 none w0 with time := 1000 }
     nx (exec (.packageTokenReissue 1) s) (modPkg 1 (fun p => { p with tokens := [⟨0, 3, none, 0⟩, ⟨1, 0, none, 1000⟩] }) s) &&
       flt (exec (.packageTokenReissue 1) { s with time := 999 }) && flt (exec .podTokenReissue s) &&
       (let s := { w0 with time := 20000000 }
        nx (exec .podTokenReissue s) { s with podTokens := s.podTokens ++ [⟨1, 0, none, 20000000⟩] })) = true := by decide +kernel
theorem witness_TheFabricCarriesRequests_planesStop :
    (match exec (.planeStopsDelivering 1 63 [2]) w0 with
     | .next t => (! planeUsable t 1 63 2) && (! planeUsable t 1 63 3) && planeUsable t 1 62 2 && (match exec (.stationBroughtBack 1 63) t with
       | .next u => planeUsable u 1 63 2 && sameMem t u
       | _ => false) && (pkgOf t 1).log.any fun x => decide (x.code = .link ∧ x.tick = 100)
     | _ => false) = true := by decide +kernel

/-- A command of the package, with its status word and counter in the scratchpad. -/
def cmd (op tg arg : Nat) (act : Bool) : Command :=
  { op := op, target := tg, zero := true, arg := BitVec.ofNat 64 arg, ctr := BitVec.ofNat 64 (padA 0x100), inc := 3
    stat := BitVec.ofNat 64 (padA 0x200), place := home, active := act }
def port (c : Command) (st : PortState) (time : Nat) : State :=
  modPkg 1 (fun p => { p with commands := [c], ports := nset p.ports c.target st }) { w0 with time := time }
def cends (o : Outcome State Fault Refusal) (c : Command) (s : State) (result state : Nat) (x : PortState) : Bool :=
  match o with
  | .next t => decide ((pkgOf t 1).commands = [] ∧ memRead t 0 (padA 0x200) 8 = result + 256 * state ∧ memRead t 0 (padA 0x100) 8 = 3 ∧
        t.dies = s.dies ∧ portOf t 1 c.target = x) && eqT t.thr s.thr &&
      (pkgOf t 1).events.any fun e => decide (e = ⟨2, 5, 3, 2, BitVec.ofNat 64 (result + state * 2 ^ 8 + c.op * 2 ^ 16 + c.target * 2 ^ 24)⟩)
  | _ => false
theorem witness_CommandsAndPorts_begin :
    (let begins (c : Command) (x : PortState) (s : State) : State := modPkg 1 (fun p => { p with
       ports := nset p.ports c.target x, commands := [{ c with active := true }] }) s
     let d := cmd 1 7 0 false
     let r := cmd 2 7 0 false
     nx (exec (.drain 1) (port d .live 100)) (begins d (.draining 100) (port d .live 100)) &&
       cends (exec (.drain 1) (port d (.dark 5) 100)) d (port d (.dark 5) 100) 1 2 (.dark 5) &&
       nx (exec (.retrain 1) (port r (.dark 5) 10005)) (begins r (.training 10005) (port r (.dark 5) 10005)) &&
       flt (exec (.retrain 1) (port r (.dark 5) 10004)) && cends (exec (.retrain 1) (port r .live 100)) r (port r .live 100) 1 0 .live) = true := by
  decide +kernel
theorem witness_CommandsAndPorts_query :
    ([(4, 7, 0, 3), (0, 7, 1, 3), (255, 7, 1, 3)].all fun x => let c := cmd x.1 x.2.1 0 false
      cends (exec (.query 1) (port c (.training 5) 100)) c (port c (.training 5) 100) x.2.2.1 x.2.2.2 (.training 5)) = true := by decide +kernel
theorem witness_CommandsAndPorts_drained :
    (let c := cmd 1 7 0 true
     let s (t : Nat) := port c (.draining 5) t
     let f (t : Nat) : State := { s t with messages := [{ id := 99, src := 5, dst := 6, route := way 1 4, far := some ⟨7, 1, 1, 2⟩, inbound := false
                                                          frames := [⟨0, 50⟩], sent := 0, sunk := false, comm := 1, seq := 7, inst := 1, tenant := 0
                                                          key := ⟨.bar, 0, 0, 0, 0, 0, 1, 8, [5, 6]⟩, fromRank := 1, toRank := 0, body := .arrival }] }
     cends (exec (.portDrained 1 7) (s 100)) c (s 100) 0 2 (.dark 100) && flt (exec (.portDrained 1 7) (f 100)) &&
       flt (exec (.drainTimeout 1 7) (f 100004)) && cends (exec (.drainTimeout 1 7) (f 100005)) c (f 100005) 2 2 (.dark 100005)) = true := by
  decide +kernel
theorem witness_CommandsAndPorts_training :
    (let c := cmd 2 7 0x1234567 true
     let s (t : Nat) := port c (.training 5) t
     let v (t : Nat) := port c (.verify 5) t
     nx (exec (.trainingSuccess 1 7) (s 100)) (modPkg 1 (fun p => { p with ports := nset p.ports 7 (.verify 100) }) (s 100)) &&
       flt (exec (.trainingTimeout 1 7) (s 50000004)) && flt (exec (.trainingSuccess 1 7) (s 50000005)) &&
       cends (exec (.trainingTimeout 1 7) (s 50000005)) c (s 50000005) 3 2 (.dark 50000005) &&
       cends (exec (.verifyResult 1 7 0x1234567) (v 1000005)) c (v 1000005) 0 0 .live &&
       cends (exec (.verifyResult 1 7 0x1234567) (v 1000006)) c (v 1000006) 4 2 (.dark 1000006) &&
       cends (exec (.verifyResult 1 7 0x1234568) (v 100)) c (v 100) 4 2 (.dark 100)) = true := by decide +kernel
theorem witness_CommandsAndPorts_refused :
    (let c := { cmd 3 1 0 false with arg := BitVec.ofNat 64 (padA 4) }
     let s := port c .live 100
     match exec (.loadrt 1) s with
     | .next t => decide ((pkgOf t 1).commands = [] ∧ memRead t 0 (padA 0x200) 8 = 1 ∧ memRead t 0 (padA 0x100) 8 = 3 ∧ t.dies = s.dies)
     | _ => false) = true := by decide +kernel

/-- Firmware of two versions, signed or not, and a fuse count. -/
def image (version : Nat) (signed : Bool) : FwImage := { firstImage with version := BitVec.ofNat _ version, signed := signed }
def slots (a b : Nat) (sa sb : Bool) (f : Nat) : State :=
  modPkg 1 (fun p => { p with slotA := image a sa, slotB := image b sb, fuses := f }) (put 0 (padA 0x40) 8 5 w0)
noncomputable def boots (s : State) (boot : BootStage) (b : Bool) : Bool :=
  match exec (.packageReset 1) s with
  | .next t => decide (t.thr.status ≠ .running ∧ memRead t 0 (padA 0x40) 8 = 0 ∧ (pkgOf t 1).boot = boot ∧
      (boot = .heldInReset ∨ (pkgOf t 1).bootedB = b) ∧ (pkgOf t 1).keys = [] ∧ (pkgOf t 1).fuses = (pkgOf s 1).fuses ∧ t.time = s.time)
  | _ => false
theorem witness_ThePackageBootsAndIsManaged_reset :
    (boots (slots 1 2 true true 0) (.locking 100) true && boots (slots 1 2 true false 0) (.locking 100) false &&
      boots (slots 1 2 true true 3) .heldInReset true) = true := by decide +kernel
theorem witness_ThePackageBootsAndIsManaged_lock :
    (let s := modPkg 1 (fun p => { p with boot := .locking 100 }) w0
     nx (exec (.wavelengthLock 5) s) (modDie 5 (fun d => { d with locked := true, ramp := some 100 }) s) &&
       flt (exec (.wavelengthLock 5) { s with time := 50000100 }) && flt (exec (.wavelengthLockTimeout 5) { s with time := 50000099 }) && (match exec (.wavelengthLockTimeout 5) { s with time := 50000100 } with
       | .next t => decide ((dieOf t 5).excluded = true ∧ (spanOf t 5 191).poolcap = 0) &&
           ((pkgOf t 1).log.any fun x => decide (x.code = .boot ∧ x.peer = 5 ∧ x.data = [2]))
       | _ => false)) = true := by decide +kernel
theorem witness_ThePackageBootsAndIsManaged_services :
    (let s := modPkg 1 (fun p => { p with boot := .locking 100, bootedB := true, slotB := image 9 true }) w0
     decide ((pkgOf (aft (exec (.fuseBlow 1) s)) 1).fuses = 9 ∧
       (pkgOf (aft (exec (.firmwareUpdate 1 (image 64 false)) s)) 1).slotA = image 64 false) &&
       (match exec (.keySlotLoad 1 ⟨1023, 5⟩) s with
        | .next t => decide (nget (pkgOf t 1).keys 1023 = some 5) && (match exec (.keySlotErase 1 1023) t with
          | .next u => decide (1023 ∈ (pkgOf u 1).erased ∧ nget (pkgOf u 1).keys 1023 = none)
          | _ => false)
        | _ => false) && flt (exec (.keySlotLoad 1 ⟨0, 5⟩) s)) = true := by decide +kernel
theorem witness_ThePackageBootsAndIsManaged_sensors :
    (let s (hold : Bool) (clock tick : Nat) : State := modDie 5 (fun d => { d with
       hold := hold, clock := clock, sample := some { tick := 90, rails := [], piers := [] } }) { w0 with time := tick }
     let piers (t : Nat) : List PierReading := ⟨800, t⟩ :: List.replicate 11 ⟨800, 40⟩
     ([(false, 2000, 801, 40, 1900), (false, 2000, 760, 40, 2000), (false, 2000, 759, 40, 2100), (false, 2100, 1, 40, 2100),
        (false, 1250, 900, 40, 1200), (false, 2100, 1, 106, 1200), (true, 1200, 1, 100, 1200), (true, 1200, 1, 99, 1300)].all fun x =>
       match exec (.sensorSample 5 [x.2.2.1, 0] (piers x.2.2.2.1)) (s x.1 x.2.1 10090) with
       | .next t => decide ((dieOf t 5).clock = x.2.2.2.2)
       | _ => false) && flt (exec (.sensorSample 5 [1] (piers 1)) (s false 1200 10089))) = true := by decide +kernel
theorem witness_ThePackageBootsAndIsManaged_period :
    (let s := modDie 5 (fun d => { d with used := [(3, 64)] }) { w0 with time := 1999 }
     nx (exec .budgetPeriod s) (modDie 5 (fun d => { d with used := [] }) { s with period := 1000 }) && flt (exec .budgetPeriod { s with time := 999 })) = true := by decide +kernel

/-- A memory error of the home is answered with a fault, and under an erased key slot so is every request. -/
theorem witness_TheFabricCarriesRequests_error :
    (let s := exported (sent (atHome (.load 8)))
     let s := { s with turn := { s.turn with memError := true } }
     answered (exec (.requestAtHome 7) s) s (.fault .memoryError) &&
     (let p := { atHome (.load 8) with loc := ⟨6 * 2 ^ 45 + 0x90000, 129⟩ }
      let s := modPkg 1 (fun x => { x with erased := [129] }) (sent p)
      keyErased s 129 p.loc.fpa && (match exec (.requestAtHome 7) s with
        | .next t => sameMem s t && decide (t.packets = [{ p with cargo := .fault .targetFault, route := Route.start 1 2 9 900 }])
        | _ => false))) = true := by decide +kernel
/-- Lines for a window and for an instruction cache, a part of a record, and the halves of a `claimt`. -/
theorem witness_TheFabricCarriesRequests_lines :
    (let a := fpaOf 6 3 0 64
     let s (c : Cargo) := exported (put 0 a 8 7 (sent (atHome c)))
     let after (c : Cargo) := aft (exec (.requestAtHome 7) (s c))
     answered (exec (.requestAtHome 7) (s (.line true))) (s (.line true)) (.data { ValueOf a 7 with scale := 127 }) &&
       decide ((dieOf (after (.line true)) 5).winFills = [⟨a / 64, 7, 0, 127, 0⟩]) &&
       answered (exec (.requestAtHome 7) (s (.code true))) (s (.code true)) (.data { ValueOf a 7 with scale := 127, code := true }) &&
       decide ((spanOf (after (.code true)) 5 3).icache = [(a / 64, ⟨7, 0⟩)] ∧ (spanOf (after (.code false)) 5 3).icache = []) &&
       decide (memRead (after (.part 8 5 (some ⟨3, 1⟩))) 0 a 8 = 5 ∧ (sectorOf (after (.part 8 5 (some ⟨3, 1⟩))) (a / 64)).record = some ⟨3, 1⟩) &&
       decide (((after (.part 8 5 none)).packets.map (·.cargo)) = [.ack 0]) &&
       answered (exec (.requestAtHome 7) (s .hold)) (s .hold) (.data (ValueOf a 7)) &&
       decide ((dieOf (after .hold) 6).claims = [(a, home)]) &&
       (let h (c : Cargo) := modDie 6 (fun d => { d with claims := [(a, home)] }) (s c)
        answered (exec (.requestAtHome 7) (h (.release none))) (h (.release none)) (.data (ValueOf a 0)) &&
          (match exec (.requestAtHome 7) (h (.release (some 9))) with
           | .next t => decide (memRead t 0 a 8 = 9 ∧ (dieOf t 6).claims = [])
           | _ => false))) = true := by decide +kernel
/-- A register of another die. -/
theorem witness_TheFabricCarriesRequests_register :
    (let a := fpaOf 6 3 3 0x208
     let p (c : Cargo) : Packet := { atHome c with loc := ⟨a, 0⟩ }
     let s (c : Cargo) := modDie 6 (fun d => { d with exports := [(0, BitVec.ofNat 128 (0x1000F + 2 ^ 64 * (a % 2 ^ 45 / 65536) + 2 ^ 96))] })
       (modSpan 6 3 (fun x => { x with timers := vset x.timers 1 9 }) (sent (p c)))
     let gives (c : Cargo) (v timer : Nat) : Bool := match exec (.requestAtHome 7) (s c) with
       | .next t => decide (t.packets = [{ p c with cargo := .data (ValueOf a v), route := Route.start 1 2 9 900 }]) &&
           decide ((vget (spanOf t 6 3).timers 1 0).toNat = timer)
       | _ => false
     gives (.reg 8 none) 9 9 && gives (.reg 8 (some 5)) 0 5) = true := by decide +kernel
/-- An atomic for a word that a `claimt` holds waits there, and goes on once it is free. -/
theorem witness_TheFabricCarriesRequests_waits :
    (let a := fpaOf 6 3 0 64
     let held (s : State) := modDie 6 (fun d => { d with claims := [(a - 8, ⟨6, 0, 0⟩)] }) s
     let p := atHome (.atomic .add 3)
     let w := { p with route := { p.route with waiting := true } }
     let s := held (exported (sent p))
     moves (exec (.requestAtHome 7) s) s w.route && flt (exec (.requestAtHome 7) (held (exported (sent w)))) &&
       answered (exec (.requestAtHome 7) (exported (sent w))) (memWrite 0 a 8 3 (exported (sent w))) (.ack 0)) = true := by decide +kernel
/-- The export table and the limit of a scratchpad: 4 tiles and 2 contexts of 64 units, of 16 KiB each. -/
theorem witness_TheFabricCarriesRequests_rights :
    (let a := fpaOf 6 3 0 64
     decide (targetFault w0 .load 5 false 0 a 8 = some .exportMiss ∧ targetFault w0 .load 5 true 0 a 8 = none ∧
       targetFault w0 .load 6 false 0 a 8 = none ∧ targetFault (exported w0) .load 5 false 0 a 8 = none ∧
       targetFault (exported w0) .load 5 false 1 a 8 = some .exportMiss) &&
     decide (targetFault (exported w0) .load 5 false 0 (fpaOf 6 3 0 65528) 8 = none ∧
       targetFault (exported w0) .load 5 false 0 (fpaOf 6 3 0 65529) 8 = some .exportMiss) &&
     (let s := modSpan 6 3 (fun x => { x with launch := some (1, 0x042) }) w0
      decide (targetFault s .load 5 true 0 (fpaOf 6 3 0 (40 * 16384 - 8)) 8 = none ∧
        targetFault s .load 5 true 0 (fpaOf 6 3 0 (40 * 16384 - 7)) 8 = some .targetFault ∧
        targetFault s .load 6 false 0 (fpaOf 6 3 0 (40 * 16384 - 7)) 8 = none))) = true := by decide +kernel
/-- An input in DRAIN watches no head; the token of a package is issued anew while it holds what is not sunk. -/
theorem witness_TheFabricCarriesRequests_drain :
    (let s := token 1 (some 8) (sent (pkt (.store 8 5) 9 (way 1 1)))
     let s := { s with packets := s.packets ++ [{ pkt (.store 8 6) 9 { way 1 1 with drained := true } with id := 8 }] }
     flt (exec (.packetHop 7 .blocked) s) && isNx (exec (.packetHop 7 (.viaduct 4)) s) &&
     (let s := { token 3 (some 8) w0 with time := 1000 }
      nx (exec (.packageTokenReissue 1) s) (modPkg 1 (fun p => { p with tokens := [⟨0, 3, some 8, 0⟩, ⟨1, 0, none, 1000⟩] }) s)) &&
     -- no plane of package 1 delivers
     (let s := modPkg 1 (fun p => { p with down := List.range 64 }) { w0 with podTokens := [⟨0, 1, none, 0⟩] }
      (List.range 64).all (fun pl => ! planeUsable s 1 pl 2) && flt (exec .podTokenVisit s))) = true := by decide +kernel
/-- Half a cycle at 2,000 MHz is left when the clock falls to 1,200 MHz: the other 750 ps of the tick are nine tenths of a cycle. -/
theorem witness_ThePackageBootsAndIsManaged_cycles :
    (let x : Span := { Span.reset with started := true, phase := 500, rate := 2000, cycle := 7 }
     decide (passCycles 1200 1 x = { x with phase := 900, rate := 1200, cycle := 8 }) &&
       decide (passCycles 2000 1 x = { x with phase := 500, cycle := 9 } ∧ passCycles 1200 1 { x with stopped := true } = { x with stopped := true }) &&
       decide (passCycles 1200 1 { x with rate := 400, phase := 0 } = { x with rate := 400, phase := 400 })) = true := by decide +kernel

end Fabric

/-! ## Contexts saved and restored -/

namespace Contexts

/-- A kernel thread that is not the last of its Span, with its save area in the scratchpad. -/
def saver : State :=
  let h := (t0.u.lid, 0x042#32)
  let s := kern (modSpan 5 3 (fun x => { x with launch := some h }) (user [(8, pad 0x10000)]))
  { s with others := [{ t0 with place := ⟨5, 3, 1⟩, u := { t0.u with tid := 0 } }] }
theorem witness_ContextsAreSavedAndRestored_save :
    (let w := heldResidue { saver with fresh := saver.fresh + 1 }
     saveReady saver && ! lastUnsaved saver && (match saveContext (pad 0x10000) w.fresh false w.thr w with
      | .ok _ u => eqT { u.thr with pages := w.thr.pages } w.thr
      | _ => false)) = true := by decide +kernel
/-- The same area with a saved context of the thread. -/
def savedArea : State :=
  match recordWrite 77 statePart (pad 0x10000) 512 saver with
  | .ok _ s => { s with vault := [(77, .context saver.thr 64 false [] [] [] [])] }
  | _ => saver
theorem witness_ContextsAreSavedAndRestored_refused :
    (nx (exec (.ctxrest 8) saver) (takeTrap false 0x02 (failing (.ctxrest 8)) saver)) = true := by decide +kernel
theorem witness_ContextsAreSavedAndRestored_restore :
    (let s := modSpan 5 3 (fun x => { x with led := true, poolcap := 64 }) savedArea
     (match contextAt (pad 0x10000) s.thr s with
      | .ok (some (.context c cap leader tags secs cells bsecs)) s2 => decide (cap ≤ (mySpan s2).poolcap ∧ c.u.part = s.thr.u.part) &&
          c.v.long.isNone && ! leader && eqT { s2.thr with pages := s.thr.pages } s.thr &&
          isOk (restoreContext (pad 0x10000) c leader tags secs cells bsecs s2)
      | _ => false)) = true := by decide +kernel

end Contexts

end Sys2Proof.Tests
end

section
/-! PROOFS. The ALU, ALU32 and immediate words (R114 to R120): the model's integer results are the formulas of the tables, each
word is one of the shared forms of `Operands` with its formula, and those forms complete. -/

namespace Sys2Proof.AluWords

open Sys2Proof.Machine Sys2Proof.Claims

/-! ## Comparisons, minima and maxima (R115) -/

theorem ofFlag_slt (a b : Word) : ofFlag (a.slt b) = if a.toInt < b.toInt then 1 else 0 := by
  simp [ofFlag, BitVec.slt_iff_toInt_lt]

theorem ofFlag_ult (a b : Word) : ofFlag (a.ult b) = if a.toNat < b.toNat then 1 else 0 := by
  simp [ofFlag, BitVec.ult_eq_decide]

theorem ite_slt_eq_ofInt_min {w : Nat} (a b : BitVec w) :
    (if a.slt b then a else b) = BitVec.ofInt w (min a.toInt b.toInt) := by
  simp only [BitVec.slt_eq_decide, min_def_lt, decide_eq_true_eq]
  split <;> exact BitVec.ofInt_toInt.symm

theorem ite_slt_eq_ofInt_max {w : Nat} (a b : BitVec w) :
    (if a.slt b then b else a) = BitVec.ofInt w (max a.toInt b.toInt) := by
  simp only [BitVec.slt_eq_decide, max_def_lt, decide_eq_true_eq]
  split <;> exact BitVec.ofInt_toInt.symm

theorem ite_ult_eq_ofNat_min {w : Nat} (a b : BitVec w) :
    (if a.ult b then a else b) = BitVec.ofNat w (min a.toNat b.toNat) := by
  simp only [BitVec.ult_eq_decide, min_def_lt, decide_eq_true_eq]
  split <;> rw [BitVec.ofNat_toNat, BitVec.setWidth_eq]

theorem ite_ult_eq_ofNat_max {w : Nat} (a b : BitVec w) :
    (if a.ult b then b else a) = BitVec.ofNat w (max a.toNat b.toNat) := by
  simp only [BitVec.ult_eq_decide, max_def_lt, decide_eq_true_eq]
  split <;> rw [BitVec.ofNat_toNat, BitVec.setWidth_eq]

/-! ## Shifts and rotations (R115, R117, R119): a count in a register is its low bits -/

theorem shiftLeft_mod {v w : Nat} (k : Nat) (a : BitVec v) (b : BitVec w) : a <<< (b.toNat % 2 ^ k) = a <<< b.setWidth k := by
  rw [BitVec.shiftLeft_eq', BitVec.toNat_setWidth]

theorem ushiftRight_mod {v w : Nat} (k : Nat) (a : BitVec v) (b : BitVec w) :
    a >>> (b.toNat % 2 ^ k) = a >>> b.setWidth k := by
  rw [BitVec.ushiftRight_eq', BitVec.toNat_setWidth]

/-- An arithmetic right shift divides by a power of two and rounds down. -/
theorem sshiftRight_eq_ofInt_div {w : Nat} (a : BitVec w) (n : Nat) :
    a.sshiftRight n = BitVec.ofInt w (a.toInt / (2 : Int) ^ n) := by
  rw [← BitVec.ofInt_toInt (x := a.sshiftRight n), BitVec.toInt_sshiftRight, Int.shiftRight_eq_div_pow]
  norm_cast

theorem sshiftRight_mod {v w : Nat} (k : Nat) (a : BitVec v) (b : BitVec w) :
    a.sshiftRight (b.toNat % 2 ^ k) = BitVec.ofInt v (a.toInt / (2 : Int) ^ (b.setWidth k).toNat) := by
  rw [sshiftRight_eq_ofInt_div, BitVec.toNat_setWidth]

theorem rotateLeft_of_lt {w n : Nat} (a : BitVec w) (h : n < w) : a.rotateLeft n = a <<< n ||| a >>> (w - n) := by
  rw [BitVec.rotateLeft_def, Nat.mod_eq_of_lt h]

theorem rotateRight_of_lt {w n : Nat} (a : BitVec w) (h : n < w) : a.rotateRight n = a >>> n ||| a <<< (w - n) := by
  rw [BitVec.rotateRight_def, Nat.mod_eq_of_lt h]

/-! ## High halves, quotients and remainders (R115 to R117) -/

theorem mulHighS_eq_extractLsb' (a b : Word) : mulHighS a b = (BitVec.ofInt 128 (a.toInt * b.toInt)).extractLsb' 64 64 := by
  unfold mulHighS
  generalize a.toInt * b.toInt = x
  apply BitVec.eq_of_toNat_eq
  simp only [BitVec.toNat_ofInt, BitVec.extractLsb'_toNat, Nat.shiftRight_eq_div_pow]
  omega

theorem mulHighU_eq_extractLsb' (a b : Word) : mulHighU a b = (BitVec.ofNat 128 (a.toNat * b.toNat)).extractLsb' 64 64 := by
  unfold mulHighU
  generalize a.toNat * b.toNat = x
  apply BitVec.eq_of_toNat_eq
  simp only [BitVec.toNat_ofNat, BitVec.extractLsb'_toNat, Nat.shiftRight_eq_div_pow]
  omega

/-- The one quotient with no representation, the most negative number over −1, wraps to the dividend (R116). -/
theorem ofInt_tdiv_of_overflow {w : Nat} {a b : BitVec w} (ha : a.toInt = -(2 : Int) ^ (w - 1)) (hb : b.toInt = -1) :
    BitVec.ofInt w (a.toInt.tdiv b.toInt) = a := by
  have hw : 0 < w := by
    rcases Nat.eq_zero_or_pos w with rfl | h
    · simp [BitVec.eq_nil b] at hb
    · exact h
  have hmin : a = BitVec.intMin w := BitVec.eq_of_toInt_eq (by rw [ha, BitVec.toInt_intMin_of_pos hw])
  calc BitVec.ofInt w (a.toInt.tdiv b.toInt) = -a := by
        rw [hb, Int.tdiv_neg, Int.tdiv_one, BitVec.ofInt_neg, BitVec.ofInt_toInt]
    _ = a := by rw [hmin, BitVec.neg_intMin]

theorem divS_eq_quot {w : Nat} (a b : BitVec w) : divS a b = quot w a b := by
  unfold divS quot
  split
  · exact (BitVec.ofInt_neg (n := 1)).symm
  · split
    · next h => exact ofInt_tdiv_of_overflow h.1 h.2
    · rfl

theorem remS_eq_remainder {w : Nat} (a b : BitVec w) : remS a b = remainder w a b := by
  unfold remS remainder
  rw [Int.tmod_def]
  split
  · rfl
  · split
    · next h => simp [h.2]
    · rfl

theorem divU_eq_uquot {w : Nat} (a b : BitVec w) : divU a b = uquot w a b := by
  rw [uquot, ← BitVec.neg_one_eq_allOnes]
  rfl

theorem remU_eq_uremainder {w : Nat} (a b : BitVec w) : remU a b = uremainder w a b := by
  rw [remU, uremainder, Nat.mod_eq_sub_mul_div]

/-- The 32-bit words take the low halves and sign-extend, whatever the operation between (R117). -/
theorem word32_eq_low32 {f g : BitVec 32 → BitVec 32 → BitVec 32} (h : ∀ x y, f x y = g x y) (a b : Word) :
    word32 f a b = low32 g a b := by
  rw [word32, low32, h]

/-! ## Counts of bits (R115) -/

theorem leadingZeros_eq_sub {w : Nat} (a : BitVec w) : leadingZeros a = w - (if a = 0 then 0 else a.toNat.log2 + 1) := by
  unfold leadingZeros
  split <;> omega

/-- Searching a range upwards stops after the elements that lack the sought property. -/
theorem find?_range'_getD (p : Nat → Bool) (s n : Nat) :
    ((List.range' s n).find? p).getD (s + n) = s + ((List.range' s n).takeWhile fun i => ! p i).length := by
  induction n generalizing s with
  | zero => rfl
  | succ n ih =>
    rw [List.range'_succ, List.find?_cons, List.takeWhile_cons]
    cases p s with
    | true => simp
    | false =>
      rw [show s + (n + 1) = s + 1 + n by omega]
      simp only [Bool.not_false, if_true, List.length_cons, ih]
      omega

theorem trailingZeros_eq_length {w : Nat} (a : BitVec w) :
    trailingZeros a = ((List.range w).takeWhile fun i => ! a.getLsbD i).length := by
  simpa [trailingZeros, List.range_eq_range'] using find?_range'_getD (fun i => a.getLsbD i) 0 w

theorem onesCount_eq_length {w : Nat} (a : BitVec w) : onesCount a = ((List.range w).filter fun i => a.getLsbD i).length :=
  List.countP_eq_length_filter

/-! ## The upper immediates (R40, R120) and the word's own address -/

theorem signExtend_append_zero {w : Nat} (k v : Nat) (x : BitVec w) :
    (x ++ 0#k).signExtend v = BitVec.ofInt v (x.toInt * (2 : Int) ^ k) := by
  rw [BitVec.signExtend, BitVec.toInt_append_zero, Int.mul_comm]

theorem ownPc_eq_wordAddress (t : Thread) : ownPc t = wordAddress t := by
  unfold ownPc wordAddress
  cases t.loop with
  | none => rfl
  | some l =>
    simp only [Option.isSome_some, if_true, BitVec.zeroExtend_eq_setWidth]
    rw [BitVec.mul_add, BitVec.add_comm _ (4 * 1), ← BitVec.add_assoc]
    rfl

/-! ## The operands as the statements speak of them (R42, R105, R114) -/

theorem readS_of_reads {f : BitVec 7} {s t : State} {v : Word} (h : Reads f s v t) : readS f s = .ok v t := by
  rcases h with ⟨hf, rfl, rfl⟩ | ⟨hf, rest, hq, rfl⟩
  · exact readS_reg hf _
  · exact readS_queue (Nat.not_lt.mpr hf) _ hq

theorem writeS_of_writes {f : BitVec 7} {s t : State} {v : Word} (h : Writes f v s t) : writeS f v s = .ok () t := by
  rcases h with ⟨hf, rfl⟩ | ⟨hf, hq, rfl⟩
  · exact writeS_reg hf _ _
  · exact writeS_queue (Nat.not_lt.mpr hf) _ _ hq

/-! ## What a word means: one of the shared forms, with the formula of its row -/

/-- The words of constructor `c` read two sources and write `f` of them. -/
def MeansBinary (c : BitVec 7 → BitVec 7 → BitVec 7 → Instr) (f : Word → Word → Word) : Prop :=
  ∀ rd ra rb s, exec (c rd ra rb) s = binaryOp (c rd ra rb) rd ra rb f s

/-- The words of constructor `c` read one source and write `f` of it. -/
def MeansUnary (c : BitVec 7 → BitVec 7 → Instr) (f : Word → Word) : Prop :=
  ∀ rd ra s, exec (c rd ra) s = unaryOp (c rd ra) rd ra f s

theorem MeansBinary.of_eq {c : BitVec 7 → BitVec 7 → BitVec 7 → Instr} {f g : Word → Word → Word}
    (hfg : ∀ a b, f a b = g a b) (h : MeansBinary c f) : MeansBinary c g := by
  obtain rfl : f = g := funext₂ hfg
  exact h

theorem MeansUnary.of_eq {c : BitVec 7 → BitVec 7 → Instr} {f g : Word → Word} (hfg : ∀ a, f a = g a)
    (h : MeansUnary c f) : MeansUnary c g := by
  obtain rfl : f = g := funext hfg
  exact h

theorem MeansBinary.exec_eq_advance {c : BitVec 7 → BitVec 7 → BitVec 7 → Instr} {f : Word → Word → Word}
    (h : MeansBinary c f) {rd ra rb : BitVec 7} {s s1 s2 s3 : State} {a b : Word} (hx : Executes (c rd ra rb) s)
    (hd : dstS rd = true) (hsa : srcS ra = true) (hsb : srcS rb = true) (ha : Reads ra s a s1) (hb : Reads rb s1 b s2)
    (hw : Writes rd (f a b) s2 s3) : exec (c rd ra rb) s = .next (advance s3) := by
  rw [h]
  exact binaryOp_ok hx (by simp [hd, hsa, hsb]) (readS_of_reads ha) (readS_of_reads hb) (writeS_of_writes hw)

theorem MeansUnary.exec_eq_advance {c : BitVec 7 → BitVec 7 → Instr} {f : Word → Word} (h : MeansUnary c f)
    {rd ra : BitVec 7} {s s1 s2 : State} {a : Word} (hx : Executes (c rd ra) s) (hd : dstS rd = true)
    (hsa : srcS ra = true) (ha : Reads ra s a s1) (hw : Writes rd (f a) s1 s2) :
    exec (c rd ra) s = .next (advance s2) := by
  rw [h]
  exact unaryOp_ok hx (by simp [hd, hsa]) (readS_of_reads ha) (writeS_of_writes hw)

/-! ## The tables (R115 to R119), row by row -/

theorem meansBinary_of_mem_binaryWords : ∀ p ∈ binaryWords, MeansBinary p.1 p.2 := by
  simp only [binaryWords, List.forall_mem_append, List.forall_mem_cons, List.not_mem_nil, false_implies, implies_true, and_true]
  refine ⟨⟨?add, ?sub, ?and, ?or, ?xor, ?andn, ?orn, ?sll, ?srl, ?sra, ?rol, ?ror, ?slt, ?sltu, ?min, ?max, ?minu, ?maxu⟩,
    ?mul, ?mulh, ?mulhu, ?div, ?divu, ?rem, ?remu, ?addw, ?subw, ?sllw, ?srlw, ?sraw, ?mulw, ?divw, ?divuw, ?remw, ?remuw⟩
  case add | sub | and | or | xor | andn | orn | addw | subw | mulw => exact fun _ _ _ _ => rfl
  case sll => exact .of_eq (shiftLeft_mod 6) fun _ _ _ _ => rfl
  case srl => exact .of_eq (ushiftRight_mod 6) fun _ _ _ _ => rfl
  case sra => exact .of_eq (sshiftRight_mod 6) fun _ _ _ _ => rfl
  case rol => exact .of_eq (fun a b => rotateLeft_of_lt a (Nat.mod_lt b.toNat (by decide))) fun _ _ _ _ => rfl
  case ror => exact .of_eq (fun a b => rotateRight_of_lt a (Nat.mod_lt b.toNat (by decide))) fun _ _ _ _ => rfl
  case slt => exact .of_eq ofFlag_slt fun _ _ _ _ => rfl
  case sltu => exact .of_eq ofFlag_ult fun _ _ _ _ => rfl
  case min => exact .of_eq ite_slt_eq_ofInt_min fun _ _ _ _ => rfl
  case max => exact .of_eq ite_slt_eq_ofInt_max fun _ _ _ _ => rfl
  case minu => exact .of_eq ite_ult_eq_ofNat_min fun _ _ _ _ => rfl
  case maxu => exact .of_eq ite_ult_eq_ofNat_max fun _ _ _ _ => rfl
  case mul => exact .of_eq (fun a b => by rw [BitVec.ofInt_mul, BitVec.ofInt_toInt, BitVec.ofInt_toInt]) fun _ _ _ _ => rfl
  case mulh => exact .of_eq mulHighS_eq_extractLsb' fun _ _ _ _ => rfl
  case mulhu => exact .of_eq mulHighU_eq_extractLsb' fun _ _ _ _ => rfl
  case div => exact .of_eq divS_eq_quot fun _ _ _ _ => rfl
  case divu => exact .of_eq divU_eq_uquot fun _ _ _ _ => rfl
  case rem => exact .of_eq remS_eq_remainder fun _ _ _ _ => rfl
  case remu => exact .of_eq remU_eq_uremainder fun _ _ _ _ => rfl
  case sllw => exact .of_eq (word32_eq_low32 (shiftLeft_mod 5)) fun _ _ _ _ => rfl
  case srlw => exact .of_eq (word32_eq_low32 (ushiftRight_mod 5)) fun _ _ _ _ => rfl
  case sraw => exact .of_eq (word32_eq_low32 (sshiftRight_mod 5)) fun _ _ _ _ => rfl
  case divw => exact .of_eq (word32_eq_low32 divS_eq_quot) fun _ _ _ _ => rfl
  case divuw => exact .of_eq (word32_eq_low32 divU_eq_uquot) fun _ _ _ _ => rfl
  case remw => exact .of_eq (word32_eq_low32 remS_eq_remainder) fun _ _ _ _ => rfl
  case remuw => exact .of_eq (word32_eq_low32 remU_eq_uremainder) fun _ _ _ _ => rfl

theorem meansUnary_of_mem_unaryWords : ∀ p ∈ unaryWords, MeansUnary p.1 p.2 := by
  simp only [unaryWords, List.forall_mem_cons, List.not_mem_nil, false_implies, implies_true, and_true]
  refine ⟨?clz, ?ctz, ?popc, ?sextb, ?sexth, ?sextw, ?zextw⟩
  case clz => exact .of_eq (fun a => congrArg _ (leadingZeros_eq_sub a)) fun _ _ _ => rfl
  case ctz => exact .of_eq (fun a => congrArg _ (trailingZeros_eq_length a)) fun _ _ _ => rfl
  case popc => exact .of_eq (fun a => congrArg _ (onesCount_eq_length a)) fun _ _ _ => rfl
  case sextb | sexth | sextw | zextw => exact fun _ _ _ => rfl

theorem meansUnary_of_mem_immediateWords :
    ∀ p ∈ immediateWords, ∀ imm, MeansUnary (p.1 · · imm) (p.2 · (imm.signExtend 64)) := by
  simp only [immediateWords, List.forall_mem_cons, List.not_mem_nil, false_implies, implies_true, and_true]
  refine ⟨?addi, ?andi, ?ori, ?xori, ?slti⟩
  case addi | andi | ori | xori => exact fun _ _ _ _ => rfl
  case slti => exact fun _ => .of_eq (fun a => ofFlag_slt a _) fun _ _ _ => rfl

theorem meansUnary_of_mem_shiftWords : ∀ p ∈ shiftWords, ∀ n, MeansUnary (p.1 · · n) (p.2 · n) := by
  simp only [shiftWords, List.forall_mem_cons, List.not_mem_nil, false_implies, implies_true, and_true]
  refine ⟨?slli, ?srli, ?srai, ?rori⟩
  case slli | srli => exact fun _ _ _ _ => rfl
  case srai => exact fun n => .of_eq (fun a => sshiftRight_eq_ofInt_div a n.toNat) fun _ _ _ => rfl
  case rori => exact fun n => .of_eq (fun a => rotateRight_of_lt a n.isLt) fun _ _ _ => rfl

/-! ## The statement -/

theorem exec_lui {rd : BitVec 7} {imm : BitVec 19} {s s1 : State} (hx : Executes (.lui rd imm) s) (hd : dstS rd = true)
    (hw : Writes rd (BitVec.ofInt 64 (imm.toInt * 2 ^ 13)) s s1) : exec (.lui rd imm) s = .next (advance s1) := by
  rw [← signExtend_append_zero] at hw
  exact scalarOp_ok hx hd (writeS_of_writes hw)

theorem exec_auipc {rd : BitVec 7} {imm : BitVec 19} {s s1 : State} (hx : Executes (.auipc rd imm) s) (hd : dstS rd = true)
    (hw : Writes rd (wordAddress s.thr + BitVec.ofInt 64 (imm.toInt * 2 ^ 12)) s s1) :
    exec (.auipc rd imm) s = .next (advance s1) := by
  rw [← signExtend_append_zero, ← ownPc_eq_wordAddress] at hw
  exact scalarOp_ok hx hd (by simpa using writeS_of_writes hw)

theorem aluWordsWriteTheirResult : AluWordsWriteTheirResult :=
  fun p hp _ _ _ _ _ _ _ _ _ => (meansBinary_of_mem_binaryWords p hp).exec_eq_advance

theorem immediateWordsWriteTheirResult : ImmediateWordsWriteTheirResult :=
  ⟨fun p hp _ _ _ _ _ _ => (meansUnary_of_mem_unaryWords p hp).exec_eq_advance,
   fun p hp _ _ imm _ _ _ _ => (meansUnary_of_mem_immediateWords p hp imm).exec_eq_advance,
   fun p hp _ _ n _ _ _ _ => (meansUnary_of_mem_shiftWords p hp n).exec_eq_advance,
   fun _ _ _ _ => exec_lui,
   fun _ _ _ _ => exec_auipc⟩

/-- Settles O8: each row of the tables is `binaryOp` or `unaryOp` with its formula, and those complete on the operands read. -/
theorem aluAndImmediateWordsWriteTheirResult : Obligations.AluAndImmediateWordsWriteTheirResult :=
  ⟨aluWordsWriteTheirResult, immediateWordsWriteTheirResult⟩

end Sys2Proof.AluWords
end

section
/-! PROOFS. Words of the vector stream that make no access and pop no queue (R101, R137, R142 to R149): what the stream leaves
when such a word has run on an idle stream, for words that work element by element on registers or on masks, and for words that
work as a whole. -/

namespace Sys2Proof.StreamWords

open Sys2Proof.Machine Sys2Proof.Claims

/-! ## The words, and what a running one sees -/

/-- Instruction i is a word of the vector stream with this meaning and these fields: it makes no access, no scalar field of it names
a queue, and it writes no vector register but the one in its destination field. -/
structure StreamWord (i : Instr) (v : VSpec) (f : VFields) : Prop where
  exec_eq : ∀ s, exec i s = vectorOp i s := by intro; rfl
  vword_eq : vword i = some (v, f) := by rfl
  dests : ∀ long, destRegs i v f long = if (v.kd = .vreg ∨ v.kd = .vregOrQueue) ∧ f.d < 48 then [f.d] else [] := by intro; rfl
  ranges : ∀ e : VEntry, entryRanges { e with ins := i } = [] := by intro; rfl
  blocking : ∀ e : VEntry, nonBlocking { e with ins := i } = false := by intro; rfl
  marker : ∀ e : VEntry, isMarker { e with ins := i } = false := by intro; rfl
  noScalarA : v.ka ≠ .scalar := by nofun
  noScalarB : v.kb ≠ .scalar := by nofun

variable {i : Instr} {v : VSpec} {f : VFields} {s : State}

theorem StreamWord.quiet (hw : StreamWord i v f) : Quiet i where
  ranges e he := by subst he; exact hw.ranges e
  marker e he := by subst he; exact hw.marker e
  blocking e he := by subst he; exact hw.blocking e
  counter e he := by
    subst he
    have hb : nonBlocking e = false := hw.blocking e
    simp [noteCounter, hb]

/-- What the entry of word i sees as it starts: the thread, and the scalars that its fields broadcast. -/
def wordCtx (t : Thread) (i : Instr) (v : VSpec) (f : VFields) : LaneCtx :=
  ⟨t, plainEntry t i v f, f, (captured t v.ka f.a).getD 0, (captured t v.kb f.b).getD 0⟩

theorem StreamWord.scalarsOf_eq (hw : StreamWord i v f) (t : Thread) :
    scalarsOf t (plainEntry t i v f) v f = .ok ((captured t v.ka f.a).getD 0, (captured t v.kb f.b).getD 0) := by
  simp [scalarsOf, queueField, hw.noScalarA, hw.noScalarB, plainEntry, newEntry, captures, VFields.atRepeat]

theorem StreamWord.popsOf_eq (hw : StreamWord i v f) : popsOf v f = [] := by
  simp [popsOf, queueField, hw.noScalarA, hw.noScalarB]

theorem w_wordCtx (t : Thread) (i : Instr) (v : VSpec) (f : VFields) : (wordCtx t i v f).w = sew t := rfl

theorem ctl_wordCtx (t : Thread) (i : Instr) (v : VSpec) (f : VFields) : (wordCtx t i v f).ctl = vtCtl t.u.vtype := rfl

theorem active_wordCtx (t : Thread) (i : Instr) (v : VSpec) {f : VFields} {m : BitVec 4} (hm : f.m = m.toNat) :
    (wordCtx t i v f).active = active t m := by
  funext k
  unfold LaneCtx.active active
  rw [show (wordCtx t i v f).f.m = m.toNat from hm]
  rfl

/-- The scalar that a broadcast field gives (R43, R101). -/
theorem captured_vop {a : BitVec 7} (t : Thread) (ha : IsOperand a) (hn : ¬ a.toNat < 48) :
    captured t .vop a.toNat = some (scalar t (BitVec.ofNat 7 (a.toNat - 64))) := by
  have h64 : 64 ≤ a.toNat := ha.resolve_left hn
  simp [captured, h64, a.isLt]

theorem opA_wordCtx {a : BitVec 7} (t : Thread) (i : Instr) (hv : v.ka = .vop) (hf : f.a = a.toNat) (ha : IsOperand a)
    (w k : Nat) : (wordCtx t i v f).opA w k = operand t w a k := by
  unfold LaneCtx.opA operand
  rw [show (wordCtx t i v f).f.a = a.toNat from hf]
  split
  · rfl
  · next hn => rw [wordCtx, hv, hf, captured_vop t ha hn]; rfl

theorem opB_wordCtx {b : BitVec 7} (t : Thread) (i : Instr) (hv : v.kb = .vop) (hf : f.b = b.toNat) (hb : IsOperand b)
    (w k : Nat) : (wordCtx t i v f).opB w k = operand t w b k := by
  unfold LaneCtx.opB operand
  rw [show (wordCtx t i v f).f.b = b.toNat from hf]
  split
  · rfl
  · next hn => rw [wordCtx, hv, hf, captured_vop t hb hn]; rfl

/-! ## Fields that R43 and R44 allow -/

theorem fieldOk_unused : fieldOk .unused 0 = true := rfl

theorem fieldOk_vreg {a : BitVec 7} (h : IsVector a) : fieldOk .vreg a.toNat = true := decide_eq_true h

theorem fieldOk_vop {a : BitVec 7} (h : IsOperand a) : fieldOk .vop a.toNat = true := by
  unfold IsOperand at h
  simpa [fieldOk] using h.imp_right fun h64 => ⟨h64, a.isLt⟩

theorem fieldOk_mask {a : BitVec 7} (h : IsMask a) : fieldOk .mask a.toNat = true := decide_eq_true h

theorem fieldOk_cmpDest {md : BitVec 4} (h : md.toNat < 12) : fieldOk .cmpDest md.toNat = true :=
  decide_eq_true (by rwa [Nat.mod_eq_of_lt md.isLt])

theorem fieldOk_queue {a : BitVec 7} (h : IsQueue a) : fieldOk .queue a.toNat = true := decide_eq_true h

/-! ## Element widths (R130, R134) -/

theorem sew_bounds (t : Thread) : 8 ≤ sew t ∧ sew t ≤ 64 := by
  have h : (t.u.vtype.extractLsb' 0 2).toNat < 4 := (t.u.vtype.extractLsb' 0 2).isLt
  unfold sew vtSew
  generalize (t.u.vtype.extractLsb' 0 2).toNat = n at h
  interval_cases n <;> decide

theorem element_end_le {t : Thread} {k : Nat} (hk : k < vlmax t) : (k + 1) * sew t ≤ if isLong t then 8192 else 256 :=
  Nat.mul_le_of_le_div _ _ _ hk

theorem lt_maskWidth {t : Thread} {k : Nat} (hk : k < vlmax t) : k < if isLong t then 1024 else 32 := by
  have hle : vlmax t ≤ (if isLong t then 8192 else 256) / 8 := Nat.div_le_div_left (sew_bounds t).1 (by decide)
  have hbits : (if isLong t then 8192 else 256) / 8 = if isLong t then 1024 else 32 := by cases isLong t <;> rfl
  exact hk.trans_le (hbits ▸ hle)

/-! ## What the writes of the stream leave alone -/

/-- The write goes to one of these registers or masks; no queue is pushed. -/
def Within (regs masks : List Nat) : VWrite → Prop
  | .elem r _ _ _ => r ∈ regs
  | .bit k _ _ => k ∈ masks
  | .push _ _ => False

/-- Of the vector state, only these registers and masks, the landed bits of these registers and, in long mode, nothing of the short
registers has changed; no entry has come or gone. -/
structure VectorFrame (regs masks : List Nat) (t u : Thread) : Prop where
  reg : ∀ r, r ∉ regs → SameReg t u r
  mask : ∀ k, k ∉ masks → SameMask t u k
  entries : u.v.vq = t.v.vq ∧ u.v.nbq = t.v.nbq ∧ u.v.held = t.v.held
  lg : u.v.lg = t.v.lg
  long : isLong u = isLong t
  short : isLong t = true → u.v.short = t.v.short ∧ u.v.smask = t.v.smask

variable {regs masks : List Nat} {t u u' : Thread}

theorem VectorFrame.of_v_eq (h : u.v = t.v) : VectorFrame regs masks t u := by
  constructor <;> simp [SameReg, SameMask, isLong, h]

theorem VectorFrame.trans (h : VectorFrame regs masks t u) (h' : VectorFrame regs masks u u') : VectorFrame regs masks t u' where
  reg r hr := by
    obtain ⟨h1, h2, h3⟩ := h.reg r hr
    obtain ⟨g1, g2, g3⟩ := h'.reg r hr
    exact ⟨g1.trans h1, g2.trans h2, g3.trans h3⟩
  mask k hk := ⟨(h'.mask k hk).1.trans (h.mask k hk).1, (h'.mask k hk).2.trans (h.mask k hk).2⟩
  entries := by
    obtain ⟨h1, h2, h3⟩ := h.entries
    obtain ⟨g1, g2, g3⟩ := h'.entries
    exact ⟨g1.trans h1, g2.trans h2, g3.trans h3⟩
  lg := h'.lg.trans h.lg
  long := h'.long.trans h.long
  short hl := by
    obtain ⟨h1, h2⟩ := h.short hl
    obtain ⟨g1, g2⟩ := h'.short (h.long.trans hl)
    exact ⟨g1.trans h1, g2.trans h2⟩

theorem vectorFrame_writeElem {r : Nat} (hr : r ∈ regs) (t : Thread) (j w : Nat) (x : Word) :
    VectorFrame regs masks t (writeElem (isLong t) r j w x t) := by
  have hne : ∀ q, q ∉ regs → q ≠ r := fun q hq he => hq (he ▸ hr)
  cases hl : t.v.long <;> constructor <;>
    simp +contextual [SameReg, SameMask, isLong, writeElem, hl, vget_vset_other _ _ _ _ _ (hne _ _)]

theorem vectorFrame_writeMaskBit {k : Nat} (hk : k ∈ masks) (t : Thread) (j : Nat) (b : Bool) :
    VectorFrame regs masks t (writeMaskBit (isLong t) k j b t) := by
  have hne : ∀ q, q ∉ masks → q ≠ k := fun q hq he => hq (he ▸ hk)
  cases hl : t.v.long <;> constructor <;>
    simp +contextual [SameReg, SameMask, isLong, writeMaskBit, hl, vget_vset_other _ _ _ _ _ (hne _ _)]

theorem vectorFrame_applyWrites {long : Bool} (ws : List VWrite) (h : ∀ x ∈ ws, Within regs masks x) (t : Thread)
    (hl : isLong t = long) : VectorFrame regs masks t (ws.foldl (applyWrite long) t) := by
  subst hl
  induction ws generalizing t with
  | nil => exact .of_v_eq rfl
  | cons x ws ih =>
    have hx : VectorFrame regs masks t (applyWrite (isLong t) t x) := by
      have hin := h x List.mem_cons_self
      cases x with
      | elem r j w y => exact vectorFrame_writeElem hin t j w y
      | bit k j b => exact vectorFrame_writeMaskBit hin t j b
      | push q y => exact hin.elim
    have hws := ih (fun y hy => h y (List.mem_cons_of_mem _ hy)) (applyWrite (isLong t) t x)
    rw [hx.long] at hws
    exact hx.trans hws

theorem vget_foldl_vset_other {α : Type} {n : Nat} (x d : α) (rs : List Nat) (l : Vector α n) {r : Nat} (hr : r ∉ rs) :
    vget (rs.foldl (fun l q => vset l q x) l) r d = vget l r d := by
  induction rs generalizing l with
  | nil => rfl
  | cons q rs ih =>
    obtain ⟨hq, hrs⟩ := not_or.1 (mt List.mem_cons.2 hr)
    rw [List.foldl_cons, ih _ hrs, vget_vset_other _ _ _ _ _ hq]

theorem vget_foldl_vset_mem {α : Type} {n : Nat} (x d : α) (rs : List Nat) (l : Vector α n) {r : Nat} (hr : r ∈ rs) (hn : r < n) :
    vget (rs.foldl (fun l q => vset l q x) l) r d = x := by
  induction rs generalizing l with
  | nil => simp at hr
  | cons q rs ih =>
    by_cases hrs : r ∈ rs
    · exact ih _ hrs
    · have hq : r = q := (List.mem_cons.1 hr).resolve_right hrs
      rw [List.foldl_cons, vget_foldl_vset_other _ _ _ _ hrs, ← hq, vget_vset_same _ _ _ _ hn]

theorem vectorFrame_setLanded (b : Bool) (t : Thread) : VectorFrame regs masks t (setLanded b regs t) where
  reg _ hr := ⟨rfl, vget_foldl_vset_other _ _ _ _ hr, rfl⟩
  mask _ _ := ⟨rfl, rfl⟩
  entries := ⟨rfl, rfl, rfl⟩
  lg := rfl
  long := rfl
  short _ := ⟨rfl, rfl⟩

/-! ## The thread outside its vector state -/

/-- The thread with another vector state. -/
def withV (x : VectorState) (t : Thread) : Thread := { t with v := x }

@[simp] theorem withV_setLanded (x : VectorState) (b : Bool) (rs : List Nat) (t : Thread) :
    withV x (setLanded b rs t) = withV x t := rfl

@[simp] theorem withV_addFlags (x : VectorState) (fl : BitVec 5) (t : Thread) :
    withV x (addFlags fl t) = addFlags fl (withV x t) := rfl

theorem withV_applyWrite {long : Bool} {y : VWrite} (h : Within regs masks y) (x : VectorState) (t : Thread) :
    withV x (applyWrite long t y) = withV x t := by
  cases y with
  | elem r j w y => cases long <;> cases hl : t.v.long <;> simp [applyWrite, writeElem, withV, hl]
  | bit k j b => cases long <;> cases hl : t.v.long <;> simp [applyWrite, writeMaskBit, withV, hl]
  | push q y => exact h.elim

theorem withV_applyWrites (long : Bool) {ws : List VWrite} (h : ∀ y ∈ ws, Within regs masks y) (x : VectorState) (t : Thread) :
    withV x (ws.foldl (applyWrite long) t) = withV x t := by
  induction ws generalizing t with
  | nil => rfl
  | cons y ws ih =>
    rw [List.foldl_cons, ih fun z hz => h z (List.mem_cons_of_mem _ hz), withV_applyWrite (h y List.mem_cons_self)]

/-- Where an instruction goes on depends on the pc, the loop and its indices, so it does not matter whether the vector state, the
scalars and the flags change before or after. -/
theorem retire_update (p : VectorState → VectorState) (q : Scalars → Scalars) (g : BitVec 5 → BitVec 5) (t : Thread) :
    retire { t with v := p t.v, sc := q t.sc, u := { t.u with fflags := g t.u.fflags } } =
      { retire t with v := p (retire t).v, sc := q (retire t).sc, u := { (retire t).u with fflags := g (retire t).u.fflags } } := by
  cases hl : t.loop with
  | none => simp [retire, hl]
  | some l =>
    by_cases hpos : lctlPos t.u.lctl < lctlLen t.u.lctl
    · simp [retire, retireBody, hl, hpos]
    · by_cases hnest : (advanceNest l.nest t.u.li).2 = true <;> simp [retire, retireBody, hl, hpos, hnest]

theorem withV_retire (x : VectorState) (t : Thread) : withV x (retire t) = retire (withV x t) :=
  (retire_update (fun _ => x) id id t).symm

theorem addFlags_retire (fl : BitVec 5) (t : Thread) : addFlags fl (retire t) = retire (addFlags fl t) :=
  (retire_update id id (· ||| fl) t).symm

theorem setQueue_retire (q : Nat) (l : List Word) (t : Thread) : setQueue q l (retire t) = retire (setQueue q l t) :=
  (retire_update id (fun c => { c with queues := vset c.queues q l }) id t).symm

/-! ## The registers and masks that the writes reach -/

/-- Element k of a register after the writes of some of its elements, each with one value. -/
theorem elem_applyWrites {long : Bool} {d w : Nat} (x : Nat → Word) (hd : d < 48) (is : List Nat) (t : Thread)
    (hl : isLong t = long) {k : Nat} (hk : (k + 1) * w ≤ if long then 8192 else 256) :
    elemOf (vreg ((is.map fun j => VWrite.elem d j w (x j)).foldl (applyWrite long) t) long d) w k =
      if k ∈ is then (x k).setWidth w else elemOf (vreg t long d) w k := by
  induction is generalizing t with
  | nil => simp
  | cons j is ih =>
    subst hl
    have hj := (vectorFrame_writeElem (regs := [d]) (masks := []) List.mem_cons_self t j w (x j)).long
    rw [List.map_cons, List.foldl_cons]
    refine (ih (writeElem (isLong t) d j w (x j) t) hj).trans ?_
    by_cases hm : k ∈ is
    · simp [hm]
    · by_cases hkj : k = j
      · subst hkj
        simpa [hm] using elem_writeElem_same (isLong t) t d k w (x k) hd hk id
      · simpa [hm, hkj] using elem_writeElem_other (isLong t) t d j w (x j) d k (.inr hkj)

theorem bit_writeMaskBit_same {long : Bool} {t : Thread} {d : Nat} (hd : d < 12) (hl : isLong t = long) {k : Nat}
    (hk : k < if long then 1024 else 32) (b : Bool) : (mreg (writeMaskBit long d k b t) long d).getLsbD k = b := by
  cases long with
  | false =>
    simp only [mreg, writeMaskBit, Bool.false_eq_true, if_false] at hk ⊢
    rw [vget_vset_same _ _ _ _ hd, BitVec.getLsbD_setWidth, setBit_same _ _ _ hk]
    simp [Nat.lt_trans hk (by decide : 32 < 1024)]
  | true =>
    obtain ⟨c, hc⟩ := Option.isSome_iff_exists.1 hl
    simp only [mreg, writeMaskBit, hc, if_true] at hk ⊢
    rw [vget_vset_same _ _ _ _ hd, setBit_same _ _ _ hk]

/-- Bit k of a mask after the writes of some of its bits, each with one value. -/
theorem bit_applyWrites {long : Bool} {d : Nat} (x : Nat → Bool) (hd : d < 12) (is : List Nat) (t : Thread)
    (hl : isLong t = long) {k : Nat} (hk : k < if long then 1024 else 32) :
    (mreg ((is.map fun j => VWrite.bit d j (x j)).foldl (applyWrite long) t) long d).getLsbD k =
      if k ∈ is then x k else (mreg t long d).getLsbD k := by
  induction is generalizing t with
  | nil => simp
  | cons j is ih =>
    subst hl
    have hj := (vectorFrame_writeMaskBit (regs := []) (masks := [d]) List.mem_cons_self t j (x j)).long
    rw [List.map_cons, List.foldl_cons]
    refine (ih (writeMaskBit (isLong t) d j (x j) t) hj).trans ?_
    by_cases hm : k ∈ is
    · simp [hm]
    · by_cases hkj : k = j
      · subst hkj
        simpa [hm] using bit_writeMaskBit_same hd rfl hk (x k)
      · simpa [hm, hkj] using bit_writeMaskBit_other (isLong t) t d j (x j) d k (.inr hkj)

/-! ## What a word leaves: `performed` -/

theorem vectorFrame_issue (t : Thread) : VectorFrame regs masks t (issue regs t) :=
  (vectorFrame_setLanded false _).trans (.of_v_eq (retire_v _))

theorem vectorFrame_performed {ws : List VWrite} (h : ∀ x ∈ ws, Within regs masks x) (fl : BitVec 5) (t : Thread) :
    VectorFrame regs masks t (performed regs ws fl t) :=
  have hi : VectorFrame regs masks t (issue regs t) := vectorFrame_issue t
  have hw := vectorFrame_applyWrites ws h (issue regs t) hi.long
  ((hi.trans hw).trans (.of_v_eq (addFlags_v _ _))).trans (vectorFrame_setLanded true _)

/-- A word that pushes no queue leaves the thread, its vector state apart, as a word does that has raised these flags. -/
theorem withV_performed {ws : List VWrite} (h : ∀ x ∈ ws, Within regs masks x) (fl : BitVec 5) (t : Thread) :
    withV t.v (performed regs ws fl t) =
      retire { t with issued := t.issued + 1, u := { t.u with vstart := 0, fflags := t.u.fflags ||| fl } } := by
  simp only [performed, withV_setLanded, withV_addFlags, withV_applyWrites _ h, issue, withV_retire, addFlags_retire]
  rfl

theorem vectorDone_performed {ws : List VWrite} (h : ∀ x ∈ ws, Within regs masks x) (hr : ∀ r ∈ regs, r < 48) (fl : BitVec 5)
    (ht : NoEntries t) : VectorDone regs masks fl t (performed regs ws fl t) := by
  have hf := vectorFrame_performed h fl t
  obtain ⟨hvq, hnbq, hheld⟩ := hf.entries
  obtain ⟨hvq', hnbq', hheld'⟩ := ht
  exact ⟨withV_performed h fl t, ⟨hvq.trans hvq', hnbq.trans hnbq', hheld.trans hheld'⟩, hf.lg, hf.long, hf.reg, hf.mask,
    fun r hm => vget_foldl_vset_mem _ _ _ _ hm (hr r hm), hf.short⟩

theorem within_elems (d w : Nat) (x : Nat → Word) (is : List Nat) :
    ∀ y ∈ is.map fun k => VWrite.elem d k w (x k), Within [d] [] y :=
  List.forall_mem_map.2 fun _ _ => List.mem_cons_self

theorem within_bits (d : Nat) (x : Nat → Bool) (is : List Nat) : ∀ y ∈ is.map fun k => VWrite.bit d k (x k), Within [] [d] y :=
  List.forall_mem_map.2 fun _ _ => List.mem_cons_self

/-- The elements that a word has written, at the positions that were active. -/
theorem elements_performed {rd : BitVec 7} (hrd : IsVector rd) (is : List Nat) (x : Nat → Word) (fl : BitVec 5) (t : Thread)
    {at_ : Nat → Bool} (hat : ∀ k, k ∈ is ↔ at_ k = true) {val : (w : Nat) → Nat → BitVec w}
    (hx : ∀ k, (x k).setWidth (sew t) = val (sew t) k) :
    Elements t (performed [rd.toNat] (is.map fun k => .elem rd.toNat k (sew t) (x k)) fl t) rd at_ val := by
  intro k hk
  have hu := (vectorFrame_performed (within_elems rd.toNat (sew t) x is) fl t).long
  have hi := (vectorFrame_issue (regs := [rd.toNat]) (masks := []) t).long
  unfold elem
  rw [hu]
  refine (elem_applyWrites x hrd is (issue [rd.toNat] t) hi (element_end_le hk)).trans ?_
  rw [vreg_issue, hx]
  simp only [hat]

/-- The bits that a word has written, at the positions that were active. -/
theorem bits_performed {md : BitVec 7} (hmd : IsMask md) (is : List Nat) (x : Nat → Bool) (fl : BitVec 5) (t : Thread)
    {at_ : Nat → Bool} (hat : ∀ k, k ∈ is ↔ at_ k = true) :
    Bits t (performed [] (is.map fun k => .bit md.toNat k (x k)) fl t) md at_ x := by
  intro k hk
  have hu := (vectorFrame_performed (within_bits md.toNat x is) fl t).long
  have hi := (vectorFrame_issue (regs := []) (masks := [md.toNat]) t).long
  unfold bit
  rw [hu]
  refine (bit_applyWrites x hmd is (issue [] t) hi (lt_maskWidth hk)).trans ?_
  rw [mreg_issue]
  simp only [hat]

/-! ## Words that work element by element -/

/-- Two views of an entry in progress that agree on position k, on the masks there and on what was captured. -/
structure AgreeAt (k : Nat) (c c' : LaneCtx) : Prop where
  vtype : c'.e.vtype = c.e.vtype
  vl : c'.e.vl = c.e.vl
  vstart : c'.e.vstart = c.e.vstart
  f : c'.f = c.f
  sa : c'.sa = c.sa
  sb : c'.sb = c.sb
  elem : ∀ r, c'.elem c.w r k = c.elem c.w r k
  bit : ∀ m, c'.maskBit m k = c.maskBit m k

theorem AgreeAt.opA {k : Nat} {c c' : LaneCtx} (h : AgreeAt k c c') : c'.opA c.w k = c.opA c.w k := by
  rw [LaneCtx.opA, LaneCtx.opA, h.f, h.sa, h.elem]

theorem AgreeAt.opB {k : Nat} {c c' : LaneCtx} (h : AgreeAt k c c') : c'.opB c.w k = c.opB c.w k := by
  rw [LaneCtx.opB, LaneCtx.opB, h.f, h.sb, h.elem]

/-- What is computed of the width, the format and the operands at the position is the same. -/
theorem AgreeAt.operands {α : Type} {k : Nat} {c c' : LaneCtx} (h : AgreeAt k c c')
    (g : (w : Nat) → FpCtl → BitVec w → BitVec w → α) :
    g c'.w c'.ctl (c'.opA c'.w k) (c'.opB c'.w k) = g c.w c.ctl (c.opA c.w k) (c.opB c.w k) := by
  have hA := h.opA
  have hB := h.opB
  unfold LaneCtx.w at hA hB
  unfold LaneCtx.w LaneCtx.ctl
  rw [h.vtype, hA, hB]

theorem AgreeAt.active {k : Nat} {c c' : LaneCtx} (h : AgreeAt k c c') : c'.active k = c.active k := by
  have hbit := h.bit (c.f.m - 1)
  unfold LaneCtx.maskBit at hbit
  rw [LaneCtx.active, LaneCtx.active, h.vstart, h.vl, h.f, hbit]

theorem AgreeAt.put {k : Nat} {c c' : LaneCtx} (h : AgreeAt k c c') (n : Nat) (fl : BitVec 5) : c'.put k n fl = c.put k n fl := by
  rw [LaneCtx.put, LaneCtx.put, LaneCtx.w, LaneCtx.w, h.vtype, h.f]

/-- The work of a word that writes its result at each active position into its destination register. -/
def elemSem (val : LaneCtx → Nat → Nat × BitVec 5) : VSem := .lanes fun c k => c.put k (val c k).1 (val c k).2

/-- The work of a word that writes its result at each active position into the mask of this number. -/
def bitSem (md : VFields → Nat) (val : LaneCtx → Nat → Bool × BitVec 5) : VSem :=
  .lanes fun c k => ([.bit (md c.f) k (val c k).1], (val c k).2)

/-- The result at a position reads the registers there and the masks anywhere. -/
def ElemLocal (val : LaneCtx → Nat → Nat × BitVec 5) : Prop :=
  ∀ k c c', AgreeAt k c c' → (∀ m j, c'.maskBit m j = c.maskBit m j) → val c' k = val c k

/-- The result at a position reads the registers and the masks there. -/
def BitLocal (val : LaneCtx → Nat → Bool × BitVec 5) : Prop := ∀ k c c', AgreeAt k c c' → val c' k = val c k

theorem groupResult_singletons {c : LaneCtx} {g : LaneCtx → Nat → List VWrite × BitVec 5} {y : Nat → VWrite}
    {fl : Nat → BitVec 5} (hg : ∀ k, g c k = ([y k], fl k)) (is : List Nat) :
    groupResult c g is = ((is.filter c.active).map y, flagsOf ((is.filter c.active).map fl)) := by
  simp only [groupResult, flagsOf, hg, List.map_map, List.foldl_map, Function.comp_def]
  rw [← List.flatMap_def, ← List.map_eq_flatMap]

theorem laneFlags_zero (t : Thread) (m : BitVec 4) : (laneFlags t m fun _ => 0) = 0 := by
  unfold laneFlags
  generalize actives t m = is
  induction is with
  | nil => rfl
  | cons k is ih => simpa [flagsOf] using ih

theorem mem_active_range {t : Thread} (m : BitVec 4) (k : Nat) :
    k ∈ (List.range (vecLen t)).filter (active t m) ↔ active t m k = true := by
  rw [List.mem_filter, List.mem_range, and_iff_right_of_imp]
  intro h
  simp only [active, Bool.and_eq_true, decide_eq_true_eq] at h
  exact h.1.2

/-- What the entry of word i sees further on, as these writes have been performed. -/
def laterCtx (t : Thread) (i : Instr) (v : VSpec) (f : VFields) (ws : List VWrite) (fl : BitVec 5) (q : List VEntry) (e : VEntry) :
    LaneCtx :=
  ⟨withVq q (addFlags fl (ws.foldl (applyWrite (isLong t)) (issue (destRegs i v f (isLong t)) t))), e, f,
    (captured t v.ka f.a).getD 0, (captured t v.kb f.b).getD 0⟩

theorem agreeAt_laterCtx {ws : List VWrite} {fl : BitVec 5} {q : List VEntry} {e : VEntry} {k : Nat}
    (he : SameWork (plainEntry t i v f) e)
    (hr : ∀ r, elemOf (vreg (ws.foldl (applyWrite (isLong t)) (issue (destRegs i v f (isLong t)) t)) (isLong t) r) (sew t) k =
      elemOf (vreg t (isLong t) r) (sew t) k)
    (hm : ∀ m, (mreg (ws.foldl (applyWrite (isLong t)) (issue (destRegs i v f (isLong t)) t)) (isLong t) m).getLsbD k =
      (mreg t (isLong t) m).getLsbD k) :
    AgreeAt k (wordCtx t i v f) (laterCtx t i v f ws fl q e) where
  vtype := he.vtype
  vl := he.vl
  vstart := he.vstart
  f := rfl
  sa := rfl
  sb := rfl
  elem r := by
    show elemOf (vreg _ e.long r) (sew t) k = _
    rw [he.long]
    exact hr r
  bit m := by
    show (mreg _ e.long m).getLsbD k = _
    rw [he.long]
    exact hm m

/-- After results of positions below k in a register, an entry finds at k, and in every mask, what it found at its start. -/
theorem laterCtx_of_elems {ws : List VWrite} {fl : BitVec 5} {q : List VEntry} {e : VEntry} {k d : Nat}
    (he : SameWork (plainEntry t i v f) e) (hd : destRegs i v f (isLong t) = [d])
    (hws : ∀ y ∈ ws, ∃ j < k, ∃ x, y = .elem d j (sew t) x) :
    AgreeAt k (wordCtx t i v f) (laterCtx t i v f ws fl q e) ∧
      ∀ m j, (laterCtx t i v f ws fl q e).maskBit m j = (wordCtx t i v f).maskBit m j := by
  obtain ⟨helem, -, hmask⟩ := after_elems (isLong t) d (sew t) k ws (issue [d] t) hws
  refine ⟨agreeAt_laterCtx he (fun r => ?_) fun m => ?_, fun m j => ?_⟩
  · rw [hd, helem r k (.inr (Nat.le_refl k)), vreg_issue]
  · rw [hd, hmask, mreg_issue]
  · rw [LaneCtx.maskBit, LaneCtx.maskBit, laterCtx, wordCtx, hd, he.long, mreg_withVq, mreg_addFlags]
    exact congrArg (·.getLsbD j) ((hmask m).trans (mreg_issue _ _ _ _))

/-- After results of positions below k in a mask, an entry finds at k what it found at its start. -/
theorem agreeAt_of_bits {ws : List VWrite} {fl : BitVec 5} {q : List VEntry} {e : VEntry} {k d : Nat}
    (he : SameWork (plainEntry t i v f) e) (hws : ∀ y ∈ ws, ∃ j < k, ∃ b, y = .bit d j b) :
    AgreeAt k (wordCtx t i v f) (laterCtx t i v f ws fl q e) := by
  obtain ⟨hbit, hreg⟩ := after_bits (isLong t) d k ws (issue (destRegs i v f (isLong t)) t) hws
  refine agreeAt_laterCtx he (fun r => ?_) fun m => ?_
  · rw [hreg, vreg_issue]
  · rw [hbit m k (.inr (Nat.le_refl k)), mreg_issue]

theorem noEntries_of_ready (hs : VectorReady s) : NoEntries s.thr := by
  obtain ⟨-, ⟨hvq, hnbq, hheld, -⟩, -⟩ := hs
  exact ⟨hvq, hnbq, hheld⟩

/-- An entry that has issued, but written nothing, finds the masks as they were. -/
theorem maskBit_laterCtx_nil (t : Thread) (i : Instr) (v : VSpec) (f : VFields) (fl : BitVec 5) (q : List VEntry) (m j : Nat) :
    (laterCtx t i v f [] fl q (plainEntry t i v f)).maskBit m j = (wordCtx t i v f).maskBit m j := by
  rw [LaneCtx.maskBit, LaneCtx.maskBit, laterCtx, wordCtx, mreg_withVq, mreg_addFlags, List.foldl_nil, mreg_issue]

/-- To push a value as the word ends, or before it, is one. -/
theorem performed_push (q : Nat) (x : Word) (fl : BitVec 5) (t : Thread) :
    performed [] [.push q x] fl t = performed [] [] fl (setQueue q (queueAt t q ++ [x]) t) := by
  have hissue (l : List Word) : setQueue q l (issue [] t) = issue [] (setQueue q l t) := setQueue_retire q l _
  have hat : queueAt (issue [] t) q = queueAt t q := congrArg (fun c : Scalars => vget c.queues q []) (issue_sc [] t)
  simp only [performed, List.foldl_cons, List.foldl_nil, applyWrite, hat, hissue]

section Running

variable (hw : StreamWord i v f) (hs : VectorReady s) (hf : v.fieldsOk s.thr f = true)
include hw hs hf

/-- A word that works element by element leaves the results of its active positions, when at each of them it finds what it would
have found at its start. -/
theorem StreamWord.exec_lanes {g : LaneCtx → Nat → List VWrite × BitVec 5} (hg : v.sem = .lanes g)
    (hpush : ∀ k q x, VWrite.push q x ∉ (g (wordCtx s.thr i v f) k).1)
    (hloc : ∀ ws fl q e k, SameWork (plainEntry s.thr i v f) e → (∀ y ∈ ws, ∃ j < k, y ∈ (g (wordCtx s.thr i v f) j).1) →
      AgreeAt k (wordCtx s.thr i v f) (laterCtx s.thr i v f ws fl q e) ∧
        g (laterCtx s.thr i v f ws fl q e) k = g (wordCtx s.thr i v f) k) :
    let R := groupResult (wordCtx s.thr i v f) g (List.range (vecLen s.thr))
    exec i s = .next (withThr s (performed (destRegs i v f (isLong s.thr)) R.1 R.2 s.thr)) := by
  obtain ⟨hhost, hidle, hdefer⟩ := hs
  intro R
  rw [hw.exec_eq, vectorOp_lanes hhost hidle hdefer hw.vword_eq hw.quiet hf hg (hw.scalarsOf_eq _)
    hpush fun ws fl q e k he hws =>
      have ⟨hagree, hsame⟩ := hloc ws fl q e k he hws
      ⟨hsame, hagree.active⟩, hw.popsOf_eq]
  rfl

/-- A word that writes a result into its destination register at each active position (R66, R148, R149). -/
theorem StreamWord.completes_elems {val : LaneCtx → Nat → Nat × BitVec 5} (hkd : v.kd = .vreg) (hsem : v.sem = elemSem val)
    (hval : ElemLocal val) {rd : BitVec 7} {m : BitVec 4} (hrd : IsVector rd) (hd : f.d = rd.toNat) (hm : f.m = m.toNat)
    {x : (w : Nat) → Nat → BitVec w}
    (hx : ∀ k, BitVec.ofNat (sew s.thr) (val (wordCtx s.thr i v f) k).1 = x (sew s.thr) k) :
    Completes i s fun u =>
      VectorDone [rd.toNat] [] (laneFlags s.thr m fun k => (val (wordCtx s.thr i v f) k).2) s.thr u ∧
        Elements s.thr u rd (active s.thr m) x := by
  have hdests : destRegs i v f (isLong s.thr) = [rd.toNat] := by
    rw [hw.dests, hkd, hd]
    simp [show rd.toNat < 48 from hrd]
  have hput (k : Nat) (n : Nat) (fl : BitVec 5) :
      (wordCtx s.thr i v f).put k n fl = ([.elem rd.toNat k (sew s.thr) (BitVec.ofNat 64 n)], fl) := by
    rw [LaneCtx.put, ← hd]
    rfl
  have hexec := hw.exec_lanes hs hf hsem (fun k q x hy => by simp [hput] at hy) fun ws fl q e k he hws => by
    obtain ⟨hagree, hmask⟩ := laterCtx_of_elems (fl := fl) (q := q) he hdests fun y hy => by
      obtain ⟨j, hj, hjm⟩ := hws y hy
      rw [hput] at hjm
      exact ⟨j, hj, _, List.mem_singleton.1 hjm⟩
    refine ⟨hagree, ?_⟩
    rw [hval k _ _ hagree hmask, hagree.put]
  rw [groupResult_singletons fun k => hput k _ _, active_wordCtx _ _ _ hm, hdests] at hexec
  refine ⟨_, hexec, vectorDone_performed (within_elems _ _ _ _) (List.forall_mem_singleton.2 hrd) _ (noEntries_of_ready hs),
    elements_performed hrd _ _ _ _ (mem_active_range m) fun k => ?_⟩
  rw [BitVec.setWidth_ofNat_of_le (sew_bounds s.thr).2, hx]

/-- A word that writes a result into its destination mask at each active position (R66, R148, R149). -/
theorem StreamWord.completes_bits {md : VFields → Nat} {val : LaneCtx → Nat → Bool × BitVec 5}
    (hkd : v.kd ≠ .vreg ∧ v.kd ≠ .vregOrQueue) (hsem : v.sem = bitSem md val) (hval : BitLocal val) {rd : BitVec 7} {m : BitVec 4}
    (hrd : IsMask rd) (hd : md f = rd.toNat) (hm : f.m = m.toNat) {x : Nat → Bool × BitVec 5}
    (hx : ∀ k, val (wordCtx s.thr i v f) k = x k) :
    Completes i s fun u => VectorDone [] [rd.toNat] (laneFlags s.thr m fun k => (x k).2) s.thr u ∧
      Bits s.thr u rd (active s.thr m) fun k => (x k).1 := by
  obtain rfl : val (wordCtx s.thr i v f) = x := funext hx
  have hdests : destRegs i v f (isLong s.thr) = [] := by simp [hw.dests, hkd]
  have hexec := hw.exec_lanes hs hf hsem (fun k q x hy => by simp at hy) fun ws fl q e k he hws => by
    have hagree := agreeAt_of_bits (fl := fl) (q := q) he fun y hy => by
      obtain ⟨j, hj, hjm⟩ := hws y hy
      exact ⟨j, hj, _, List.mem_singleton.1 hjm⟩
    refine ⟨hagree, ?_⟩
    rw [hval k _ _ hagree, hagree.f]
  rw [groupResult_singletons fun _ => rfl, active_wordCtx _ _ _ hm, hdests, show md (wordCtx s.thr i v f).f = rd.toNat from hd] at hexec
  exact ⟨_, hexec, vectorDone_performed (within_bits _ _ _) (by simp) _ (noEntries_of_ready hs),
    bits_performed hrd _ _ _ _ (mem_active_range m)⟩

/-! ## Words that work as a whole -/

/-- A word that works as a whole leaves the results that its masks and registers gave at its start. -/
theorem StreamWord.exec_whole {g : LaneCtx → List VWrite × BitVec 5} (hg : v.sem = .whole g)
    (hpush : pushesFit s.thr (g (wordCtx s.thr i v f)).1)
    (hloc : ∀ q, g (laterCtx s.thr i v f [] 0 q (plainEntry s.thr i v f)) = g (wordCtx s.thr i v f)) :
    let R := g (wordCtx s.thr i v f)
    exec i s = .next (withThr s (performed (destRegs i v f (isLong s.thr)) R.1 R.2 s.thr)) := by
  obtain ⟨hhost, hidle, hdefer⟩ := hs
  intro R
  rw [hw.exec_eq, vectorOp_whole hhost hidle hdefer hw.vword_eq hw.quiet hf hg (hw.scalarsOf_eq _) hpush
    fun q => (by rw [← addFlags_zero (issue _ _)]; exact hloc q), hw.popsOf_eq]
  rfl

/-- A word that writes the bits below `vl` of a mask (R161, R168). -/
theorem StreamWord.completes_wholeMask {x : LaneCtx → Nat → Bool} (hkd : v.kd = .mask)
    (hsem : v.sem = .whole fun c => (c.positions.map fun k => .bit c.f.d k (x c k), 0))
    (hloc : ∀ q, x (laterCtx s.thr i v f [] 0 q (plainEntry s.thr i v f)) = x (wordCtx s.thr i v f))
    {rd : BitVec 7} (hrd : IsMask rd) (hd : f.d = rd.toNat) :
    Completes i s fun u => VectorDone [] [rd.toNat] 0 s.thr u ∧
      Bits s.thr u rd (fun k => decide (k < vecLen s.thr)) (x (wordCtx s.thr i v f)) := by
  have hdests : destRegs i v f (isLong s.thr) = [] := by simp [hw.dests, hkd]
  have hexec := hw.exec_whole hs hf hsem (fun q y hy => by simp at hy) fun q => by rw [hloc]; rfl
  rw [hdests, show (wordCtx s.thr i v f).f.d = rd.toNat from hd] at hexec
  exact ⟨_, hexec, vectorDone_performed (within_bits _ _ _) (by simp) _ (noEntries_of_ready hs),
    bits_performed hrd _ _ _ _ fun k => by simp [LaneCtx.positions, wordCtx, plainEntry, newEntry]⟩

/-- A word that pushes one value into a queue with room (R105, R162). -/
theorem StreamWord.completes_push {x : LaneCtx → Word} (hkd : v.kd = .queue)
    (hsem : v.sem = .whole fun c => ([.push (c.f.d - 120) (x c)], 0))
    (hloc : ∀ q, x (laterCtx s.thr i v f [] 0 q (plainEntry s.thr i v f)) = x (wordCtx s.thr i v f))
    {q : BitVec 7} (hq : IsQueue q) (hd : f.d = q.toNat) {s1 : State} (hx : Writes q (x (wordCtx s.thr i v f)) s s1) :
    Completes i s fun u => VectorDone [] [] 0 s1.thr u := by
  have hdests : destRegs i v f (isLong s.thr) = [] := by simp [hw.dests, hkd]
  rcases hx with ⟨hlow, -⟩ | ⟨-, hroom, rfl⟩
  · exact absurd hq.1 (Nat.not_le.2 hlow)
  have hexec := hw.exec_whole hs hf hsem (fun r y hy => by
    obtain ⟨rfl, -⟩ := VWrite.push.inj (List.mem_singleton.1 hy)
    rwa [show (wordCtx s.thr i v f).f.d = q.toNat from hd]) fun r => by rw [hloc]; rfl
  rw [hdests, show (wordCtx s.thr i v f).f.d = q.toNat from hd] at hexec
  refine ⟨_, hexec, ?_⟩
  rw [performed_push]
  exact vectorDone_performed (by simp) (by simp) _ (noEntries_of_ready hs)

end Running

end Sys2Proof.StreamWords
end

section
/-! PROOFS. The integer lane words (R152 to R154, R171, R172): at every element width the model's functions are the formulas of the
tables, and each word applies its function to its operands at the active positions. -/

namespace Sys2Proof.LaneWords

open Sys2Proof.Machine Sys2Proof.Claims Sys2Proof.StreamWords Sys2Proof.AluWords

/-! ## The functions at every width (R154, R172) -/

theorem emod_mul_self_ediv (x : ℤ) {p : ℤ} (hp : 0 < p) : x % (p * p) / p = x / p % p := by
  have hsub : x % (p * p) = x + p * -(p * (x / p / p)) := by
    rw [Int.emod_def, Int.ediv_ediv_of_nonneg hp.le]
    ring
  rw [hsub, Int.add_mul_ediv_left _ _ hp.ne', Int.emod_def]
  ring

theorem mulHighS_eq_extractLsb'_width {w : Nat} (a b : BitVec w) :
    mulHighS a b = (BitVec.ofInt (2 * w) (a.toInt * b.toInt)).extractLsb' w w := by
  unfold mulHighS
  generalize a.toInt * b.toInt = x
  have hp : (0 : ℤ) < 2 ^ w := by positivity
  apply BitVec.eq_of_toNat_eq
  rw [BitVec.extractLsb'_toNat, BitVec.toNat_ofInt, BitVec.toNat_ofInt, Nat.shiftRight_eq_div_pow]
  zify
  rw [Int.toNat_of_nonneg (Int.emod_nonneg _ hp.ne'), Int.toNat_of_nonneg (Int.emod_nonneg _ (by positivity)), two_mul, pow_add,
    emod_mul_self_ediv x hp, Int.emod_emod]

theorem mulHighU_eq_extractLsb'_width {w : Nat} (a b : BitVec w) :
    mulHighU a b = (BitVec.ofNat (2 * w) (a.toNat * b.toNat)).extractLsb' w w := by
  unfold mulHighU
  apply BitVec.eq_of_toNat_eq
  rw [BitVec.extractLsb'_toNat, BitVec.toNat_ofNat, BitVec.toNat_ofNat, Nat.shiftRight_eq_div_pow, two_mul, pow_add,
    Nat.mod_mul_right_div_self, Nat.mod_mod]

/-! ## What a word means: one of the shared kinds of work, with the function of its row -/

/-- The words of constructor `c` apply g, at the element width, to two operands. -/
def MeansLane2 (c : BitVec 7 → BitVec 7 → BitVec 7 → BitVec 4 → Instr) (g : (w : Nat) → BitVec w → BitVec w → BitVec w) : Prop :=
  ∀ rd ra rb m, StreamWord (c rd ra rb m) (arithSpec anyState (lane2 g)) ⟨rd.toNat, ra.toNat, rb.toNat, m.toNat⟩

/-- The words of constructor `c` apply g, at the element width, to one operand. -/
def MeansLane1 (c : BitVec 7 → BitVec 7 → BitVec 4 → Instr) (g : (w : Nat) → BitVec w → BitVec w) : Prop :=
  ∀ rd ra m, StreamWord (c rd ra m) (unarySpec anyState (lane1 g)) ⟨rd.toNat, ra.toNat, 0, m.toNat⟩

theorem MeansLane2.of_eq {c : BitVec 7 → BitVec 7 → BitVec 7 → BitVec 4 → Instr} {g g' : (w : Nat) → BitVec w → BitVec w → BitVec w}
    (hg : ∀ w a b, g w a b = g' w a b) (h : MeansLane2 c g) : MeansLane2 c g' := by
  obtain rfl : g = g' := funext fun w => funext₂ (hg w)
  exact h

theorem MeansLane1.of_eq {c : BitVec 7 → BitVec 7 → BitVec 4 → Instr} {g g' : (w : Nat) → BitVec w → BitVec w}
    (hg : ∀ w a, g w a = g' w a) (h : MeansLane1 c g) : MeansLane1 c g' := by
  obtain rfl : g = g' := funext₂ hg
  exact h

theorem MeansLane2.completes {c : BitVec 7 → BitVec 7 → BitVec 7 → BitVec 4 → Instr} {g : (w : Nat) → BitVec w → BitVec w → BitVec w}
    (h : MeansLane2 c g) {rd ra rb : BitVec 7} {m : BitVec 4} {s : State} (hs : VectorReady s) (hd : IsVector rd)
    (ha : IsOperand ra) (hb : IsOperand rb) :
    Completes (c rd ra rb m) s fun u => VectorDone [rd.toNat] [] 0 s.thr u ∧
      Elements s.thr u rd (active s.thr m) fun w k => g w (operand s.thr w ra k) (operand s.thr w rb k) := by
  have hf : (arithSpec anyState (lane2 g)).fieldsOk s.thr ⟨rd.toNat, ra.toNat, rb.toNat, m.toNat⟩ = true := by
    simp [VSpec.fieldsOk, arithSpec, anyState, fieldOk_vreg hd, fieldOk_vop ha, fieldOk_vop hb]
  rw [← laneFlags_zero s.thr m]
  refine (h rd ra rb m).completes_elems hs hf rfl (val := fun c k => ((g c.w (c.opA c.w k) (c.opB c.w k)).toNat, 0)) rfl
    (fun k c c' hc _ => hc.operands fun w _ a b => ((g w a b).toNat, 0)) hd rfl rfl fun k => ?_
  rw [w_wordCtx, opA_wordCtx s.thr _ rfl rfl ha, opB_wordCtx s.thr _ rfl rfl hb, BitVec.ofNat_toNat, BitVec.setWidth_eq]

theorem MeansLane1.completes {c : BitVec 7 → BitVec 7 → BitVec 4 → Instr} {g : (w : Nat) → BitVec w → BitVec w}
    (h : MeansLane1 c g) {rd ra : BitVec 7} {m : BitVec 4} {s : State} (hs : VectorReady s) (hd : IsVector rd)
    (ha : IsOperand ra) :
    Completes (c rd ra m) s fun u => VectorDone [rd.toNat] [] 0 s.thr u ∧
      Elements s.thr u rd (active s.thr m) fun w k => g w (operand s.thr w ra k) := by
  have hf : (unarySpec anyState (lane1 g)).fieldsOk s.thr ⟨rd.toNat, ra.toNat, 0, m.toNat⟩ = true := by
    simp [VSpec.fieldsOk, unarySpec, anyState, fieldOk_vreg hd, fieldOk_vop ha, fieldOk_unused]
  rw [← laneFlags_zero s.thr m]
  refine (h rd ra m).completes_elems hs hf rfl (val := fun c k => ((g c.w (c.opA c.w k)).toNat, 0)) rfl
    (fun k c c' hc _ => hc.operands fun w _ a _ => ((g w a).toNat, 0)) hd rfl rfl fun k => ?_
  rw [w_wordCtx, opA_wordCtx s.thr _ rfl rfl ha, BitVec.ofNat_toNat, BitVec.setWidth_eq]

/-! ## The tables, row by row -/

theorem meansLane2_of_mem_laneWords : ∀ p ∈ laneWords, MeansLane2 p.1 p.2 := by
  simp only [laneWords, List.forall_mem_cons, List.not_mem_nil, false_implies, implies_true, and_true]
  refine ⟨?add, ?sub, ?mul, ?mulh, ?mulhu, ?div, ?divu, ?rem, ?remu, ?and, ?or, ?xor, ?sll, ?srl, ?sra, ?min, ?minu, ?max, ?maxu⟩
  case add | sub | and | or | xor | sll | srl => exact fun _ _ _ _ => {}
  case mul =>
    exact .of_eq (g := fun _ a b => a * b) (fun w a b => by rw [BitVec.ofInt_mul, BitVec.ofInt_toInt, BitVec.ofInt_toInt])
      fun _ _ _ _ => {}
  case mulh => exact .of_eq (fun _ => mulHighS_eq_extractLsb'_width) fun _ _ _ _ => {}
  case mulhu => exact .of_eq (fun _ => mulHighU_eq_extractLsb'_width) fun _ _ _ _ => {}
  case div => exact .of_eq (fun _ => divS_eq_quot) fun _ _ _ _ => {}
  case divu => exact .of_eq (fun _ => divU_eq_uquot) fun _ _ _ _ => {}
  case rem => exact .of_eq (fun _ => remS_eq_remainder) fun _ _ _ _ => {}
  case remu => exact .of_eq (fun _ => remU_eq_uremainder) fun _ _ _ _ => {}
  case sra => exact .of_eq (fun _ a b => sshiftRight_eq_ofInt_div a (shiftAmount b)) fun _ _ _ _ => {}
  case min => exact .of_eq (fun _ => ite_slt_eq_ofInt_min) fun _ _ _ _ => {}
  case minu => exact .of_eq (fun _ => ite_ult_eq_ofNat_min) fun _ _ _ _ => {}
  case max => exact .of_eq (fun _ => ite_slt_eq_ofInt_max) fun _ _ _ _ => {}
  case maxu => exact .of_eq (fun _ => ite_ult_eq_ofNat_max) fun _ _ _ _ => {}

theorem meansLane1_of_mem_laneUnary : ∀ p ∈ laneUnary, MeansLane1 p.1 p.2 := by
  simp only [laneUnary, List.forall_mem_cons, List.not_mem_nil, false_implies, implies_true, and_true]
  refine ⟨?neg, ?not, ?clz, ?ctz, ?popc⟩
  case neg => exact .of_eq (g := fun _ a => -a) (fun _ a => (BitVec.zero_sub a).symm) fun _ _ _ => {}
  case not => exact fun _ _ _ => {}
  case clz => exact .of_eq (fun w a => congrArg (BitVec.ofNat w) (leadingZeros_eq_sub a)) fun _ _ _ => {}
  case ctz => exact .of_eq (fun w a => congrArg (BitVec.ofNat w) (trailingZeros_eq_length a)) fun _ _ _ => {}
  case popc => exact .of_eq (fun w a => congrArg (BitVec.ofNat w) (onesCount_eq_length a)) fun _ _ _ => {}

/-! ## The statement -/

/-- Settles O25: each row of the tables is `lane2` or `lane1` with its function, and words of these kinds write its results at the
active positions of an idle stream. -/
theorem integerLanesWriteTheirResult : Obligations.IntegerLanesWriteTheirResult :=
  ⟨fun p hp _ _ _ _ _ => (meansLane2_of_mem_laneWords p hp).completes,
   fun p hp _ _ _ _ => (meansLane1_of_mem_laneUnary p hp).completes⟩

end Sys2Proof.LaneWords
end

section
/-! PROOFS. Comparisons and mask words (R160, R162, R167, R168): each writes the bits of its table at the active positions of its
mask, writes elements of a register that it reads from masks, or pushes what it counts. -/

namespace Sys2Proof.MaskWords

open Sys2Proof.Machine Sys2Proof.Claims Sys2Proof.StreamWords

/-! ## Comparisons (R160) -/

/-- The words of constructor `c` compare two operands by g, which gives the bit and the flags. -/
def MeansCompare (c : BitVec 4 → BitVec 7 → BitVec 7 → BitVec 4 → Instr) (extra : Thread → VFields → Bool)
    (g : (w : Nat) → FpCtl → BitVec w → BitVec w → Bool × BitVec 5) : Prop :=
  ∀ md ra rb m, StreamWord (c md ra rb m) (cmpSpec extra fun c k => g c.w c.ctl (c.opA c.w k) (c.opB c.w k))
    ⟨md.toNat, ra.toNat, rb.toNat, m.toNat⟩

/-- An integer condition, which raises no flag. -/
def intCompare (p : (w : Nat) → BitVec w → BitVec w → Bool) (w : Nat) (_ : FpCtl) (a b : BitVec w) : Bool × BitVec 5 := (p w a b, 0)

/-- An FP condition and its NV. -/
def fpCompare (quiet : Bool) (p : FpVal → FpVal → Bool) (w : Nat) (c : FpCtl) (a b : BitVec w) : Bool × BitVec 5 :=
  let x := fpIn c a.toNat
  let y := fpIn c b.toNat
  (p x y, if (if quiet then x == .nan true || y == .nan true else eitherNan x y) then 0x01 else 0)

theorem MeansCompare.of_eq {c : BitVec 4 → BitVec 7 → BitVec 7 → BitVec 4 → Instr} {extra : Thread → VFields → Bool}
    {p p' : (w : Nat) → BitVec w → BitVec w → Bool} (hp : ∀ w a b, p w a b = p' w a b) (h : MeansCompare c extra (intCompare p)) :
    MeansCompare c extra (intCompare p') := by
  obtain rfl : p = p' := funext fun w => funext₂ (hp w)
  exact h

theorem MeansCompare.completes {c : BitVec 4 → BitVec 7 → BitVec 7 → BitVec 4 → Instr} {extra : Thread → VFields → Bool}
    {g : (w : Nat) → FpCtl → BitVec w → BitVec w → Bool × BitVec 5} (h : MeansCompare c extra g) {md : BitVec 4} {ra rb : BitVec 7}
    {m : BitVec 4} {s : State} (hs : VectorReady s) (hextra : ∀ f, extra s.thr f = true) (hmd : md.toNat < 12) (ha : IsOperand ra)
    (hb : IsOperand rb) :
    let x (k : Nat) : Bool × BitVec 5 :=
      g (sew s.thr) (vtCtl s.thr.u.vtype) (operand s.thr (sew s.thr) ra k) (operand s.thr (sew s.thr) rb k)
    Completes (c md ra rb m) s fun u => VectorDone [] [md.toNat] (laneFlags s.thr m fun k => (x k).2) s.thr u ∧
      Bits s.thr u (md.setWidth 7) (active s.thr m) fun k => (x k).1 := by
  intro x
  have hmod : md.toNat % 16 = md.toNat := Nat.mod_eq_of_lt md.isLt
  have hwide : (md.setWidth 7).toNat = md.toNat := BitVec.toNat_setWidth_of_le (by decide)
  have hf : (cmpSpec extra fun c k => g c.w c.ctl (c.opA c.w k) (c.opB c.w k)).fieldsOk s.thr
      ⟨md.toNat, ra.toNat, rb.toNat, m.toNat⟩ = true := by
    simp [VSpec.fieldsOk, cmpSpec, hextra, fieldOk_cmpDest hmd, fieldOk_vop ha, fieldOk_vop hb]
  rw [← hwide]
  refine (h md ra rb m).completes_bits hs hf (by simp [cmpSpec]) (md := (·.d % 16)) rfl (fun k c c' hc => hc.operands g)
    (hwide.trans_lt hmd) (hmod.trans hwide.symm) rfl fun k => ?_
  rw [w_wordCtx, ctl_wordCtx, opA_wordCtx s.thr _ rfl rfl ha, opB_wordCtx s.thr _ rfl rfl hb]

theorem not_slt_eq_decide {w : Nat} (a b : BitVec w) : (! b.slt a) = decide (a.toInt ≤ b.toInt) := by
  rw [BitVec.slt_eq_decide, ← decide_not]
  exact decide_eq_decide.2 not_lt

theorem not_ult_eq_decide {w : Nat} (a b : BitVec w) : (! b.ult a) = decide (a.toNat ≤ b.toNat) := by
  rw [BitVec.ult_eq_decide, ← decide_not]
  exact decide_eq_decide.2 not_lt

theorem meansCompare_of_mem_compareWords : ∀ p ∈ compareWords, MeansCompare p.1 anyState (intCompare p.2) := by
  simp only [compareWords, List.forall_mem_cons, List.not_mem_nil, false_implies, implies_true, and_true]
  refine ⟨?eq, ?ne, ?lt, ?ltu, ?le, ?leu, ?gt, ?gtu⟩
  case eq => exact .of_eq (p := fun _ a b => a == b) (fun _ a b => by simp [beq_eq_decide]) fun _ _ _ _ => {}
  case ne => exact .of_eq (p := fun _ a b => a != b) (fun _ a b => by simp [bne, beq_eq_decide]) fun _ _ _ _ => {}
  case lt => exact .of_eq (fun _ a b => BitVec.slt_eq_decide) fun _ _ _ _ => {}
  case ltu => exact .of_eq (fun _ a b => BitVec.ult_eq_decide) fun _ _ _ _ => {}
  case le => exact .of_eq (p := fun _ a b => ! b.slt a) (fun _ a b => not_slt_eq_decide a b) fun _ _ _ _ => {}
  case leu => exact .of_eq (p := fun _ a b => ! b.ult a) (fun _ a b => not_ult_eq_decide a b) fun _ _ _ _ => {}
  case gt => exact .of_eq (p := fun _ a b => b.slt a) (fun _ a b => BitVec.slt_eq_decide) fun _ _ _ _ => {}
  case gtu => exact .of_eq (p := fun _ a b => b.ult a) (fun _ a b => BitVec.ult_eq_decide) fun _ _ _ _ => {}

theorem meansCompare_of_mem_fpCompareWords : ∀ p ∈ fpCompareWords, MeansCompare p.1 fpWidth (fpCompare p.2.1 p.2.2) := by
  simp only [fpCompareWords, List.forall_mem_cons, List.not_mem_nil, false_implies, implies_true, and_true]
  refine ⟨?feq, ?fne, ?flt, ?fle, ?fgt, ?fge, ?funord, ?ford⟩
  case feq | fne | flt | fle | fgt | fge | funord | ford => exact fun _ _ _ _ => {}

theorem comparisonsWriteMaskBits : ComparisonsWriteMaskBits := by
  refine ⟨fun p hp md ra rb m s hs hmd ha hb => ?_, fun p hp md ra rb m s hs hmd hsew ha hb => ?_⟩
  · have h := (meansCompare_of_mem_compareWords p hp).completes (m := m) hs (fun _ => rfl) hmd ha hb
    exact laneFlags_zero s.thr m ▸ h
  · exact (meansCompare_of_mem_fpCompareWords p hp).completes hs (fun _ => decide_eq_true hsew) hmd ha hb

/-! ## Words that write a mask bit by bit (R168) -/

theorem agreeAt_maskA {k : Nat} {c c' : LaneCtx} (h : AgreeAt k c c') : c'.maskBit c'.f.a k = c.maskBit c.f.a k := by
  rw [h.f, h.bit]

theorem agreeAt_maskB {k : Nat} {c c' : LaneCtx} (h : AgreeAt k c c') : c'.maskBit c'.f.b k = c.maskBit c.f.b k := by
  rw [h.f, h.bit]

theorem agreeAt_elemA {k : Nat} {c c' : LaneCtx} (h : AgreeAt k c c') (j : Nat) :
    (c'.elem c'.w c'.f.a k).getLsbD j = (c.elem c.w c.f.a k).getLsbD j := by
  have helem := h.elem c.f.a
  unfold LaneCtx.w at helem ⊢
  rw [h.vtype, h.f, helem]

/-- A mask word writes its condition at the positions from `vstart` to `vl`. -/
theorem completes_maskWord {i : Instr} {ka kb : FieldKind} {p : LaneCtx → Nat → Bool} {a b : Nat} {md : BitVec 7} {s : State}
    (hw : StreamWord i (maskSpec ka kb p) ⟨md.toNat, a, b, 0⟩) (hs : VectorReady s) (hmd : IsMask md)
    (ha : fieldOk ka a = true) (hb : fieldOk kb b = true) (hp : ∀ k c c', AgreeAt k c c' → p c' k = p c k) {x : Nat → Bool}
    (hx : ∀ k, p (wordCtx s.thr i (maskSpec ka kb p) ⟨md.toNat, a, b, 0⟩) k = x k) :
    Completes i s fun u => VectorDone [] [md.toNat] 0 s.thr u ∧ Bits s.thr u md (active s.thr 0) x := by
  have hf : (maskSpec ka kb p).fieldsOk s.thr ⟨md.toNat, a, b, 0⟩ = true := by
    simp [VSpec.fieldsOk, maskSpec, anyState, fieldOk_mask hmd, ha, hb]
  rw [← laneFlags_zero s.thr 0]
  exact hw.completes_bits hs hf (by simp [maskSpec]) (md := (·.d)) (val := fun c k => (p c k, 0)) rfl
    (fun k c c' hc => congrArg (·, (0 : BitVec 5)) (hp k c c' hc)) hmd rfl rfl (x := fun k => (x k, 0))
    fun k => congrArg (·, (0 : BitVec 5)) (hx k)

/-- The words of constructor `c` write g of the bits of two masks. -/
def MeansMask2 (c : BitVec 7 → BitVec 7 → BitVec 7 → Instr) (g : Bool → Bool → Bool) : Prop :=
  ∀ md ma mb, StreamWord (c md ma mb) (maskSpec .mask .mask fun c k => g (c.maskBit c.f.a k) (c.maskBit c.f.b k))
    ⟨md.toNat, ma.toNat, mb.toNat, 0⟩

theorem meansMask2_of_mem_maskWords : ∀ p ∈ maskWords, MeansMask2 p.1 p.2 := by
  simp only [maskWords, List.forall_mem_cons, List.not_mem_nil, false_implies, implies_true, and_true]
  refine ⟨?and, ?or, ?xor, ?andn⟩
  case and | or | xor | andn => exact fun _ _ _ => {}

theorem MeansMask2.completes {c : BitVec 7 → BitVec 7 → BitVec 7 → Instr} {g : Bool → Bool → Bool} (h : MeansMask2 c g)
    {md ma mb : BitVec 7} {s : State} (hs : VectorReady s) (hmd : IsMask md) (ha : IsMask ma) (hb : IsMask mb) :
    Completes (c md ma mb) s fun u => VectorDone [] [md.toNat] 0 s.thr u ∧
      Bits s.thr u md (active s.thr 0) fun k => g (bit s.thr ma k) (bit s.thr mb k) :=
  completes_maskWord (h md ma mb) hs hmd (fieldOk_mask ha) (fieldOk_mask hb)
    (fun k c c' hc => by rw [agreeAt_maskA hc, agreeAt_maskB hc]) fun k => rfl

/-- An entry that has issued, but written nothing, finds the first set bit where it was. -/
theorem firstSet_laterCtx_nil (t : Thread) (i : Instr) (v : VSpec) (f : VFields) (fl : BitVec 5) (q : List VEntry) :
    firstSet (laterCtx t i v f [] fl q (plainEntry t i v f)) = firstSet (wordCtx t i v f) := by
  simp only [firstSet, maskBit_laterCtx_nil]
  rfl

section
variable {md ma va : BitVec 7} {s : State} (hs : VectorReady s)
include hs

theorem completes_mnot (hmd : IsMask md) (ha : IsMask ma) :
    Completes (.mnot md ma) s fun u => VectorDone [] [md.toNat] 0 s.thr u ∧
      Bits s.thr u md (active s.thr 0) fun k => ! bit s.thr ma k :=
  completes_maskWord (ka := .mask) (kb := .unused) (p := fun c k => ! c.maskBit c.f.a k) {} hs hmd (fieldOk_mask ha) rfl
    (fun k c c' hc => by rw [agreeAt_maskA hc]) fun k => rfl

theorem completes_mset (hmd : IsMask md) :
    Completes (.mset md) s fun u => VectorDone [] [md.toNat] 0 s.thr u ∧ Bits s.thr u md (active s.thr 0) fun _ => true :=
  completes_maskWord (ka := .unused) (kb := .unused) (p := fun _ _ => true) {} hs hmd rfl rfl (fun _ _ _ _ => rfl) fun _ => rfl

theorem completes_mclr (hmd : IsMask md) :
    Completes (.mclr md) s fun u => VectorDone [] [md.toNat] 0 s.thr u ∧ Bits s.thr u md (active s.thr 0) fun _ => false :=
  completes_maskWord (ka := .unused) (kb := .unused) (p := fun _ _ => false) {} hs hmd rfl rfl (fun _ _ _ _ => rfl) fun _ => rfl

theorem completes_mfromv (hmd : IsMask md) (ha : IsVector va) :
    Completes (.mfromv md va) s fun u => VectorDone [] [md.toNat] 0 s.thr u ∧
      Bits s.thr u md (active s.thr 0) fun k => (elem s.thr (sew s.thr) va k).getLsbD 0 :=
  completes_maskWord (ka := .vreg) (kb := .unused) (p := fun c k => (c.elem c.w c.f.a k).getLsbD 0) {} hs hmd (fieldOk_vreg ha) rfl
    (fun k c c' hc => agreeAt_elemA hc 0) fun k => rfl

/-! ## Words that write a register from a mask (R168) -/

theorem completes_mtov (hd : IsVector va) (ha : IsMask ma) :
    Completes (.mtov va ma) s fun u => VectorDone [va.toNat] [] 0 s.thr u ∧
      Elements s.thr u va (active s.thr 0) fun w k => if bit s.thr ma k then 1#w else 0#w := by
  have hw : StreamWord (.mtov va ma) specMtov ⟨va.toNat, ma.toNat, 0, 0⟩ := {}
  have hf : specMtov.fieldsOk s.thr ⟨va.toNat, ma.toNat, 0, 0⟩ = true := by
    simp [VSpec.fieldsOk, specMtov, anyState, fieldOk_vreg hd, fieldOk_mask ha, fieldOk_unused]
  rw [← laneFlags_zero s.thr 0]
  refine hw.completes_elems hs hf rfl (val := fun c k => (if c.maskBit c.f.a k then 1 else 0, 0)) rfl
    (fun k c c' hc _ => by simp only [agreeAt_maskA hc]) hd rfl rfl fun k => ?_
  exact apply_ite (BitVec.ofNat (sew s.thr)) (bit s.thr ma k = true) 1 0

/-- `miota` counts in the mask below its position, of which a result written before it changes nothing. -/
theorem completes_miota (hd : IsVector va) (ha : IsMask ma) :
    Completes (.miota va ma) s fun u => VectorDone [va.toNat] [] 0 s.thr u ∧
      Elements s.thr u va (active s.thr 0) fun w k => BitVec.ofNat w ((List.range k).filter (bit s.thr ma)).length := by
  have hw : StreamWord (.miota va ma) specMiota ⟨va.toNat, ma.toNat, 0, 0⟩ := {}
  have hf : specMiota.fieldsOk s.thr ⟨va.toNat, ma.toNat, 0, 0⟩ = true := by
    simp [VSpec.fieldsOk, specMiota, anyState, fieldOk_vreg hd, fieldOk_mask ha, fieldOk_unused]
  rw [← laneFlags_zero s.thr 0]
  refine hw.completes_elems hs hf rfl
    (val := fun c k => (((List.range k).countP fun j => c.maskBit c.f.a j) % 2 ^ c.w, 0)) rfl
    (fun k c c' hc hm => by simp only [hm, hc.f, LaneCtx.w, hc.vtype]) hd rfl rfl fun k => ?_
  rw [w_wordCtx, List.countP_eq_length_filter]
  exact BitVec.eq_of_toNat_eq (by simp; rfl)

/-! ## Whole-vector words (R161, R162, R168) -/

variable (hv : s.thr.u.vstart = 0)
include hv

theorem completes_msbf (hmd : IsMask md) (ha : IsMask ma) :
    Completes (.msbf md ma) s fun u => VectorDone [] [md.toNat] 0 s.thr u ∧
      Bits s.thr u md (fun k => decide (k < vecLen s.thr)) fun k => decide (k < firstOf s.thr ma) := by
  have hw : StreamWord (.msbf md ma) specMsbf ⟨md.toNat, ma.toNat, 0, 0⟩ := {}
  have hf : specMsbf.fieldsOk s.thr ⟨md.toNat, ma.toNat, 0, 0⟩ = true := by
    simp [VSpec.fieldsOk, specMsbf, wholeVector, hv, fieldOk_mask hmd, fieldOk_mask ha, fieldOk_unused]
  exact hw.completes_wholeMask hs hf (x := fun c k => decide (k < (firstSet c).getD c.e.vl)) rfl rfl
    (fun q => by rw [firstSet_laterCtx_nil]; rfl) hmd rfl

theorem completes_mpopc {q : BitVec 7} {s1 : State} (hq : IsQueue q) (ha : IsMask ma)
    (hx : Writes q (BitVec.ofNat 64 (setBits s.thr ma).length) s s1) :
    Completes (.mpopc q ma) s fun u => VectorDone [] [] 0 s1.thr u := by
  have hw : StreamWord (.mpopc q ma) specMpopc ⟨q.toNat, ma.toNat, 0, 0⟩ := {}
  have hf : specMpopc.fieldsOk s.thr ⟨q.toNat, ma.toNat, 0, 0⟩ = true := by
    simp [VSpec.fieldsOk, specMpopc, wholeVector, hv, fieldOk_queue hq, fieldOk_mask ha, fieldOk_unused]
  rw [setBits, ← List.countP_eq_length_filter] at hx
  exact hw.completes_push hs hf (x := fun c => BitVec.ofNat 64 (c.positions.countP fun k => c.maskBit c.f.a k)) rfl rfl
    (fun r => by simp only [maskBit_laterCtx_nil]; rfl) hq rfl hx

theorem completes_mfirst {q : BitVec 7} {s1 : State} (hq : IsQueue q) (ha : IsMask ma)
    (hx : Writes q (match (setBits s.thr ma).head? with | some k => BitVec.ofNat 64 k | none => BitVec.allOnes 64) s s1) :
    Completes (.mfirst q ma) s fun u => VectorDone [] [] 0 s1.thr u := by
  have hw : StreamWord (.mfirst q ma) specMfirst ⟨q.toNat, ma.toNat, 0, 0⟩ := {}
  have hf : specMfirst.fieldsOk s.thr ⟨q.toNat, ma.toNat, 0, 0⟩ = true := by
    simp [VSpec.fieldsOk, specMfirst, wholeVector, hv, fieldOk_queue hq, fieldOk_mask ha, fieldOk_unused]
  rw [setBits, List.head?_filter] at hx
  exact hw.completes_push hs hf
    (x := fun c => match firstSet c with | some k => BitVec.ofNat 64 k | none => BitVec.allOnes 64) rfl rfl
    (fun r => by rw [firstSet_laterCtx_nil]) hq rfl hx

end

/-! ## The statement -/

theorem maskWordsFollowTheirTable : MaskWordsFollowTheirTable :=
  ⟨fun p hp _ _ _ _ => (meansMask2_of_mem_maskWords p hp).completes,
   fun _ _ _ hs hd ha => ⟨completes_mnot hs hd ha, completes_mset hs hd, completes_mclr hs hd, fun hv => completes_msbf hs hv hd ha⟩,
   fun _ _ _ => completes_mfromv,
   fun _ _ _ hs hd ha => ⟨completes_mtov hs hd ha, completes_miota hs hd ha⟩,
   fun _ _ _ _ hs hv hq ha => ⟨completes_mpopc hs hv hq ha, completes_mfirst hs hv hq ha⟩⟩

/-- Settles O27: a comparison or a mask word finds, at each position, the bits and elements that stood there at its start, since what
it has written before lies below; the whole-vector forms read all before they write. -/
theorem maskResults : Obligations.MaskResults := ⟨comparisonsWriteMaskBits, maskWordsFollowTheirTable⟩

end Sys2Proof.MaskWords
end
